-- ==== Sys2Proof/Word.lean ====
section
/-!
DEFINITION. The plain types the instruction words of the Nersen D4 name: machine words, register numbers, type codes
(06_encoding R128), rounding-mode fields (07 R144), spaces (06 R127), scopes and orders (09 R211, R215), condition codes
(06 R123), and the operands of the device events.
-/

namespace Sys2Proof

/-- A 64-bit word: an x register, an instruction word or an address. -/
abbrev Word := BitVec 64
/-- A byte. -/
abbrev Byte := BitVec 8
/-- A 32-bit word: a w register, an element of an accumulator slot. -/
abbrev Half := BitVec 32

/-- Register numbers of the files of R118. -/
abbrev XReg := Fin 64
abbrev WReg := Fin 48
abbrev VReg := Fin 32
abbrev MReg := Fin 8
abbrev SReg := Fin 8
/-- Accumulator slots `a0` to `a511` (R74). -/
abbrev Slot := Fin 512
/-- Copy channels (R289). -/
abbrev Chan := Fin 16
/-- Operand latches 0 and 1 of a VP (R78). -/
abbrev LatchNo := Fin 2
/-- Links `LW0` to `LW7` (R77). -/
abbrev LinkNo := Fin 8
/-- Lanes of a core (R14). -/
abbrev LaneNo := Fin 64
/-- Cores of the device (R14). -/
abbrev CoreNo := Fin 192
/-- Hardware queues (R387). -/
abbrev QueueNo := Fin 1024
/-- Partitions (R418). -/
abbrev PartNo := Fin 4
/-- ZFL ports (R455). -/
abbrev PortNo := Fin 16
/-- Slices (R18). -/
abbrev SliceNo := Fin 128

/-- The type codes of Table 6.5, in code order. -/
inductive Ty
  | s8 | z8 | s16 | z16 | s32 | z32 | s64 | z64 | f16 | bf16 | f32 | f64 | e4m3 | e5m2 | q4
  deriving DecidableEq, Repr

/-- A vector source register with its chain bit (R119). -/
structure VSrc where
  reg : VReg
  chained : Bool
  deriving DecidableEq, Repr

/-- The rounding-mode field of R144: the six modes of R102, or `NCTL.RM`. -/
inductive Mode
  | rne | rtz | rup | rdn | rna | sto | ctl
  deriving DecidableEq, Repr

/-- The space field of R127. -/
inductive Space
  | glob | ab | wb
  deriving DecidableEq, Repr

/-- The scope codes of Table 9.4. -/
inductive Scope
  | vp | core | group | quarter | device | system
  deriving DecidableEq, Repr

/-- The order field of R211. -/
inductive Order
  | relaxed | acq | rel | ar
  deriving DecidableEq, Repr

/-- The condition codes of Table 6.3. -/
inductive Cond
  | eq | ne | lt | ge | ltu | geu | al
  deriving DecidableEq, Repr

/-- The relations of `vcmp` (R177). -/
inductive Rel
  | eq | ne | lt | le | gt | ge
  deriving DecidableEq, Repr

/-- The operations of `vredm` (R213). -/
inductive RedOp
  | add | min | max | and | or | xor
  deriving DecidableEq, Repr

/-- The kinds of `vqnt` (R183): a fixed TYPE, or automatic choice. -/
inductive QKind
  | t0 | t1 | t2 | t3 | auto
  deriving DecidableEq, Repr

/-- The fibre encodings of Table 11.4. -/
inductive FibEnc
  | idx16 | idx32 | delta8 | bmp | run
  deriving DecidableEq, Repr

/-- The element widths `EW` takes (R81). -/
inductive Ew
  | w8 | w16 | w32
  deriving DecidableEq, Repr

/-- The modes `msetdl` sets (R243). -/
inductive DForm
  | elem | pack
  deriving DecidableEq, Repr

/-- The kinds of `tlbinv` (R376). -/
inductive TlbKind
  | all | asid | page | gpage
  deriving DecidableEq, Repr

/-- The classes of access a page may or may not allow (R410). -/
inductive AccKind
  | fetch      -- instruction fetch
  | load       -- a scalar load
  | block      -- a read of a record, an image or a buffer by any other instruction that is no vector read
  | waitLoad   -- the read of `wait.w`, allowed on device-register pages (R201)
  | vecRead    -- "vector read" of R410
  | store      -- a scalar store
  | vecStore   -- any other write
  | rmw        -- an atomic, a reduction, a hamper operation, a barrier word
  | cpeSrc     -- a copy source whose destination is AB or WB
  | cpeSrcGlob -- a copy source whose destination is global
  | cpeDst     -- a copy destination
  | watch      -- an address `vwatch` arms
  deriving DecidableEq, Repr

/-- The updates a home slice makes to one location (R211, R212, R213). -/
inductive AmoOp
  | add | min | max | and | or | xor | swap | cas | fadd | fmin | fmax
  deriving DecidableEq, Repr

/-- What arrives at the write queue of a home slice (R212, R226, R283): the physical address is part of it. -/
inductive HomeOp
  | amo (op : AmoOp) (ty : Ty) (addr : Nat) (operand compare : Word)
  | arrive (addr : Nat)
  | claim (addr : Nat) (t : Half)
  deriving DecidableEq, Repr

/-- Where a storage error lies (R438); in a TLB, which entry. -/
inductive ErrSite
  | glob (addr : Nat)
  | ab (core : CoreNo) (granule : Nat)
  | wb (core : CoreNo) (granule : Nat)
  | coreState (core : CoreNo)
  | cache (core : CoreNo) (entry : Nat)
  deriving DecidableEq, Repr

/-- The value a fault writes to `TVAL`, and the word and the lowest faulting element of a vector memory fault (R84). -/
structure FaultAt where
  val : Word
  vec : Option (BitVec 2 × BitVec 14) := none
  deriving DecidableEq, Repr

/-- What becomes of a storage error (R438): corrected by the code, gone when the store is read again, or lasting. -/
inductive ErrHow
  | corrected | transient | lasting
  deriving DecidableEq, Repr

/-- The six dies (Table 22.4): the quarters, then the I/O dies. -/
abbrev DieNo := Fin 6

namespace Ty

/-- Width in bits (R91, R94, R168). -/
def bits : Ty → Nat
  | s8 | z8 | e4m3 | e5m2 => 8
  | s16 | z16 | f16 | bf16 => 16
  | s32 | z32 | f32 => 32
  | s64 | z64 | f64 => 64
  | q4 => 4

/-- Size in bytes of a whole-byte type. -/
def size (t : Ty) : Nat := t.bits / 8

/-- Whether an integer type is signed (R91). -/
def signed : Ty → Bool
  | s8 | s16 | s32 | s64 => true
  | _ => false

/-- The integer types. -/
def isInt : Ty → Bool
  | s8 | z8 | s16 | z16 | s32 | z32 | s64 | z64 => true
  | _ => false

/-- `s32`, `z32`, `s64`, `z64`: the types of scalar arithmetic (R138). -/
def isXInt : Ty → Bool
  | s32 | z32 | s64 | z64 => true
  | _ => false

/-- `z32`, `z64`: the types of scalar logic (R138). -/
def isXUns : Ty → Bool
  | z32 | z64 => true
  | _ => false

/-- `f32`, `f64`: the types of scalar floating arithmetic (R144). -/
def isXFloat : Ty → Bool
  | f32 | f64 => true
  | _ => false

/-- TY 0 to 5: the integer types of vector registers. -/
def isVInt : Ty → Bool
  | s8 | z8 | s16 | z16 | s32 | z32 => true
  | _ => false

/-- TY 1, 3, 5: the types of vector logic (R174). -/
def isVUns : Ty → Bool
  | z8 | z16 | z32 => true
  | _ => false

/-- TY 8 to 10: the types of vector floating arithmetic (R181). -/
def isVFloat : Ty → Bool
  | f16 | bf16 | f32 => true
  | _ => false

/-- `s32`, `z32`: the types of w-register integer operations (R160). -/
def isWInt : Ty → Bool
  | s32 | z32 => true
  | _ => false

/-- TY 0 to 5, 8 to 10, 12, 13: the types that convert and that vectors load and store singly (R183, R203, R297). -/
def isConv : Ty → Bool
  | s8 | z8 | s16 | z16 | s32 | z32 | f16 | bf16 | f32 | e4m3 | e5m2 => true
  | _ => false

/-- TY 0 to 7: the types of scalar loads and stores (R202). -/
def isXMem : Ty → Bool
  | s8 | z8 | s16 | z16 | s32 | z32 | s64 | z64 => true
  | _ => false

/-- TY 0 to 13 except 11: the types of permutations, `vxch`, `vsel` and `vbcast` (R178, R192, R193). -/
def isPerm : Ty → Bool
  | f64 | q4 => false
  | _ => true

/-- The types of the vector forms of the DME (R261). -/
def isDmeVec : Ty → Bool
  | s8 | s16 | f16 | bf16 | f32 | e4m3 | e5m2 => true
  | _ => false

/-- The types of the latch forms of the DME (R261). -/
def isDmeLatch : Ty → Bool
  | s8 | z8 | f16 | bf16 | e4m3 | e5m2 | q4 => true
  | _ => false

end Ty

/-- Element width in bits. -/
def Ew.bits : Ew → Nat
  | .w8 => 8
  | .w16 => 16
  | .w32 => 32

/-- `MVL` = 65,536 ÷ `EW` (Table 4.4). -/
def Ew.mvl (e : Ew) : Nat := 65536 / e.bits

end Sys2Proof
end

