-- ==== Sys2Proof/Syntax.lean ====
section
/-!
DEFINITION. The instructions of the Nersen D4: one constructor for each row of spec/opcode_table.json, the 313 instructions
of the instruction chapters with the operands their encodings hold, then the 59 device events with what selects them.
The convoy-end bit E belongs to the word, not to the instruction (R115).
-/

namespace Sys2Proof

/-- One constructor per row of the opcode table. -/
inductive Instr
  /-- R139: Adds two x registers at the width and signedness of TY, wrapping -/
  | add (ty : Ty) (d a b : XReg)
  /-- R139: Subtracts xb from xa at the width of TY, wrapping -/
  | sub (ty : Ty) (d a b : XReg)
  /-- R139: Bitwise AND of two x registers at an unsigned width -/
  | and (ty : Ty) (d a b : XReg)
  /-- R139: Bitwise OR of two x registers at an unsigned width -/
  | or (ty : Ty) (d a b : XReg)
  /-- R139: Bitwise exclusive-or of two x registers at an unsigned width -/
  | xor (ty : Ty) (d a b : XReg)
  /-- R139: Shifts xa left by xb mod N -/
  | sll (ty : Ty) (d a b : XReg)
  /-- R139: Shifts xa right logically by xb mod N -/
  | srl (ty : Ty) (d a b : XReg)
  /-- R139: Shifts xa right arithmetically by xb mod N -/
  | sra (ty : Ty) (d a b : XReg)
  /-- R139: Writes 1 when xa is less than xb by the sign of TY, else 0 -/
  | slt (ty : Ty) (d a b : XReg)
  /-- R139: Writes the lesser of two x registers -/
  | min (ty : Ty) (d a b : XReg)
  /-- R139: Writes the greater of two x registers -/
  | max (ty : Ty) (d a b : XReg)
  /-- R139: Selects xa when xc is nonzero, else xb -/
  | csel (ty : Ty) (d a b c : XReg)
  /-- R139: Adds xa and xb shifted left by 0 to 7 -/
  | addsl (ty : Ty) (d a b : XReg) (n : BitVec 3)
  /-- R139: Multiplies two x registers, keeping the low half -/
  | mul (ty : Ty) (d a b : XReg)
  /-- R139: Writes the high half of the exact product -/
  | mulh (ty : Ty) (d a b : XReg)
  /-- R93: Integer quotient, never trapping -/
  | div (ty : Ty) (d a b : XReg)
  /-- R93: Integer remainder, never trapping -/
  | rem (ty : Ty) (d a b : XReg)
  /-- R139: Counts leading zeros of xa -/
  | clz (ty : Ty) (d a : XReg)
  /-- R139: Counts trailing zeros of xa -/
  | ctz (ty : Ty) (d a : XReg)
  /-- R139: Counts the 1 bits of xa -/
  | popc (ty : Ty) (d a : XReg)
  /-- R139: Sign- or zero-extends the low 8, 16 or 32 bits of xa to 64 bits -/
  | ext (ty : Ty) (d a : XReg)
  /-- R140: Full-form add of a sign-extended 16-bit immediate -/
  | addi (ty : Ty) (d a : XReg) (imm : BitVec 16)
  /-- R140: Bitwise AND with a zero-extended immediate -/
  | andi (ty : Ty) (d a : XReg) (imm : BitVec 16)
  /-- R140: Bitwise OR with a zero-extended immediate -/
  | ori (ty : Ty) (d a : XReg) (imm : BitVec 16)
  /-- R140: Bitwise exclusive-or with a zero-extended immediate -/
  | xori (ty : Ty) (d a : XReg) (imm : BitVec 16)
  /-- R140: Shifts left by an immediate count -/
  | slli (ty : Ty) (d a : XReg) (n : BitVec 6)
  /-- R140: Shifts right logically by an immediate count -/
  | srli (ty : Ty) (d a : XReg) (n : BitVec 6)
  /-- R140: Full-form arithmetic right shift by an immediate count -/
  | srai (ty : Ty) (d a : XReg) (n : BitVec 6)
  /-- R140: Writes 1 when xa is less than the immediate -/
  | slti (ty : Ty) (d a : XReg) (imm : BitVec 16)
  /-- R140: Multiplies xa by a sign-extended immediate -/
  | muli (ty : Ty) (d a : XReg) (imm : BitVec 16)
  /-- R141: Loads a sign-extended 32-bit immediate -/
  | lim (d : XReg) (imm : BitVec 32)
  /-- R141: Writes a 32-bit immediate into the high half of xd -/
  | lih (d : XReg) (imm : BitVec 32)
  /-- R141: Forms the convoy address plus a signed 32-bit offset -/
  | addpc (d : XReg) (imm : BitVec 32)
  /-- R132: Restricted slot with no effect -/
  | nop
  /-- R142: Restricted copy of one x register into another -/
  | mov (d a : XReg)
  /-- R142: Restricted add of a 14-bit signed immediate to DA -/
  | addiR (d : XReg) (imm : BitVec 14)
  /-- R142: Restricted DA ← DA + S, wrapping -/
  | addR (d a : XReg)
  /-- R142: Restricted DA ← DA − S, wrapping -/
  | subR (d a : XReg)
  /-- R142: Restricted DA ← DA AND S -/
  | andR (d a : XReg)
  /-- R142: Restricted DA ← DA OR S -/
  | orR (d a : XReg)
  /-- R142: Restricted DA ← DA XOR S -/
  | xorR (d a : XReg)
  /-- R142: Restricted left shift of DA by n -/
  | shli (d : XReg) (n : BitVec 6)
  /-- R142: Restricted logical right shift of DA by n -/
  | shri (d : XReg) (n : BitVec 6)
  /-- R142: Restricted arithmetic right shift of DA by n -/
  | sraiR (d : XReg) (n : BitVec 6)
  /-- R142: Restricted load of one global dword at S plus 8 times IMM14 -/
  | ldR (d a : XReg) (off : BitVec 14)
  /-- R142: Restricted commit-performed store of one global dword -/
  | stR (v a : XReg) (off : BitVec 14)
  /-- R12: Restricted branch to a convoy when DA is zero -/
  | beqz (a : XReg) (off : BitVec 14)
  /-- R12: Restricted branch to a convoy when DA is nonzero -/
  | bnez (a : XReg) (off : BitVec 14)
  /-- R159: Restricted VP copy of one w register into another -/
  | wmovR (d a : WReg)
  /-- R160: Restricted VP add of a signed immediate under R92 -/
  | waddiR (d : WReg) (imm : BitVec 14)
  /-- R160: Restricted VP DA ← DA + S under R92 -/
  | waddR (d a : WReg)
  /-- R160: Restricted VP f32 addition under the VP's NCTL -/
  | wfaddR (d a : WReg)
  /-- R160: Restricted VP f32 multiplication under the VP's NCTL -/
  | wfmulR (d a : WReg)
  /-- R162: Restricted load of an operand latch, setting its hold bit -/
  | wlatR (a : WReg) (l : LatchNo)
  /-- R162: Restricted DA ← DA + S × latch l -/
  | wfmalR (d a : WReg) (l : LatchNo)
  /-- R176: Adds a signed 14-bit immediate to every element below VL of an integer-tagged register -/
  | vaddiR (d : VReg) (imm : BitVec 14)
  /-- R176: Copies elements below VL and the tag of one vector register into another -/
  | vmov (d a : VReg)
  /-- R143: Sets VL to Min(n, MVL) and writes the new VL into xd -/
  | setvli (d : XReg) (n : BitVec 14)
  /-- R157: Restricted terminator naming the VP's next AIB -/
  | tfetchR (off : BitVec 14)
  /-- R157: Restricted terminator that stops the VP -/
  | tstopR
  /-- R145: Scalar floating addition, rounded once -/
  | fadd (ty : Ty) (d a b : XReg) (mode : Mode)
  /-- R145: Scalar floating subtraction, rounded once -/
  | fsub (ty : Ty) (d a b : XReg) (mode : Mode)
  /-- R145: Scalar floating multiplication, rounded once -/
  | fmul (ty : Ty) (d a b : XReg) (mode : Mode)
  /-- R145: Scalar floating division, rounded once -/
  | fdiv (ty : Ty) (d a b : XReg) (mode : Mode)
  /-- R145: Scalar floating square root, rounded once -/
  | fsqrt (ty : Ty) (d a : XReg) (mode : Mode)
  /-- R145: Scalar floating minimum with −0 below +0 -/
  | fmin (ty : Ty) (d a b : XReg) (mode : Mode)
  /-- R145: Scalar floating maximum with −0 below +0 -/
  | fmax (ty : Ty) (d a b : XReg) (mode : Mode)
  /-- R145: Inverts the sign of a scalar floating value -/
  | fneg (ty : Ty) (d a : XReg) (mode : Mode)
  /-- R145: Clears the sign of a scalar floating value -/
  | fabs (ty : Ty) (d a : XReg) (mode : Mode)
  /-- R145: Writes 1 when two floating values are equal -/
  | feq (ty : Ty) (d a b : XReg) (mode : Mode)
  /-- R145: Writes 1 when xa is less than xb as floating values -/
  | flt (ty : Ty) (d a b : XReg) (mode : Mode)
  /-- R145: Writes 1 when xa is at most xb as floating values -/
  | fle (ty : Ty) (d a b : XReg) (mode : Mode)
  /-- R146: Converts between scalar integer and floating types by R104 -/
  | fcvt (ty u : Ty) (d a : XReg) (mode : Mode)
  /-- R145: Scalar multiply-add, fused or unfused by Table 5.8 -/
  | fma (ty : Ty) (d a b c : XReg) (mode : Mode)
  /-- R147: Loads a bf16 immediate converted to f32 or f64 -/
  | fli (ty : Ty) (d : XReg) (imm : BitVec 16)
  /-- R147: Adds a converted bf16 immediate under NCTL.RM -/
  | faddi (ty : Ty) (d a : XReg) (imm : BitVec 16)
  /-- R147: Multiplies by a converted bf16 immediate under NCTL.RM -/
  | fmuli (ty : Ty) (d a : XReg) (imm : BitVec 16)
  /-- R148: Full-form conditional branch comparing xa and xb -/
  | branch (cond : Cond) (a b : XReg) (off : BitVec 32)
  /-- R149: Writes the link and transfers to a convoy-relative target -/
  | jal (d : XReg) (off : BitVec 32)
  /-- R150: Transfers to the address in xa and writes the link into xd -/
  | jr (d a : XReg)
  /-- R151: Commits its convoy and raises the system-call trap with TEPC at the next convoy -/
  | svc (code : BitVec 11)
  /-- R151: Commits its convoy and raises the breakpoint trap -/
  | brk (code : BitVec 11)
  /-- R65: Waits for thread mode to end, then drains, releases stores and ends the thread -/
  | halt
  /-- R67: Offers the thread's cores to the command processor as a pre-emption request -/
  | yield
  /-- R153: Reads a control and status register into xd -/
  | csrr (d : XReg) (csr : BitVec 12)
  /-- R153: Writes a control and status register by its map -/
  | csrw (csr : BitVec 12) (a : XReg)
  /-- R152: Sets VL to Min(xa, MVL) and writes it into xd -/
  | setvl (d a : XReg)
  /-- R152: Sets the element width and clips VL to the new MVL -/
  | setew (ew : Ew)
  /-- R152: Sets the lane slip limit -/
  | setslip (n : BitVec 4)
  /-- R154: Waits for thread mode to end, then creates n stopped VPs with zeroed state -/
  | setvp (a : XReg)
  /-- R156: Makes every VP runnable at the target AIB and enters thread mode -/
  | vfetch (off : BitVec 32)
  /-- R157: Full-form terminator naming the VP's next AIB -/
  | tfetch (off : BitVec 32)
  /-- R157: Terminator choosing the next AIB by whether wa is nonzero -/
  | tfsel (a : WReg) (l1 l2 : BitVec 16)
  /-- R157: Full-form terminator that stops the VP and clears its hold bits -/
  | tstop
  /-- R57: Waits until the vector unit leaves thread mode, ordering VP accesses before later ones -/
  | vrejoin
  /-- R161: Full-form VP copy of one w register -/
  | wmov (d a : WReg)
  /-- R160: VP integer addition under R92 -/
  | wadd (ty : Ty) (d a b : WReg)
  /-- R160: VP integer subtraction under R92 -/
  | wsub (ty : Ty) (d a b : WReg)
  /-- R160: VP integer multiplication under R92 -/
  | wmul (ty : Ty) (d a b : WReg)
  /-- R161: VP bitwise AND -/
  | wand (d a b : WReg)
  /-- R161: VP bitwise OR -/
  | wor (d a b : WReg)
  /-- R161: VP bitwise exclusive-or -/
  | wxor (d a b : WReg)
  /-- R161: VP left shift by wb mod 32 -/
  | wshl (d a b : WReg)
  /-- R161: VP logical right shift by wb mod 32 -/
  | wshr (d a b : WReg)
  /-- R161: VP arithmetic right shift by wb mod 32 -/
  | wsra (d a b : WReg)
  /-- R161: VP integer minimum -/
  | wmin (ty : Ty) (d a b : WReg)
  /-- R161: VP integer maximum -/
  | wmax (ty : Ty) (d a b : WReg)
  /-- R161: VP writes 1 when two w registers are equal -/
  | wseq (ty : Ty) (d a b : WReg)
  /-- R161: VP writes 1 when wa is less than wb -/
  | wslt (ty : Ty) (d a b : WReg)
  /-- R161: VP floating equality test -/
  | wfeq (d a b : WReg) (mode : Mode)
  /-- R161: VP floating less-than test -/
  | wflt (d a b : WReg) (mode : Mode)
  /-- R161: VP floating less-or-equal test -/
  | wfle (d a b : WReg) (mode : Mode)
  /-- R161: VP select of wa or wb by wc -/
  | wsel (d a b c : WReg)
  /-- R161: Full-form VP f32 addition -/
  | wfadd (d a b : WReg) (mode : Mode)
  /-- R161: VP f32 subtraction -/
  | wfsub (d a b : WReg) (mode : Mode)
  /-- R161: Full-form VP f32 multiplication -/
  | wfmul (d a b : WReg) (mode : Mode)
  /-- R161: VP f32 multiply-add -/
  | wfma (d a b c : WReg) (mode : Mode)
  /-- R162: Full-form VP accumulate of wa times an operand latch -/
  | wfmal (d a : WReg) (l : LatchNo) (mode : Mode)
  /-- R162: Full-form load of an operand latch with its hold bit set -/
  | wlat (a : WReg) (l : LatchNo) (mode : Mode)
  /-- R161: VP conversion between s32, z32 and f32 -/
  | wcvt (ty u : Ty) (d a : WReg) (mode : Mode)
  /-- R161: VP floating minimum -/
  | wfmin (d a b : WReg) (mode : Mode)
  /-- R161: VP floating maximum -/
  | wfmax (d a b : WReg) (mode : Mode)
  /-- R163: Copies the VP's own element of a vector register into a w register -/
  | wget (d : WReg) (a : VSrc)
  /-- R163: Writes a w register into the VP's own element of a vector register, held to AIB completion -/
  | wput (d : VReg) (a : WReg)
  /-- R164: Loads an immediate into a w register -/
  | wli (ty : Ty) (d : WReg) (imm : BitVec 16)
  /-- R160: Full-form VP add of an immediate -/
  | waddi (ty : Ty) (d a : WReg) (imm : BitVec 16)
  /-- R164: VP AND with a zero-extended immediate -/
  | wandi (d a : WReg) (imm : BitVec 16)
  /-- R164: VP OR with a zero-extended immediate -/
  | wori (d a : WReg) (imm : BitVec 16)
  /-- R164: VP exclusive-or with a zero-extended immediate -/
  | wxori (d a : WReg) (imm : BitVec 16)
  /-- R164: VP left shift by an immediate -/
  | wshli (d a : WReg) (n : BitVec 5)
  /-- R164: VP logical right shift by an immediate -/
  | wshri (d a : WReg) (n : BitVec 5)
  /-- R164: VP arithmetic right shift by an immediate -/
  | wsrai (d a : WReg) (n : BitVec 5)
  /-- R164: VP equality test against an immediate -/
  | wseqi (ty : Ty) (d a : WReg) (imm : BitVec 16)
  /-- R164: VP less-than test against an immediate -/
  | wslti (ty : Ty) (d a : WReg) (imm : BitVec 16)
  /-- R165: VP load from its core's AB or WB -/
  | wld (ty : Ty) (d a : WReg) (off : BitVec 16) (sp : Space)
  /-- R165: VP store to its core's AB, held to AIB completion -/
  | wst (ty : Ty) (v a : WReg) (off : BitVec 16)
  /-- R173: Element-wise integer addition under R92 -/
  | vadd (ty : Ty) (m : MReg) (d : VReg) (a b : VSrc)
  /-- R173: Element-wise integer subtraction under R92 -/
  | vsub (ty : Ty) (m : MReg) (d : VReg) (a b : VSrc)
  /-- R173: Element-wise integer multiplication, low half -/
  | vmul (ty : Ty) (m : MReg) (d : VReg) (a b : VSrc)
  /-- R173: Element-wise high half of the integer product -/
  | vmulh (ty : Ty) (m : MReg) (d : VReg) (a b : VSrc)
  /-- R173: Element-wise integer quotient by R93 -/
  | vdiv (ty : Ty) (m : MReg) (d : VReg) (a b : VSrc)
  /-- R173: Element-wise integer remainder by R93 -/
  | vrem (ty : Ty) (m : MReg) (d : VReg) (a b : VSrc)
  /-- R173: Element-wise integer minimum -/
  | vmin (ty : Ty) (m : MReg) (d : VReg) (a b : VSrc)
  /-- R173: Element-wise integer maximum -/
  | vmax (ty : Ty) (m : MReg) (d : VReg) (a b : VSrc)
  /-- R173: Element-wise integer absolute value -/
  | vabs (ty : Ty) (m : MReg) (d : VReg) (a : VSrc)
  /-- R173: Element-wise integer negation -/
  | vneg (ty : Ty) (m : MReg) (d : VReg) (a : VSrc)
  /-- R173: Element-wise integer multiply-add, fitted once -/
  | vmadd (ty : Ty) (m : MReg) (d : VReg) (a b c : VSrc)
  /-- R173: Element-wise left shift by vb mod w -/
  | vsll (ty : Ty) (m : MReg) (d : VReg) (a b : VSrc)
  /-- R173: Element-wise logical right shift -/
  | vsrl (ty : Ty) (m : MReg) (d : VReg) (a b : VSrc)
  /-- R173: Element-wise arithmetic right shift -/
  | vsra (ty : Ty) (m : MReg) (d : VReg) (a b : VSrc)
  /-- R174: Element-wise bitwise AND -/
  | vand (ty : Ty) (m : MReg) (d : VReg) (a b : VSrc)
  /-- R174: Element-wise bitwise OR -/
  | vor (ty : Ty) (m : MReg) (d : VReg) (a b : VSrc)
  /-- R174: Element-wise bitwise exclusive-or -/
  | vxor (ty : Ty) (m : MReg) (d : VReg) (a b : VSrc)
  /-- R174: Element-wise a AND NOT b -/
  | vandn (ty : Ty) (m : MReg) (d : VReg) (a b : VSrc)
  /-- R174: Element-wise bitwise NOT -/
  | vnot (ty : Ty) (m : MReg) (d : VReg) (a : VSrc)
  /-- R175: Full-form integer add of an immediate -/
  | vaddi (ty : Ty) (m : MReg) (d : VReg) (a : VSrc) (imm : BitVec 16)
  /-- R175: Integer multiply by an immediate -/
  | vmuli (ty : Ty) (m : MReg) (d : VReg) (a : VSrc) (imm : BitVec 16)
  /-- R175: Integer minimum with an immediate -/
  | vmini (ty : Ty) (m : MReg) (d : VReg) (a : VSrc) (imm : BitVec 16)
  /-- R175: Integer maximum with an immediate -/
  | vmaxi (ty : Ty) (m : MReg) (d : VReg) (a : VSrc) (imm : BitVec 16)
  /-- R175: Bitwise AND with a zero-extended immediate -/
  | vandi (ty : Ty) (m : MReg) (d : VReg) (a : VSrc) (imm : BitVec 16)
  /-- R175: Bitwise OR with a zero-extended immediate -/
  | vori (ty : Ty) (m : MReg) (d : VReg) (a : VSrc) (imm : BitVec 16)
  /-- R175: Bitwise exclusive-or with a zero-extended immediate -/
  | vxori (ty : Ty) (m : MReg) (d : VReg) (a : VSrc) (imm : BitVec 16)
  /-- R175: Element-wise left shift by an immediate -/
  | vslli (ty : Ty) (m : MReg) (d : VReg) (a : VSrc) (n : BitVec 5)
  /-- R175: Element-wise logical right shift by an immediate -/
  | vsrli (ty : Ty) (m : MReg) (d : VReg) (a : VSrc) (n : BitVec 5)
  /-- R175: Element-wise arithmetic right shift by an immediate -/
  | vsrai (ty : Ty) (m : MReg) (d : VReg) (a : VSrc) (n : BitVec 5)
  /-- R177: Compares each element with an immediate into a mask -/
  | vcmpi (rel : Rel) (ty : Ty) (m d : MReg) (a : VSrc) (imm : BitVec 16)
  /-- R177: Compares two vector registers element-wise into a mask -/
  | vcmp (rel : Rel) (ty : Ty) (m d : MReg) (a b : VSrc)
  /-- R178: Selects elements of va or vb by a mask -/
  | vsel (ty : Ty) (d : VReg) (a b : VSrc) (c : MReg)
  /-- R178: Broadcasts the low bits of an x register to every active element -/
  | vbcast (ty : Ty) (m : MReg) (d : VReg) (a : XReg)
  /-- R179: Copies a whole register and sidecar and sets a new tag -/
  | vtag (d : VReg) (a : VSrc) (tag : Ty) (span : BitVec 3)
  /-- R180: Writes start plus e times step into each active element -/
  | vidx (ty : Ty) (m : MReg) (d : VReg) (start step : BitVec 16)
  /-- R181: Element-wise floating addition -/
  | vaddF (ty : Ty) (m : MReg) (d : VReg) (a b : VSrc) (mode : Mode)
  /-- R181: Element-wise floating subtraction -/
  | vsubF (ty : Ty) (m : MReg) (d : VReg) (a b : VSrc) (mode : Mode)
  /-- R181: Element-wise floating multiplication -/
  | vmulF (ty : Ty) (m : MReg) (d : VReg) (a b : VSrc) (mode : Mode)
  /-- R181: Element-wise floating division -/
  | vdivF (ty : Ty) (m : MReg) (d : VReg) (a b : VSrc) (mode : Mode)
  /-- R181: Element-wise floating square root -/
  | vsqrt (ty : Ty) (m : MReg) (d : VReg) (a : VSrc) (mode : Mode)
  /-- R181: Element-wise floating minimum -/
  | vminF (ty : Ty) (m : MReg) (d : VReg) (a b : VSrc) (mode : Mode)
  /-- R181: Element-wise floating maximum -/
  | vmaxF (ty : Ty) (m : MReg) (d : VReg) (a b : VSrc) (mode : Mode)
  /-- R181: Element-wise floating sign inversion -/
  | vnegF (ty : Ty) (m : MReg) (d : VReg) (a : VSrc) (mode : Mode)
  /-- R181: Element-wise floating sign clearing -/
  | vabsF (ty : Ty) (m : MReg) (d : VReg) (a : VSrc) (mode : Mode)
  /-- R181: Element-wise floating multiply-add -/
  | vfma (ty : Ty) (m : MReg) (d : VReg) (a b c : VSrc) (mode : Mode)
  /-- R181: Widening multiply-accumulate of f16 or bf16 into f32 -/
  | vfmaw (u : Ty) (m : MReg) (d : VReg) (a b : VSrc) (mode : Mode)
  /-- R182: Floating add of a bf16 immediate -/
  | vaddiF (ty : Ty) (m : MReg) (d : VReg) (a : VSrc) (imm : BitVec 16)
  /-- R182: Floating multiply by a bf16 immediate -/
  | vmuliF (ty : Ty) (m : MReg) (d : VReg) (a : VSrc) (imm : BitVec 16)
  /-- R182: Floating minimum with a bf16 immediate -/
  | vminiF (ty : Ty) (m : MReg) (d : VReg) (a : VSrc) (imm : BitVec 16)
  /-- R182: Floating maximum with a bf16 immediate -/
  | vmaxiF (ty : Ty) (m : MReg) (d : VReg) (a : VSrc) (imm : BitVec 16)
  /-- R184: Converts each active element between integer and floating types -/
  | vcvt (ty u : Ty) (m : MReg) (d : VReg) (a : VSrc) (mode : Mode)
  /-- R185: Quantises blocks of 32 values into q4 codes and scales -/
  | vqnt (u : Ty) (kind : QKind) (d : VReg) (a : VSrc)
  /-- R186: Decodes q4 elements to a floating type -/
  | vdqnt (ty : Ty) (m : MReg) (d : VReg) (a : VSrc) (mode : Mode)
  /-- R187: One Hadamard butterfly stage at distance d -/
  | vbfly (ty : Ty) (d : VReg) (a : VSrc) (j : BitVec 4) (nw : Bool) (mode : Mode)
  /-- R189: Writes counter-based hash words into each active element -/
  | vrnd (m : MReg) (d : VReg) (a b : XReg)
  /-- R190: Reduces the active elements to their sum in an x register -/
  | vredsum (ty : Ty) (m : MReg) (d : XReg) (a : VSrc) (b : XReg)
  /-- R190: Reduces the active elements to their minimum -/
  | vredmin (ty : Ty) (m : MReg) (d : XReg) (a : VSrc) (b : XReg)
  /-- R190: Reduces the active elements to their maximum -/
  | vredmax (ty : Ty) (m : MReg) (d : XReg) (a : VSrc) (b : XReg)
  /-- R190: Reduces the active elements by bitwise AND -/
  | vredand (ty : Ty) (m : MReg) (d : XReg) (a : VSrc) (b : XReg)
  /-- R190: Reduces the active elements by bitwise OR -/
  | vredor (ty : Ty) (m : MReg) (d : XReg) (a : VSrc) (b : XReg)
  /-- R190: Reduces the active elements by exclusive-or -/
  | vredxor (ty : Ty) (m : MReg) (d : XReg) (a : VSrc) (b : XReg)
  /-- R191: Inclusive or exclusive prefix sum, optionally segmented -/
  | vscansum (ty : Ty) (m : MReg) (d : VReg) (a : VSrc) (c : MReg) (ex : Bool)
  /-- R191: Prefix minimum, optionally segmented -/
  | vscanmin (ty : Ty) (m : MReg) (d : VReg) (a : VSrc) (c : MReg) (ex : Bool)
  /-- R191: Prefix maximum, optionally segmented -/
  | vscanmax (ty : Ty) (m : MReg) (d : VReg) (a : VSrc) (c : MReg) (ex : Bool)
  /-- R191: Writes each segment's sum to its last element -/
  | vsegsum (ty : Ty) (m : MReg) (d : VReg) (a : VSrc) (c : MReg)
  /-- R191: Writes each segment's minimum to its last element -/
  | vsegmin (ty : Ty) (m : MReg) (d : VReg) (a : VSrc) (c : MReg)
  /-- R191: Writes each segment's maximum to its last element -/
  | vsegmax (ty : Ty) (m : MReg) (d : VReg) (a : VSrc) (c : MReg)
  /-- R192: Moves elements up by k positions -/
  | vslideup (ty : Ty) (m : MReg) (d : VReg) (a : VSrc) (b : XReg)
  /-- R192: Moves elements down by k positions, filling with zero -/
  | vslidedn (ty : Ty) (m : MReg) (d : VReg) (a : VSrc) (b : XReg)
  /-- R192: Rotates elements by k modulo VL -/
  | vrot (ty : Ty) (m : MReg) (d : VReg) (a : VSrc) (b : XReg)
  /-- R192: Gathers elements of va by indices in vb -/
  | vperm (ty : Ty) (m : MReg) (d : VReg) (a b : VSrc)
  /-- R192: Packs the elements selected by a mask to the front -/
  | vcompress (ty : Ty) (d : VReg) (a : VSrc) (c : MReg)
  /-- R192: Spreads leading elements to the positions of a mask's set bits -/
  | vexpand (ty : Ty) (d : VReg) (a : VSrc) (c : MReg)
  /-- R194: Offers va to a peer thread of a group and waits to pair, exchanging lane-aligned elements -/
  | vxch (ty : Ty) (d : VReg) (a : VSrc) (b c : XReg)
  /-- R196: Bitwise AND of two masks -/
  | mand (d a b : MReg)
  /-- R196: Bitwise OR of two masks -/
  | mor (d a b : MReg)
  /-- R196: Bitwise exclusive-or of two masks -/
  | mxor (d a b : MReg)
  /-- R196: ma AND NOT mb -/
  | mandn (d a b : MReg)
  /-- R196: Bitwise NOT of a mask -/
  | mnot (d a : MReg)
  /-- R196: Sets mask bits below VL to one -/
  | mset (d : MReg)
  /-- R196: Counts set mask bits below VL into xd -/
  | mpopc (d : XReg) (a : MReg)
  /-- R196: Writes the lowest set mask bit below VL, or all ones -/
  | mfirst (d : XReg) (a : MReg)
  /-- R202: Full-form scalar load of 1 to 8 bytes from global, AB or WB -/
  | ld (ty : Ty) (sp : Space) (d a : XReg) (off : BitVec 16)
  /-- R202: Full-form commit-performed scalar store of 1 to 8 bytes -/
  | st (ty : Ty) (sp : Space) (v a : XReg) (off : BitVec 16)
  /-- R205: Unit-stride vector load, including the q4 form with scales -/
  | vld (ty : Ty) (sp : Space) (m : MReg) (d : VReg) (a b : XReg) (off : BitVec 16)
  /-- R205: Unit-stride vector store, including the q4 form -/
  | vst (ty : Ty) (sp : Space) (m : MReg) (v : VReg) (a b : XReg) (off : BitVec 16)
  /-- R204: Strided vector load -/
  | vlds (ty : Ty) (sp : Space) (m : MReg) (d : VReg) (a b : XReg) (off : BitVec 16)
  /-- R207: Strided vector store, same-address writes in ascending element order -/
  | vsts (ty : Ty) (sp : Space) (m : MReg) (v : VReg) (a b : XReg) (off : BitVec 16)
  /-- R204: Indexed vector gather -/
  | vldx (ty : Ty) (sp : Space) (m : MReg) (d : VReg) (a : XReg) (b : VSrc) (off : BitVec 16) (sc : Bool)
  /-- R207: Indexed vector scatter -/
  | vstx (ty : Ty) (sp : Space) (m : MReg) (v : VReg) (a : XReg) (b : VSrc) (off : BitVec 16) (sc : Bool)
  /-- R210: Loads n-field records into n registers with conversion -/
  | vldseg (ty u : Ty) (sp : Space) (m : MReg) (d : VReg) (a : XReg) (n1 : BitVec 3) (mode : Mode)
  /-- R210: Stores n registers as n-field records with conversion -/
  | vstseg (ty u : Ty) (sp : Space) (m : MReg) (v : VReg) (a : XReg) (n1 : BitVec 3) (mode : Mode)
  /-- R212: Atomic add at the home slice, returning the old value -/
  | amoadd (ty : Ty) (ord : Order) (scope : Scope) (d a b : XReg)
  /-- R212: Atomic minimum at the home slice -/
  | amomin (ty : Ty) (ord : Order) (scope : Scope) (d a b : XReg)
  /-- R212: Atomic maximum at the home slice -/
  | amomax (ty : Ty) (ord : Order) (scope : Scope) (d a b : XReg)
  /-- R212: Atomic bitwise AND -/
  | amoand (ty : Ty) (ord : Order) (scope : Scope) (d a b : XReg)
  /-- R212: Atomic bitwise OR -/
  | amoor (ty : Ty) (ord : Order) (scope : Scope) (d a b : XReg)
  /-- R212: Atomic bitwise exclusive-or -/
  | amoxor (ty : Ty) (ord : Order) (scope : Scope) (d a b : XReg)
  /-- R212: Atomic exchange -/
  | amoswap (ty : Ty) (ord : Order) (scope : Scope) (d a b : XReg)
  /-- R212: Atomic compare-and-swap -/
  | amocas (ty : Ty) (ord : Order) (scope : Scope) (d a b c : XReg)
  /-- R212: Atomic f32 addition rounded by RNE -/
  | amofadd (ord : Order) (scope : Scope) (d a b : XReg)
  /-- R213: Applies one memory reduction per active element at the home slices -/
  | vredm (op : RedOp) (ty : Ty) (scope : Scope) (m : MReg) (a : XReg) (b c : VSrc)
  /-- R216: Orders earlier before later scalar-unit accesses at a scope, waiting for slice acknowledgements -/
  | fence (scope : Scope)
  /-- R217: Waits for earlier vector loads and stores to complete -/
  | vdrain
  /-- R217: Waits for earlier vector loads to obtain their values -/
  | vdrainl
  /-- R217: Waits for earlier vector stores to be acknowledged -/
  | vdrains
  /-- R220: Waits until an arrival word's GEN differs from xb -/
  | waitArr (d a b : XReg)
  /-- R220: Waits until a dword differs from xb -/
  | waitW (sp : Space) (d a b : XReg)
  /-- R223: Waits until a watch entry fires and reports and disarms fired entries -/
  | waitWatch (d : XReg)
  /-- R222: Releases the watch set and arms one entry per active element -/
  | vwatch (m : MReg) (d a : XReg) (b : VSrc)
  /-- R225: Arrives at a group barrier and waits for the generation to complete -/
  | gsync (d a : XReg)
  /-- R226: Arrives at a barrier word in global memory and waits -/
  | gsyncW (d a : XReg)
  /-- R230: Initialises a hamper descriptor and enters it into the pairing table -/
  | hinit (scope : Scope) (d a : XReg)
  /-- R231: Pushes a value onto a hamper, at home or by pairing -/
  | hpush (scope : Scope) (d a b : XReg)
  /-- R231: Pops a value or the sentinel from a hamper -/
  | hpop (scope : Scope) (d a : XReg)
  /-- R229: Returns a hamper's COUNT and CAP -/
  | hstat (scope : Scope) (d a : XReg)
  /-- R235: VP form of hpush on w registers, in an AIB's last convoy -/
  | hpushVp (scope : Scope) (d a b : WReg)
  /-- R235: VP form of hpop on w registers -/
  | hpopVp (scope : Scope) (d a : WReg)
  /-- R237: Drains and releases, then raises a link watermark and delivers it to consumers -/
  | wmpub (k : LinkNo) (a : XReg)
  /-- R239: Arms an arrival word with a total and returns its GEN -/
  | aarm (d a b : XReg)
  /-- R263: Sets DMODE and DL and invalidates both DME latches -/
  | msetdl (mode : DForm) (a : XReg)
  /-- R263: Loads latch A from AB or WB through a layout word -/
  | dlda (sp : Space) (h : Bool) (a b c : XReg)
  /-- R263: Loads latch B from AB or WB through a layout word -/
  | dldb (sp : Space) (h : Bool) (a b c : XReg)
  /-- R263: Sets or clears the HOLD bit of valid latches -/
  | dhold (ha hb wa wb : Bool)
  /-- R263: Writes zero to a range of accumulator slots -/
  | dzero (k : Slot) (c : XReg)
  /-- R263: Sets the triangular fill constant -/
  | dsetfill (a : XReg)
  /-- R263: Loads the 128-entry row-budget table from AB -/
  | dbudget (a : XReg)
  /-- R264: Copies sparsity metadata into MD after commit -/
  | dmeta (sp : Space) (a b c : XReg)
  /-- R265: Moves slot values, or a cyclic row, into a vector register -/
  | dmovV (ty : Ty) (d : VReg) (k : Slot) (row : Bool) (c : XReg)
  /-- R265: Moves active vector elements into slot values -/
  | dmovA (m : MReg) (k : Slot) (a : VSrc)
  /-- R265: Moves slot values into a register with conversion -/
  | dcvt (ty : Ty) (uf : Bool) (d : VReg) (k : Slot) (row : Bool) (c : XReg)
  /-- R262: Elemental diagonal product with offsets in a register -/
  | dmacV (ty : Ty) (k : Slot) (a b : VSrc) (c : XReg)
  /-- R262: Packed diagonal product from the latches with offsets in a register -/
  | dmacL (ty : Ty) (k : Slot) (c : XReg)
  /-- R262: Elemental triangular diagonal product -/
  | dmacTriV (ty : Ty) (k : Slot) (a b : VSrc) (c : XReg)
  /-- R262: Packed triangular diagonal product -/
  | dmacTriL (ty : Ty) (k : Slot) (c : XReg)
  /-- R255: Sparse packed diagonal product with offsets in a register -/
  | dmacs (ty : Ty) (k : Slot) (c : XReg)
  /-- R252: Full cyclic sweep over the latches, optionally triangular or sparse -/
  | dsweep (ty : Ty) (k : Slot) (tri sp : Bool) (c : XReg)
  /-- R262: Elemental diagonal product with immediate slot and offsets -/
  | dmacVI (ty : Ty) (k : Slot) (a b : VSrc) (p q : BitVec 8)
  /-- R262: Packed diagonal product with immediate slot and offsets -/
  | dmacLI (ty : Ty) (k : Slot) (p q : BitVec 8)
  /-- R262: Sparse packed diagonal product with immediates -/
  | dmacsI (ty : Ty) (k : Slot) (mo : BitVec 7) (p q : BitVec 8)
  /-- R265: Writes a converted immediate into every value of slots -/
  | dmovi (ty : Ty) (k : Slot) (n1 : BitVec 7) (imm : BitVec 16)
  /-- R271: Binds a stream register to an affine stream -/
  | sopenAff (ty : Ty) (sp : Space) (s : SReg) (a b c : XReg)
  /-- R271: Binds a stream register to an indirect stream -/
  | sopenInd (ty : Ty) (vsp isp : Space) (iw16 : Bool) (s : SReg) (a b c : XReg)
  /-- R271: Binds a stream register to a fibre -/
  | sopenFib (ty : Ty) (isp vsp : Space) (enc : FibEnc) (s : SReg) (a b c : XReg)
  /-- R276: Delivers up to VL stream elements into a vector register -/
  | snext (d : VReg) (ve : Option VReg) (s : SReg) (b : XReg)
  /-- R277: Tests whether a stream has ended and builds a remaining mask -/
  | sdone (d : XReg) (md : MReg) (s : SReg)
  /-- R278: Moves a stream cursor by position or coordinate -/
  | sseek (coord : Bool) (s : SReg) (b : XReg)
  /-- R279: Closes a stream register -/
  | sclose (s : SReg)
  /-- R280: Binds two fibre streams to the coordinate engine -/
  | cxopen (union tol : Bool) (sj sk : SReg)
  /-- R281: Emits up to VL intersection or union pairs -/
  | cxnext (d : XReg) (vc va vb : VReg)
  /-- R282: Sets the segment split threshold -/
  | cxsplit (a : XReg)
  /-- R283: Claims the next segment from a split descriptor at its home slice -/
  | cxclaim (scope : Scope) (d a : XReg)
  /-- R285: Reads a coordinate-engine counter or field -/
  | cxstat (d : XReg) (sel : BitVec 3)
  /-- R286: Writes the 128-byte engine image -/
  | cxsave (sp : Space) (a : XReg)
  /-- R286: Checks and loads an engine image -/
  | cxload (sp : Space) (a : XReg)
  /-- R313: Writes one copy shadow register of a channel -/
  | cpset (k : Chan) (reg : BitVec 5) (sp : Space) (a : XReg)
  /-- R314: Reads one copy shadow register of a channel -/
  | cpget (d : XReg) (k : Chan) (reg : BitVec 5)
  /-- R298: Checks and starts a transfer from the channel's shadow registers -/
  | cplaunch (d : XReg) (k : Chan)
  /-- R316: Waits for a transfer to leave flight and returns its status -/
  | cpwait (d a : XReg)
  /-- R317: Waits until a channel watermark reaches a value -/
  | cpwm (d : XReg) (k : Chan) (a : XReg)
  /-- R318: Stops a channel's transfer in flight -/
  | cpcancel (k : Chan)
  /-- R319: Arms an arrival word and binds the channel to it -/
  | cparm (d : XReg) (k : Chan) (a b : XReg)
  /-- R320: Copies a compressed page's block metadata to global memory -/
  | cpexport (d a b : XReg)
  /-- R375: Returns from a trap to the saved level and convoy -/
  | tret
  /-- R376: Releases, then removes matching TLB entries locally or across the partition -/
  | tlbinv (kind : TlbKind) (g : Bool) (a b : XReg)
  /-- R377: Drains, pauses transfers and writes the user context image -/
  | ctxsave (d a b : XReg)
  /-- R378: Checks and restores a user context image -/
  | ctxload (a : XReg)
  /-- R379: Writes a slot's spill record and frees the slot -/
  | dspill (k : Slot) (a : XReg)
  /-- R379: Restores a slot's values and owner from a spill record -/
  | dfill (k : Slot) (a : XReg)
  /-- R380: Reports whether the WB owner tag matches the launch's tag -/
  | wbtag (d : XReg)
  /-- R380: Sets the WB owner tag and returns the previous one -/
  | wbtagSet (d a : XReg)
  /-- R381: Waits until an interrupt is pending for the core -/
  | idle
  /-- R382: Sets the device state on every core, reading the partition map on entry to state 0 -/
  | pmode (a : XReg)
  /-- R383: Posts a launch descriptor to a hardware queue -/
  | qpost (d a b : XReg)
  /-- R384: Appends a record to the device error log -/
  | errlog (a b : XReg)
  /-- R385: Changes the duty modes once old-mode work has completed -/
  | dutyset (d a : XReg)
  /-- R126: Executes as a no-operation -/
  | hint (odd : Bool) (bits : BitVec 55)
  /-- R42: The oldest convoy commits once none of its instructions can still trap, performing its commit-performed instructions -/
  | convoyCommit
  /-- R48: A lane begins its next element-group operation once the slip condition allows -/
  | elementGroupOperation (lane : LaneNo)
  /-- R371: A synchronous trap of the oldest convoy discards it and enters the next level at TVEC -/
  | trapEntry (cause : BitVec 8) (tval : FaultAt)
  /-- R428: A pending VP trap is taken at a commit boundary with TCAUSE.VP set -/
  | vpTrap
  /-- R431: The PREEMPT interrupt squashes uncommitted convoys and enters the save handler -/
  | preempt
  /-- R435: The RESUME interrupt enters the handler that restores a saved thread -/
  | resume
  /-- R436: The SPILL interrupt on the core left enters the handler that moves owned slots -/
  | spill
  /-- R437: The KILL interrupt ends the thread on the core and cancels its transfers -/
  | kill
  /-- R451: The MAILBOX interrupt raised by a RING write is taken -/
  | mailbox
  /-- R59: A lane begins the next AIB of a runnable VP in round-robin order -/
  | aibBegin (lane : LaneNo)
  /-- R61: An AIB completes, making its held writes effective and performing its stores -/
  | aibComplete (lane : LaneNo)
  /-- R219: A waiting instruction's condition is met and its convoy commits with its result -/
  | waitComplete
  /-- R221: A back-off interval of a wait.w on a device-register page expires and the word is re-read -/
  | waitWPoll
  /-- R231: An unpaired hamper operation executes indivisibly at the home slice -/
  | hamperHomeOp (n : Nat)
  /-- R233: A switch matches held opposite hamper operations to one descriptor in its cycle -/
  | pairMatch (n : Nat)
  /-- R233: An operation's PWIN window ends unmatched and it moves on to the next switch or home -/
  | pairWindowExpiry (n : Nat)
  /-- R408: A TLB miss walk completes, making an entry or stopping with a fault kind -/
  | pageWalk (acc : AccKind) (va : Word)
  /-- R429: The quarter's translation server serves a NOMAP fault from the pending-map table or delivers it -/
  | translationServer (acc : AccKind) (va : FaultAt)
  /-- R295: A channel reads, converts and writes one element of a transfer in nest order -/
  | copyElement (k : Chan)
  /-- R311: After service, spilled writes are replayed in nest order -/
  | spillReplay (k : Chan)
  /-- R300: A transfer completes, freeing its channel and ARIT entry and setting the final watermark -/
  | transferComplete (k : Chan)
  /-- R264: The copy engine writes a committed dmeta's bytes into MD -/
  | dmetaWrite
  /-- R395: The CMP takes a valid command slot and checks its descriptor or graph -/
  | slotTake (q : QueueNo)
  /-- R389: The CMP re-reads an invalid or unreadable slot at its 1 µs interval -/
  | slotReread (q : QueueNo)
  /-- R396: A class-3 launch ready for 3 ms becomes starving -/
  | starvation (n : Nat)
  /-- R398: The CMP dispatches the first placeable ready launch, applying preloads and starting its gang -/
  | dispatch (p : PartNo)
  /-- R431: A launch's pre-emption completes when every core has saved and yielded -/
  | preemptionComplete (n : Nat)
  /-- R395: An unrecoverable preload fault ends the launch before its first convoy -/
  | preloadFault (n : Nat)
  /-- R29: A launch completes once threads, transfers and stores are done, freeing its cores and slots -/
  | launchComplete (n : Nat)
  /-- R402: A graph replay starts when a copy slot is free, copying and patching parameters -/
  | replayStart (n : Nat)
  /-- R449: A 4-byte write to a doorbell TAIL proposes a new queue tail -/
  | doorbellTail (q : QueueNo) (u : Half)
  /-- R451: A host write to a mailbox RING makes MAILBOX pending on the core -/
  | ring (c : CoreNo)
  /-- R451: A core write to ALERT raises its MSI-X vector -/
  | alert (c : CoreNo)
  /-- R454: Host command dispatching a taken launch now -/
  | dispatchCommand (p : PartNo)
  /-- R454: Host command pre-empting a launch whole -/
  | preemptCommand (p : PartNo)
  /-- R454: Host command answering a fault record with resume or fail -/
  | answer (p : PartNo)
  /-- R454: Host command starting the replay of spilled writes -/
  | replay (p : PartNo)
  /-- R454: Host command letting a held remote transfer begin -/
  | proceed (p : PartNo)
  /-- R469: Host command passing or failing a firmware image -/
  | verdict (p : PartNo)
  /-- R447: A host posted write through the host window is performed at its home -/
  | hostWindowWrite (addr : Nat) (data : List Byte)
  /-- R448: A host read returns after earlier posted writes are performed -/
  | hostWindowRead (addr n : Nat)
  /-- R6: A write to a device register that has no behaviour of its own -/
  | registerWrite (addr n : Nat) (v : Word)
  /-- R455: A ZFL flit with a CRC error is retried -/
  | flitCrcRetry (p : PortNo)
  /-- R455: After 16 failed retries a port goes down and is logged -/
  | portDown (p : PortNo)
  /-- R460: A remote transfer element arriving over ZFL is applied at its home slice -/
  | remoteElementApply (addr : Nat) (data : List Byte)
  /-- R461: A remote element's acknowledgement returns and it is performed -/
  | remoteAcknowledge (k : Chan)
  /-- R467: A reset clears memory, brings up PCIe and loads and verifies firmware -/
  | deviceReset
  /-- R466: Verification of a firmware image completes, starting firmware or entering recovery -/
  | imageVerify
  /-- R468: A write to SGO in recovery starts verification of the staged image -/
  | sgo
  /-- R470: A write to AGO builds and signs an attestation report -/
  | ago
  /-- R473: A write to PLIMIT sets the clamped module power limit -/
  | plimit (v : Word)
  /-- R474: Every 10 µs the issue allowance k may move by one -/
  | throttleAdjust (up : Bool)
  /-- R472: A die reaching 105 °C ends every launch and enters state 3 -/
  | overTemperature (die : DieNo)
  /-- R438: An uncorrectable read error is retried once and, if it persists, poisons or faults -/
  | storageError (site : ErrSite) (how : ErrHow)
  /-- R440: A lasting fault of a core kills its thread and KILL is raised on the launch's other cores -/
  | lastingCoreFault (c : CoreNo)
  /-- R212: An atomic, memory reduction, barrier-word arrival or segment claim arriving at its home slice executes as one indivisible step in the write queue and its value returns -/
  | writeQueueExecution (op : HomeOp)
  /-- R338: A slice acknowledges a thread's write once it has its place in co and has been applied in the home quarter, clearing the touched-slice mask bit -/
  | sliceAcknowledgement (sl : SliceNo)
  /-- R453: A host write to a partition channel's EREAD frees ring space and lets a device record that was waiting for space be written -/
  | eread (p : PartNo) (v : Half)
  /-- R455: Firmware retrains a ZFL port that is down, and the port comes up again and sets its PORTUP bit -/
  | portRetrain (p : PortNo)
  deriving DecidableEq, Repr

end Sys2Proof
end

