-- ==== Sys2Proof/Machine/Class.lean ====
section
/-!
DEFINITION. The execution class of every instruction (R36 to R44, Table 3.3, Table 7.1, R219, R374): who may execute it,
whether it is a vector-unit instruction, a control transfer, commit-performed, value-returning or waiting, and which
registers it reads and writes, for the pairing limits (R133) and the convoy rules.
-/

namespace Sys2Proof

/-- Who may execute an instruction (the column Where of Table 6.7). -/
inductive Where
  | thread | vp | both | event
  deriving DecidableEq, Repr

/-- The class of one instruction. -/
structure Info where
  place : Where := .thread
  /-- a vector-unit instruction (R37) -/
  vec : Bool := false
  /-- a control transfer (R38) -/
  transfer : Bool := false
  /-- a terminator of an AIB (R55) -/
  term : Bool := false
  /-- commit-performed (R43) -/
  commit : Bool := false
  /-- value-returning, with its destination (R44) -/
  value : Option XReg := none
  /-- a waiting instruction (R219) -/
  waiting : Bool := false
  rx : List XReg := []
  wx : List XReg := []
  rv : List VReg := []
  wv : List VReg := []
  rw : List WReg := []
  ww : List WReg := []
  deriving DecidableEq, Repr

/-- The n + 1 registers from `d` up (R210). -/
def vrange (d : VReg) (n : BitVec 3) : List VReg :=
  (List.range (n.toNat + 1)).map fun k => Fin.ofNat 32 (d.val + k)

/-- A destination that returns a value: `x0` returns none (R44). -/
def returns (d : XReg) : Option XReg := if d = 0 then none else some d

/-- `csrr` of `WMk` and `LWk` is commit-performed (R80). -/
def csrCommit (n : BitVec 12) : Bool :=
  decide (0x40 ≤ n.toNat ∧ n.toNat < 0x58)

/-- The class of every instruction. -/
def info : Instr → Info
  | .add _ d a b => { rx := [a, b], wx := [d] }
  | .sub _ d a b => { rx := [a, b], wx := [d] }
  | .and _ d a b => { rx := [a, b], wx := [d] }
  | .or _ d a b => { rx := [a, b], wx := [d] }
  | .xor _ d a b => { rx := [a, b], wx := [d] }
  | .sll _ d a b => { rx := [a, b], wx := [d] }
  | .srl _ d a b => { rx := [a, b], wx := [d] }
  | .sra _ d a b => { rx := [a, b], wx := [d] }
  | .slt _ d a b => { rx := [a, b], wx := [d] }
  | .min _ d a b => { rx := [a, b], wx := [d] }
  | .max _ d a b => { rx := [a, b], wx := [d] }
  | .csel _ d a b c => { rx := [a, b, c], wx := [d] }
  | .addsl _ d a b _ => { rx := [a, b], wx := [d] }
  | .mul _ d a b => { rx := [a, b], wx := [d] }
  | .mulh _ d a b => { rx := [a, b], wx := [d] }
  | .div _ d a b => { rx := [a, b], wx := [d] }
  | .rem _ d a b => { rx := [a, b], wx := [d] }
  | .clz _ d a => { rx := [a], wx := [d] }
  | .ctz _ d a => { rx := [a], wx := [d] }
  | .popc _ d a => { rx := [a], wx := [d] }
  | .ext _ d a => { rx := [a], wx := [d] }
  | .addi _ d a _ => { rx := [a], wx := [d] }
  | .andi _ d a _ => { rx := [a], wx := [d] }
  | .ori _ d a _ => { rx := [a], wx := [d] }
  | .xori _ d a _ => { rx := [a], wx := [d] }
  | .slli _ d a _ => { rx := [a], wx := [d] }
  | .srli _ d a _ => { rx := [a], wx := [d] }
  | .srai _ d a _ => { rx := [a], wx := [d] }
  | .slti _ d a _ => { rx := [a], wx := [d] }
  | .muli _ d a _ => { rx := [a], wx := [d] }
  | .lim d _ => { wx := [d] }
  | .lih d _ => { rx := [d], wx := [d] }
  | .addpc d _ => { wx := [d] }
  | .nop => { place := .both }
  | .mov d a => { rx := [a], wx := [d] }
  | .addiR d _ => { rx := [d], wx := [d] }
  | .addR d a => { rx := [d, a], wx := [d] }
  | .subR d a => { rx := [d, a], wx := [d] }
  | .andR d a => { rx := [d, a], wx := [d] }
  | .orR d a => { rx := [d, a], wx := [d] }
  | .xorR d a => { rx := [d, a], wx := [d] }
  | .shli d _ => { rx := [d], wx := [d] }
  | .shri d _ => { rx := [d], wx := [d] }
  | .sraiR d _ => { rx := [d], wx := [d] }
  | .ldR d a _ => { rx := [a], wx := [d] }
  | .stR v a _ => { commit := true, rx := [v, a] }
  | .beqz a _ => { transfer := true, rx := [a] }
  | .bnez a _ => { transfer := true, rx := [a] }
  | .wmovR d a => { place := .vp, rw := [a], ww := [d] }
  | .waddiR d _ => { place := .vp, rw := [d], ww := [d] }
  | .waddR d a => { place := .vp, rw := [d, a], ww := [d] }
  | .wfaddR d a => { place := .vp, rw := [d, a], ww := [d] }
  | .wfmulR d a => { place := .vp, rw := [d, a], ww := [d] }
  | .wlatR a _ => { place := .vp, rw := [a] }
  | .wfmalR d a _ => { place := .vp, rw := [d, a], ww := [d] }
  | .vaddiR d _ => { vec := true, rv := [d], wv := [d] }
  | .vmov d a => { vec := true, rv := [a], wv := [d] }
  | .setvli d _ => { wx := [d] }
  | .tfetchR _ => { place := .vp, transfer := true, term := true }
  | .tstopR => { place := .vp, transfer := true, term := true }
  | .fadd _ d a b _ => { rx := [a, b], wx := [d] }
  | .fsub _ d a b _ => { rx := [a, b], wx := [d] }
  | .fmul _ d a b _ => { rx := [a, b], wx := [d] }
  | .fdiv _ d a b _ => { rx := [a, b], wx := [d] }
  | .fsqrt _ d a _ => { rx := [a], wx := [d] }
  | .fmin _ d a b _ => { rx := [a, b], wx := [d] }
  | .fmax _ d a b _ => { rx := [a, b], wx := [d] }
  | .fneg _ d a _ => { rx := [a], wx := [d] }
  | .fabs _ d a _ => { rx := [a], wx := [d] }
  | .feq _ d a b _ => { rx := [a, b], wx := [d] }
  | .flt _ d a b _ => { rx := [a, b], wx := [d] }
  | .fle _ d a b _ => { rx := [a, b], wx := [d] }
  | .fcvt _ _ d a _ => { rx := [a], wx := [d] }
  | .fma _ d a b c _ => { rx := [a, b, c], wx := [d] }
  | .fli _ d _ => { wx := [d] }
  | .faddi _ d a _ => { rx := [a], wx := [d] }
  | .fmuli _ d a _ => { rx := [a], wx := [d] }
  | .branch _ a b _ => { transfer := true, rx := [a, b] }
  | .jal d _ => { transfer := true, wx := [d] }
  | .jr d a => { transfer := true, rx := [a], wx := [d] }
  | .svc _ => { transfer := true, commit := true }
  | .brk _ => { transfer := true, commit := true }
  | .halt => { transfer := true, commit := true }
  | .yield => { transfer := true, commit := true }
  | .csrr d csr => { commit := csrCommit csr, value := if csrCommit csr then returns d else none, wx := [d] }
  | .csrw _ a => { rx := [a] }
  | .setvl d a => { rx := [a], wx := [d] }
  | .setew _ => {}
  | .setslip _ => {}
  | .setvp a => { rx := [a] }
  | .vfetch _ => { commit := true }
  | .tfetch _ => { place := .vp, transfer := true, term := true }
  | .tfsel a _ _ => { place := .vp, transfer := true, term := true, rw := [a] }
  | .tstop => { place := .vp, transfer := true, term := true }
  | .vrejoin => { commit := true }
  | .wmov d a => { place := .vp, rw := [a], ww := [d] }
  | .wadd _ d a b => { place := .vp, rw := [a, b], ww := [d] }
  | .wsub _ d a b => { place := .vp, rw := [a, b], ww := [d] }
  | .wmul _ d a b => { place := .vp, rw := [a, b], ww := [d] }
  | .wand d a b => { place := .vp, rw := [a, b], ww := [d] }
  | .wor d a b => { place := .vp, rw := [a, b], ww := [d] }
  | .wxor d a b => { place := .vp, rw := [a, b], ww := [d] }
  | .wshl d a b => { place := .vp, rw := [a, b], ww := [d] }
  | .wshr d a b => { place := .vp, rw := [a, b], ww := [d] }
  | .wsra d a b => { place := .vp, rw := [a, b], ww := [d] }
  | .wmin _ d a b => { place := .vp, rw := [a, b], ww := [d] }
  | .wmax _ d a b => { place := .vp, rw := [a, b], ww := [d] }
  | .wseq _ d a b => { place := .vp, rw := [a, b], ww := [d] }
  | .wslt _ d a b => { place := .vp, rw := [a, b], ww := [d] }
  | .wfeq d a b _ => { place := .vp, rw := [a, b], ww := [d] }
  | .wflt d a b _ => { place := .vp, rw := [a, b], ww := [d] }
  | .wfle d a b _ => { place := .vp, rw := [a, b], ww := [d] }
  | .wsel d a b c => { place := .vp, rw := [a, b, c], ww := [d] }
  | .wfadd d a b _ => { place := .vp, rw := [a, b], ww := [d] }
  | .wfsub d a b _ => { place := .vp, rw := [a, b], ww := [d] }
  | .wfmul d a b _ => { place := .vp, rw := [a, b], ww := [d] }
  | .wfma d a b c _ => { place := .vp, rw := [a, b, c], ww := [d] }
  | .wfmal d a _ _ => { place := .vp, rw := [d, a], ww := [d] }
  | .wlat a _ _ => { place := .vp, rw := [a] }
  | .wcvt _ _ d a _ => { place := .vp, rw := [a], ww := [d] }
  | .wfmin d a b _ => { place := .vp, rw := [a, b], ww := [d] }
  | .wfmax d a b _ => { place := .vp, rw := [a, b], ww := [d] }
  | .wget d a => { place := .vp, rv := [a.reg], ww := [d] }
  | .wput d a => { place := .vp, wv := [d], rw := [a] }
  | .wli _ d _ => { place := .vp, ww := [d] }
  | .waddi _ d a _ => { place := .vp, rw := [a], ww := [d] }
  | .wandi d a _ => { place := .vp, rw := [a], ww := [d] }
  | .wori d a _ => { place := .vp, rw := [a], ww := [d] }
  | .wxori d a _ => { place := .vp, rw := [a], ww := [d] }
  | .wshli d a _ => { place := .vp, rw := [a], ww := [d] }
  | .wshri d a _ => { place := .vp, rw := [a], ww := [d] }
  | .wsrai d a _ => { place := .vp, rw := [a], ww := [d] }
  | .wseqi _ d a _ => { place := .vp, rw := [a], ww := [d] }
  | .wslti _ d a _ => { place := .vp, rw := [a], ww := [d] }
  | .wld _ d a _ _ => { place := .vp, rw := [a], ww := [d] }
  | .wst _ v a _ => { place := .vp, rw := [v, a] }
  | .vadd _ _ d a b => { vec := true, rv := [a.reg, b.reg], wv := [d] }
  | .vsub _ _ d a b => { vec := true, rv := [a.reg, b.reg], wv := [d] }
  | .vmul _ _ d a b => { vec := true, rv := [a.reg, b.reg], wv := [d] }
  | .vmulh _ _ d a b => { vec := true, rv := [a.reg, b.reg], wv := [d] }
  | .vdiv _ _ d a b => { vec := true, rv := [a.reg, b.reg], wv := [d] }
  | .vrem _ _ d a b => { vec := true, rv := [a.reg, b.reg], wv := [d] }
  | .vmin _ _ d a b => { vec := true, rv := [a.reg, b.reg], wv := [d] }
  | .vmax _ _ d a b => { vec := true, rv := [a.reg, b.reg], wv := [d] }
  | .vabs _ _ d a => { vec := true, rv := [a.reg], wv := [d] }
  | .vneg _ _ d a => { vec := true, rv := [a.reg], wv := [d] }
  | .vmadd _ _ d a b c => { vec := true, rv := [a.reg, b.reg, c.reg], wv := [d] }
  | .vsll _ _ d a b => { vec := true, rv := [a.reg, b.reg], wv := [d] }
  | .vsrl _ _ d a b => { vec := true, rv := [a.reg, b.reg], wv := [d] }
  | .vsra _ _ d a b => { vec := true, rv := [a.reg, b.reg], wv := [d] }
  | .vand _ _ d a b => { vec := true, rv := [a.reg, b.reg], wv := [d] }
  | .vor _ _ d a b => { vec := true, rv := [a.reg, b.reg], wv := [d] }
  | .vxor _ _ d a b => { vec := true, rv := [a.reg, b.reg], wv := [d] }
  | .vandn _ _ d a b => { vec := true, rv := [a.reg, b.reg], wv := [d] }
  | .vnot _ _ d a => { vec := true, rv := [a.reg], wv := [d] }
  | .vaddi _ _ d a _ => { vec := true, rv := [a.reg], wv := [d] }
  | .vmuli _ _ d a _ => { vec := true, rv := [a.reg], wv := [d] }
  | .vmini _ _ d a _ => { vec := true, rv := [a.reg], wv := [d] }
  | .vmaxi _ _ d a _ => { vec := true, rv := [a.reg], wv := [d] }
  | .vandi _ _ d a _ => { vec := true, rv := [a.reg], wv := [d] }
  | .vori _ _ d a _ => { vec := true, rv := [a.reg], wv := [d] }
  | .vxori _ _ d a _ => { vec := true, rv := [a.reg], wv := [d] }
  | .vslli _ _ d a _ => { vec := true, rv := [a.reg], wv := [d] }
  | .vsrli _ _ d a _ => { vec := true, rv := [a.reg], wv := [d] }
  | .vsrai _ _ d a _ => { vec := true, rv := [a.reg], wv := [d] }
  | .vcmpi _ _ _ _ a _ => { vec := true, rv := [a.reg] }
  | .vcmp _ _ _ _ a b => { vec := true, rv := [a.reg, b.reg] }
  | .vsel _ d a b _ => { vec := true, rv := [a.reg, b.reg], wv := [d] }
  | .vbcast _ _ d a => { vec := true, rx := [a], wv := [d] }
  | .vtag d a _ _ => { vec := true, rv := [a.reg], wv := [d] }
  | .vidx _ _ d _ _ => { vec := true, wv := [d] }
  | .vaddF _ _ d a b _ => { vec := true, rv := [a.reg, b.reg], wv := [d] }
  | .vsubF _ _ d a b _ => { vec := true, rv := [a.reg, b.reg], wv := [d] }
  | .vmulF _ _ d a b _ => { vec := true, rv := [a.reg, b.reg], wv := [d] }
  | .vdivF _ _ d a b _ => { vec := true, rv := [a.reg, b.reg], wv := [d] }
  | .vsqrt _ _ d a _ => { vec := true, rv := [a.reg], wv := [d] }
  | .vminF _ _ d a b _ => { vec := true, rv := [a.reg, b.reg], wv := [d] }
  | .vmaxF _ _ d a b _ => { vec := true, rv := [a.reg, b.reg], wv := [d] }
  | .vnegF _ _ d a _ => { vec := true, rv := [a.reg], wv := [d] }
  | .vabsF _ _ d a _ => { vec := true, rv := [a.reg], wv := [d] }
  | .vfma _ _ d a b c _ => { vec := true, rv := [a.reg, b.reg, c.reg], wv := [d] }
  | .vfmaw _ _ d a b _ => { vec := true, rv := [d, a.reg, b.reg], wv := [d] }
  | .vaddiF _ _ d a _ => { vec := true, rv := [a.reg], wv := [d] }
  | .vmuliF _ _ d a _ => { vec := true, rv := [a.reg], wv := [d] }
  | .vminiF _ _ d a _ => { vec := true, rv := [a.reg], wv := [d] }
  | .vmaxiF _ _ d a _ => { vec := true, rv := [a.reg], wv := [d] }
  | .vcvt _ _ _ d a _ => { vec := true, rv := [a.reg], wv := [d] }
  | .vqnt _ _ d a => { vec := true, rv := [a.reg], wv := [d] }
  | .vdqnt _ _ d a _ => { vec := true, rv := [a.reg], wv := [d] }
  | .vbfly _ d a _ _ _ => { vec := true, rv := [a.reg], wv := [d] }
  | .vrnd _ d a b => { vec := true, rx := [a, b], wv := [d] }
  | .vredsum _ _ d a b => { vec := true, rx := [b], wx := [d], rv := [a.reg] }
  | .vredmin _ _ d a b => { vec := true, rx := [b], wx := [d], rv := [a.reg] }
  | .vredmax _ _ d a b => { vec := true, rx := [b], wx := [d], rv := [a.reg] }
  | .vredand _ _ d a b => { vec := true, rx := [b], wx := [d], rv := [a.reg] }
  | .vredor _ _ d a b => { vec := true, rx := [b], wx := [d], rv := [a.reg] }
  | .vredxor _ _ d a b => { vec := true, rx := [b], wx := [d], rv := [a.reg] }
  | .vscansum _ _ d a _ _ => { vec := true, rv := [a.reg], wv := [d] }
  | .vscanmin _ _ d a _ _ => { vec := true, rv := [a.reg], wv := [d] }
  | .vscanmax _ _ d a _ _ => { vec := true, rv := [a.reg], wv := [d] }
  | .vsegsum _ _ d a _ => { vec := true, rv := [a.reg], wv := [d] }
  | .vsegmin _ _ d a _ => { vec := true, rv := [a.reg], wv := [d] }
  | .vsegmax _ _ d a _ => { vec := true, rv := [a.reg], wv := [d] }
  | .vslideup _ _ d a b => { vec := true, rx := [b], rv := [a.reg], wv := [d] }
  | .vslidedn _ _ d a b => { vec := true, rx := [b], rv := [a.reg], wv := [d] }
  | .vrot _ _ d a b => { vec := true, rx := [b], rv := [a.reg], wv := [d] }
  | .vperm _ _ d a b => { vec := true, rv := [a.reg, b.reg], wv := [d] }
  | .vcompress _ d a _ => { vec := true, rv := [a.reg], wv := [d] }
  | .vexpand _ d a _ => { vec := true, rv := [a.reg], wv := [d] }
  | .vxch _ d a b c => { vec := true, commit := true, rx := [b, c], rv := [a.reg], wv := [d] }
  | .mand _ _ _ => { vec := true }
  | .mor _ _ _ => { vec := true }
  | .mxor _ _ _ => { vec := true }
  | .mandn _ _ _ => { vec := true }
  | .mnot _ _ => { vec := true }
  | .mset _ => { vec := true }
  | .mpopc d _ => { vec := true, wx := [d] }
  | .mfirst d _ => { vec := true, wx := [d] }
  | .ld _ _ d a _ => { rx := [a], wx := [d] }
  | .st _ _ v a _ => { commit := true, rx := [v, a] }
  | .vld _ _ _ d a b _ => { vec := true, rx := [a, b], wv := [d] }
  | .vst _ _ _ v a b _ => { vec := true, commit := true, rx := [a, b], rv := [v] }
  | .vlds _ _ _ d a b _ => { vec := true, rx := [a, b], wv := [d] }
  | .vsts _ _ _ v a b _ => { vec := true, commit := true, rx := [a, b], rv := [v] }
  | .vldx _ _ _ d a b _ _ => { vec := true, rx := [a], rv := [b.reg], wv := [d] }
  | .vstx _ _ _ v a b _ _ => { vec := true, commit := true, rx := [a], rv := [v, b.reg] }
  | .vldseg _ _ _ _ d a n1 _ => { vec := true, rx := [a], wv := vrange d n1 }
  | .vstseg _ _ _ _ v a n1 _ => { vec := true, commit := true, rx := [a], rv := vrange v n1 }
  | .amoadd _ _ _ d a b => { commit := true, value := returns d, rx := [a, b], wx := [d] }
  | .amomin _ _ _ d a b => { commit := true, value := returns d, rx := [a, b], wx := [d] }
  | .amomax _ _ _ d a b => { commit := true, value := returns d, rx := [a, b], wx := [d] }
  | .amoand _ _ _ d a b => { commit := true, value := returns d, rx := [a, b], wx := [d] }
  | .amoor _ _ _ d a b => { commit := true, value := returns d, rx := [a, b], wx := [d] }
  | .amoxor _ _ _ d a b => { commit := true, value := returns d, rx := [a, b], wx := [d] }
  | .amoswap _ _ _ d a b => { commit := true, value := returns d, rx := [a, b], wx := [d] }
  | .amocas _ _ _ d a b c => { commit := true, value := returns d, rx := [a, b, c], wx := [d] }
  | .amofadd _ _ d a b => { commit := true, value := returns d, rx := [a, b], wx := [d] }
  | .vredm _ _ _ _ a b c => { vec := true, commit := true, rx := [a], rv := [b.reg, c.reg] }
  | .fence _ => { commit := true }
  | .vdrain => { commit := true }
  | .vdrainl => { commit := true }
  | .vdrains => { commit := true }
  | .waitArr d a b => { commit := true, waiting := true, value := returns d, rx := [a, b], wx := [d] }
  | .waitW _ d a b => { commit := true, waiting := true, value := returns d, rx := [a, b], wx := [d] }
  | .waitWatch d => { commit := true, waiting := true, value := returns d, wx := [d] }
  | .vwatch _ d a b => { vec := true, commit := true, value := returns d, rx := [a], wx := [d], rv := [b.reg] }
  | .gsync d a => { commit := true, waiting := true, value := returns d, rx := [a], wx := [d] }
  | .gsyncW d a => { commit := true, waiting := true, value := returns d, rx := [a], wx := [d] }
  | .hinit _ d a => { commit := true, value := returns d, rx := [a], wx := [d] }
  | .hpush _ d a b => { commit := true, value := returns d, rx := [a, b], wx := [d] }
  | .hpop _ d a => { commit := true, value := returns d, rx := [a], wx := [d] }
  | .hstat _ d a => { commit := true, value := returns d, rx := [a], wx := [d] }
  | .hpushVp _ d a b => { place := .vp, commit := true, rw := [a, b, a + 1], ww := [d] }
  | .hpopVp _ d a => { place := .vp, commit := true, rw := [a, a + 1], ww := [d] }
  | .wmpub _ a => { commit := true, rx := [a] }
  | .aarm d a b => { commit := true, value := returns d, rx := [a, b], wx := [d] }
  | .msetdl _ a => { vec := true, rx := [a] }
  | .dlda _ _ a b c => { vec := true, rx := [a, b, c] }
  | .dldb _ _ a b c => { vec := true, rx := [a, b, c] }
  | .dhold _ _ _ _ => { vec := true }
  | .dzero _ c => { vec := true, rx := [c] }
  | .dsetfill a => { vec := true, rx := [a] }
  | .dbudget a => { vec := true, rx := [a] }
  | .dmeta _ a b c => { vec := true, commit := true, rx := [a, b, c] }
  | .dmovV _ d _ _ c => { vec := true, rx := [c], wv := [d] }
  | .dmovA _ _ a => { vec := true, rv := [a.reg] }
  | .dcvt _ _ d _ _ c => { vec := true, rx := [c], wv := [d] }
  | .dmacV _ _ a b c => { vec := true, rx := [c], rv := [a.reg, b.reg] }
  | .dmacL _ _ c => { vec := true, rx := [c] }
  | .dmacTriV _ _ a b c => { vec := true, rx := [c], rv := [a.reg, b.reg] }
  | .dmacTriL _ _ c => { vec := true, rx := [c] }
  | .dmacs _ _ c => { vec := true, rx := [c] }
  | .dsweep _ _ _ _ c => { vec := true, rx := [c] }
  | .dmacVI _ _ a b _ _ => { vec := true, rv := [a.reg, b.reg] }
  | .dmacLI _ _ _ _ => { vec := true }
  | .dmacsI _ _ _ _ _ => { vec := true }
  | .dmovi _ _ _ _ => { vec := true }
  | .sopenAff _ _ _ a b c => { vec := true, rx := [a, b, c] }
  | .sopenInd _ _ _ _ _ a b c => { vec := true, rx := [a, b, c] }
  | .sopenFib _ _ _ _ _ a b c => { vec := true, rx := [a, b, c] }
  | .snext d ve _ b => { vec := true, wx := [b], wv := d :: ve.toList }
  | .sdone d _ _ => { vec := true, wx := [d] }
  | .sseek _ _ b => { vec := true, rx := [b] }
  | .sclose _ => { vec := true }
  | .cxopen _ _ _ _ => { vec := true }
  | .cxnext d vc va vb => { vec := true, wx := [d], wv := [vc, va, vb] }
  | .cxsplit a => { vec := true, rx := [a] }
  | .cxclaim _ d a => { commit := true, value := returns d, rx := [a], wx := [d] }
  | .cxstat d _ => { vec := true, wx := [d] }
  | .cxsave _ a => { vec := true, commit := true, rx := [a] }
  | .cxload _ a => { vec := true, rx := [a] }
  | .cpset _ _ _ a => { commit := true, rx := [a] }
  | .cpget d _ _ => { commit := true, value := returns d, wx := [d] }
  | .cplaunch d _ => { commit := true, value := returns d, wx := [d] }
  | .cpwait d a => { commit := true, waiting := true, value := returns d, rx := [a], wx := [d] }
  | .cpwm d _ a => { commit := true, waiting := true, value := returns d, rx := [a], wx := [d] }
  | .cpcancel _ => { commit := true }
  | .cparm d _ a b => { commit := true, value := returns d, rx := [a, b], wx := [d] }
  | .cpexport d a b => { commit := true, value := returns d, rx := [a, b], wx := [d] }
  | .tret => { transfer := true, commit := true }
  | .tlbinv _ _ a b => { commit := true, rx := [a, b] }
  | .ctxsave d a b => { commit := true, waiting := true, value := returns d, rx := [a, b], wx := [d] }
  | .ctxload a => { commit := true, rx := [a] }
  | .dspill _ a => { vec := true, commit := true, rx := [a] }
  | .dfill _ a => { vec := true, commit := true, rx := [a] }
  | .wbtag d => { commit := true, value := returns d, wx := [d] }
  | .wbtagSet d a => { commit := true, value := returns d, rx := [a], wx := [d] }
  | .idle => { commit := true, waiting := true }
  | .pmode a => { commit := true, rx := [a] }
  | .qpost d a b => { commit := true, value := returns d, rx := [a, b], wx := [d] }
  | .errlog a b => { commit := true, rx := [a, b] }
  | .dutyset d a => { commit := true, waiting := true, value := returns d, rx := [a], wx := [d] }
  | .hint _ _ => { place := .both }
  | .convoyCommit => { place := .event }
  | .elementGroupOperation _ => { place := .event }
  | .trapEntry _ _ => { place := .event }
  | .vpTrap => { place := .event }
  | .preempt => { place := .event }
  | .resume => { place := .event }
  | .spill => { place := .event }
  | .kill => { place := .event }
  | .mailbox => { place := .event }
  | .aibBegin _ => { place := .event }
  | .aibComplete _ => { place := .event }
  | .waitComplete => { place := .event }
  | .waitWPoll => { place := .event }
  | .hamperHomeOp _ => { place := .event }
  | .pairMatch _ => { place := .event }
  | .pairWindowExpiry _ => { place := .event }
  | .pageWalk _ _ => { place := .event }
  | .translationServer _ _ => { place := .event }
  | .copyElement _ => { place := .event }
  | .spillReplay _ => { place := .event }
  | .transferComplete _ => { place := .event }
  | .dmetaWrite => { place := .event }
  | .slotTake _ => { place := .event }
  | .slotReread _ => { place := .event }
  | .starvation _ => { place := .event }
  | .dispatch _ => { place := .event }
  | .preemptionComplete _ => { place := .event }
  | .preloadFault _ => { place := .event }
  | .launchComplete _ => { place := .event }
  | .replayStart _ => { place := .event }
  | .doorbellTail _ _ => { place := .event }
  | .ring _ => { place := .event }
  | .alert _ => { place := .event }
  | .dispatchCommand _ => { place := .event }
  | .preemptCommand _ => { place := .event }
  | .answer _ => { place := .event }
  | .replay _ => { place := .event }
  | .proceed _ => { place := .event }
  | .verdict _ => { place := .event }
  | .hostWindowWrite _ _ => { place := .event }
  | .hostWindowRead _ _ => { place := .event }
  | .registerWrite _ _ _ => { place := .event }
  | .flitCrcRetry _ => { place := .event }
  | .portDown _ => { place := .event }
  | .remoteElementApply _ _ => { place := .event }
  | .remoteAcknowledge _ => { place := .event }
  | .deviceReset => { place := .event }
  | .imageVerify => { place := .event }
  | .sgo => { place := .event }
  | .ago => { place := .event }
  | .plimit _ => { place := .event }
  | .throttleAdjust _ => { place := .event }
  | .overTemperature _ => { place := .event }
  | .storageError _ _ => { place := .event }
  | .lastingCoreFault _ => { place := .event }
  | .writeQueueExecution _ => { place := .event }
  | .sliceAcknowledgement _ => { place := .event }
  | .eread _ _ => { place := .event }
  | .portRetrain _ => { place := .event }

end Sys2Proof
end

