-- ==== Sys2Proof/Machine/Legal.lean ====
section
/-!
DEFINITION. Which operands an instruction's entry allows: the type, the operand limits and the registers that decode checks
beyond the encoding's own fields (R118 to R129 and the entries of chapters 07 to 12 and 19). An event has no encoding.
-/

namespace Sys2Proof

/-- The type pairs of `fcvt` (R146). -/
def fcvtTypes (t u : Ty) : Bool :=
  (t.isXInt || t.isXFloat) && (u.isXInt || u.isXFloat) && (t.isXFloat || u.isXFloat) && t != u

/-- The type pairs of `wcvt` (Table 7.6). -/
def wcvtTypes (t u : Ty) : Bool :=
  (t.isWInt || t == .f32) && (u.isWInt || u == .f32) && (t == .f32 || u == .f32) && t != u

/-- The types of `vredm` (R213). -/
def vredmTypes (op : RedOp) (t : Ty) : Bool :=
  match op with
  | .add | .min | .max => t.isWInt || t == .f32
  | .and | .or | .xor => t == .z32

/-- `vld` and `vst` (Table 9.2, R209): the `q4` form takes no mask and a displacement that is a multiple of 16, and only it
names a scale register. -/
def vldLegal (t : Ty) (m : MReg) (b : XReg) (off : BitVec 16) : Bool :=
  match t with
  | .q4 => m == 0 && decide (off.toNat % 16 = 0)
  | _ => t.isConv && b == 0

/-- `cpset` (R313). -/
def cpsetLegal (reg : BitVec 5) (sp : Space) : Bool :=
  match reg.toNat with
  | 0 => sp != .wb
  | 1 => true
  | n => decide (n ≤ 28) && sp == .glob

/-- The operand checks of decode. -/
def legal : Instr → Bool
  | .add ty _ _ _ => ty.isXInt
  | .sub ty _ _ _ => ty.isXInt
  | .and ty _ _ _ => ty.isXUns
  | .or ty _ _ _ => ty.isXUns
  | .xor ty _ _ _ => ty.isXUns
  | .sll ty _ _ _ => ty.isXInt
  | .srl ty _ _ _ => ty.isXInt
  | .sra ty _ _ _ => ty.isXInt
  | .slt ty _ _ _ => ty.isXInt
  | .min ty _ _ _ => ty.isXInt
  | .max ty _ _ _ => ty.isXInt
  | .csel ty _ _ _ _ => (ty == .s64 || ty == .z64)
  | .addsl ty _ _ _ _ => ty.isXInt
  | .mul ty _ _ _ => ty.isXInt
  | .mulh ty _ _ _ => ty.isXInt
  | .div ty _ _ _ => ty.isXInt
  | .rem ty _ _ _ => ty.isXInt
  | .clz ty _ _ => ty.isXUns
  | .ctz ty _ _ => ty.isXUns
  | .popc ty _ _ => ty.isXUns
  | .ext ty _ _ => ty.isVInt
  | .addi ty _ _ _ => ty.isXInt
  | .andi ty _ _ _ => ty.isXUns
  | .ori ty _ _ _ => ty.isXUns
  | .xori ty _ _ _ => ty.isXUns
  | .slli ty _ _ n => (ty.isXInt && decide (n.toNat < ty.bits))
  | .srli ty _ _ n => (ty.isXInt && decide (n.toNat < ty.bits))
  | .srai ty _ _ n => (ty.isXInt && decide (n.toNat < ty.bits))
  | .slti ty _ _ _ => ty.isXInt
  | .muli ty _ _ _ => ty.isXInt
  | .lim _ _ => true
  | .lih _ _ => true
  | .addpc _ _ => true
  | .nop => true
  | .mov _ _ => true
  | .addiR _ _ => true
  | .addR _ _ => true
  | .subR _ _ => true
  | .andR _ _ => true
  | .orR _ _ => true
  | .xorR _ _ => true
  | .shli _ _ => true
  | .shri _ _ => true
  | .sraiR _ _ => true
  | .ldR _ _ _ => true
  | .stR _ _ _ => true
  | .beqz _ _ => true
  | .bnez _ _ => true
  | .wmovR _ _ => true
  | .waddiR _ _ => true
  | .waddR _ _ => true
  | .wfaddR _ _ => true
  | .wfmulR _ _ => true
  | .wlatR _ _ => true
  | .wfmalR _ _ _ => true
  | .vaddiR _ _ => true
  | .vmov _ _ => true
  | .setvli _ _ => true
  | .tfetchR _ => true
  | .tstopR => true
  | .fadd ty _ _ _ _ => ty.isXFloat
  | .fsub ty _ _ _ _ => ty.isXFloat
  | .fmul ty _ _ _ _ => ty.isXFloat
  | .fdiv ty _ _ _ _ => ty.isXFloat
  | .fsqrt ty _ _ _ => ty.isXFloat
  | .fmin ty _ _ _ _ => ty.isXFloat
  | .fmax ty _ _ _ _ => ty.isXFloat
  | .fneg ty _ _ _ => ty.isXFloat
  | .fabs ty _ _ _ => ty.isXFloat
  | .feq ty _ _ _ _ => ty.isXFloat
  | .flt ty _ _ _ _ => ty.isXFloat
  | .fle ty _ _ _ _ => ty.isXFloat
  | .fcvt ty u _ _ _ => fcvtTypes ty u
  | .fma ty _ _ _ _ _ => ty.isXFloat
  | .fli ty _ _ => ty.isXFloat
  | .faddi ty _ _ _ => ty.isXFloat
  | .fmuli ty _ _ _ => ty.isXFloat
  | .branch cond a b _ => (cond != .al || (a == 0 && b == 0))
  | .jal _ _ => true
  | .jr _ _ => true
  | .svc _ => true
  | .brk _ => true
  | .halt => true
  | .yield => true
  | .csrr _ _ => true
  | .csrw _ _ => true
  | .setvl _ _ => true
  | .setew _ => true
  | .setslip _ => true
  | .setvp _ => true
  | .vfetch _ => true
  | .tfetch _ => true
  | .tfsel _ _ _ => true
  | .tstop => true
  | .vrejoin => true
  | .wmov _ _ => true
  | .wadd ty _ _ _ => ty.isWInt
  | .wsub ty _ _ _ => ty.isWInt
  | .wmul ty _ _ _ => ty.isWInt
  | .wand _ _ _ => true
  | .wor _ _ _ => true
  | .wxor _ _ _ => true
  | .wshl _ _ _ => true
  | .wshr _ _ _ => true
  | .wsra _ _ _ => true
  | .wmin ty _ _ _ => ty.isWInt
  | .wmax ty _ _ _ => ty.isWInt
  | .wseq ty _ _ _ => ty.isWInt
  | .wslt ty _ _ _ => ty.isWInt
  | .wfeq _ _ _ _ => true
  | .wflt _ _ _ _ => true
  | .wfle _ _ _ _ => true
  | .wsel _ _ _ _ => true
  | .wfadd _ _ _ _ => true
  | .wfsub _ _ _ _ => true
  | .wfmul _ _ _ _ => true
  | .wfma _ _ _ _ _ => true
  | .wfmal _ _ _ _ => true
  | .wlat _ _ _ => true
  | .wcvt ty u _ _ _ => wcvtTypes ty u
  | .wfmin _ _ _ _ => true
  | .wfmax _ _ _ _ => true
  | .wget _ _ => true
  | .wput _ _ => true
  | .wli ty _ _ => (ty.isWInt || ty == .f32)
  | .waddi ty _ _ _ => ty.isWInt
  | .wandi _ _ _ => true
  | .wori _ _ _ => true
  | .wxori _ _ _ => true
  | .wshli _ _ _ => true
  | .wshri _ _ _ => true
  | .wsrai _ _ _ => true
  | .wseqi ty _ _ _ => ty.isWInt
  | .wslti ty _ _ _ => ty.isWInt
  | .wld ty _ _ _ sp => ((ty.isVInt || ty == .f32) && sp != .glob)
  | .wst ty _ _ _ => ty.isVUns
  | .vadd ty _ _ _ _ => ty.isVInt
  | .vsub ty _ _ _ _ => ty.isVInt
  | .vmul ty _ _ _ _ => ty.isVInt
  | .vmulh ty _ _ _ _ => ty.isVInt
  | .vdiv ty _ _ _ _ => ty.isVInt
  | .vrem ty _ _ _ _ => ty.isVInt
  | .vmin ty _ _ _ _ => ty.isVInt
  | .vmax ty _ _ _ _ => ty.isVInt
  | .vabs ty _ _ _ => ty.isVInt
  | .vneg ty _ _ _ => ty.isVInt
  | .vmadd ty _ _ _ _ _ => ty.isVInt
  | .vsll ty _ _ _ _ => ty.isVInt
  | .vsrl ty _ _ _ _ => ty.isVInt
  | .vsra ty _ _ _ _ => ty.isVInt
  | .vand ty _ _ _ _ => ty.isVUns
  | .vor ty _ _ _ _ => ty.isVUns
  | .vxor ty _ _ _ _ => ty.isVUns
  | .vandn ty _ _ _ _ => ty.isVUns
  | .vnot ty _ _ _ => ty.isVUns
  | .vaddi ty _ _ _ _ => ty.isVInt
  | .vmuli ty _ _ _ _ => ty.isVInt
  | .vmini ty _ _ _ _ => ty.isVInt
  | .vmaxi ty _ _ _ _ => ty.isVInt
  | .vandi ty _ _ _ _ => ty.isVUns
  | .vori ty _ _ _ _ => ty.isVUns
  | .vxori ty _ _ _ _ => ty.isVUns
  | .vslli ty _ _ _ n => (ty.isVInt && decide (n.toNat < ty.bits))
  | .vsrli ty _ _ _ n => (ty.isVInt && decide (n.toNat < ty.bits))
  | .vsrai ty _ _ _ n => (ty.isVInt && decide (n.toNat < ty.bits))
  | .vcmpi _ ty _ d _ _ => (ty.isVInt && d != 0)
  | .vcmp _ ty _ d _ _ => ((ty.isVInt || ty.isVFloat) && d != 0)
  | .vsel ty _ _ _ _ => ty.isPerm
  | .vbcast ty _ _ _ => ty.isPerm
  | .vtag _ _ tag _ => (tag != .f64)
  | .vidx ty _ _ _ _ => (ty.isVInt || ty.isVFloat)
  | .vaddF ty _ _ _ _ _ => ty.isVFloat
  | .vsubF ty _ _ _ _ _ => ty.isVFloat
  | .vmulF ty _ _ _ _ _ => ty.isVFloat
  | .vdivF ty _ _ _ _ _ => ty.isVFloat
  | .vsqrt ty _ _ _ _ => ty.isVFloat
  | .vminF ty _ _ _ _ _ => ty.isVFloat
  | .vmaxF ty _ _ _ _ _ => ty.isVFloat
  | .vnegF ty _ _ _ _ => ty.isVFloat
  | .vabsF ty _ _ _ _ => ty.isVFloat
  | .vfma ty _ _ _ _ _ _ => ty.isVFloat
  | .vfmaw u _ _ _ _ _ => (u == .f16 || u == .bf16)
  | .vaddiF ty _ _ _ _ => ty.isVFloat
  | .vmuliF ty _ _ _ _ => ty.isVFloat
  | .vminiF ty _ _ _ _ => ty.isVFloat
  | .vmaxiF ty _ _ _ _ => ty.isVFloat
  | .vcvt ty u _ _ _ _ => (ty.isConv && u.isConv && ty != u)
  | .vqnt u _ _ _ => u.isVFloat
  | .vdqnt ty _ _ _ _ => ty.isVFloat
  | .vbfly ty _ _ j _ _ => (ty.isVFloat && decide (j.toNat ≤ 12))
  | .vrnd _ _ _ _ => true
  | .vredsum ty _ _ _ _ => (ty.isVInt || ty.isVFloat)
  | .vredmin ty _ _ _ _ => (ty.isVInt || ty.isVFloat)
  | .vredmax ty _ _ _ _ => (ty.isVInt || ty.isVFloat)
  | .vredand ty _ _ _ _ => ty.isVUns
  | .vredor ty _ _ _ _ => ty.isVUns
  | .vredxor ty _ _ _ _ => ty.isVUns
  | .vscansum ty _ _ _ _ _ => (ty.isVInt || ty.isVFloat)
  | .vscanmin ty _ _ _ _ _ => (ty.isVInt || ty.isVFloat)
  | .vscanmax ty _ _ _ _ _ => (ty.isVInt || ty.isVFloat)
  | .vsegsum ty _ _ _ c => ((ty.isVInt || ty.isVFloat) && c != 0)
  | .vsegmin ty _ _ _ c => ((ty.isVInt || ty.isVFloat) && c != 0)
  | .vsegmax ty _ _ _ c => ((ty.isVInt || ty.isVFloat) && c != 0)
  | .vslideup ty _ _ _ _ => ty.isPerm
  | .vslidedn ty _ _ _ _ => ty.isPerm
  | .vrot ty _ _ _ _ => ty.isPerm
  | .vperm ty _ _ _ _ => ty.isPerm
  | .vcompress ty _ _ _ => ty.isPerm
  | .vexpand ty _ _ _ => ty.isPerm
  | .vxch ty _ _ _ _ => ty.isPerm
  | .mand d _ _ => (d != 0)
  | .mor d _ _ => (d != 0)
  | .mxor d _ _ => (d != 0)
  | .mandn d _ _ => (d != 0)
  | .mnot d _ => (d != 0)
  | .mset d => (d != 0)
  | .mpopc _ _ => true
  | .mfirst _ _ => true
  | .ld ty _ _ _ _ => ty.isXMem
  | .st ty sp _ _ _ => (ty.isXMem && sp != .wb)
  | .vld ty _ m _ _ b off => vldLegal ty m b off
  | .vst ty sp m _ _ b off => (vldLegal ty m b off && sp != .wb)
  | .vlds ty _ _ _ _ _ _ => ty.isConv
  | .vsts ty sp _ _ _ _ _ => (ty.isConv && sp != .wb)
  | .vldx ty _ _ _ _ _ _ _ => ty.isConv
  | .vstx ty sp _ _ _ _ _ _ => (ty.isConv && sp != .wb)
  | .vldseg ty u _ _ d _ n1 _ => (ty.isConv && u.isConv && decide (d.val + n1.toNat ≤ 31))
  | .vstseg ty u sp _ v _ n1 _ => (ty.isConv && u.isConv && decide (v.val + n1.toNat ≤ 31) && sp != .wb)
  | .amoadd ty _ scope _ _ _ => (ty.isXInt && scope != .vp)
  | .amomin ty _ scope _ _ _ => (ty.isXInt && scope != .vp)
  | .amomax ty _ scope _ _ _ => (ty.isXInt && scope != .vp)
  | .amoand ty _ scope _ _ _ => (ty.isXUns && scope != .vp)
  | .amoor ty _ scope _ _ _ => (ty.isXUns && scope != .vp)
  | .amoxor ty _ scope _ _ _ => (ty.isXUns && scope != .vp)
  | .amoswap ty _ scope _ _ _ => (ty.isXInt && scope != .vp)
  | .amocas ty _ scope _ _ _ _ => (ty.isXInt && scope != .vp)
  | .amofadd _ scope _ _ _ => (scope != .vp)
  | .vredm op ty scope _ _ _ _ => (vredmTypes op ty && scope != .vp)
  | .fence _ => true
  | .vdrain => true
  | .vdrainl => true
  | .vdrains => true
  | .waitArr _ _ _ => true
  | .waitW sp _ _ _ => (sp != .wb)
  | .waitWatch _ => true
  | .vwatch _ _ _ _ => true
  | .gsync _ _ => true
  | .gsyncW _ _ => true
  | .hinit scope _ _ => (scope != .vp)
  | .hpush scope _ _ _ => (scope != .vp)
  | .hpop scope _ _ => (scope != .vp)
  | .hstat scope _ _ => (scope != .vp)
  | .hpushVp _ _ a _ => (a.val % 2 == 0)
  | .hpopVp _ _ a => (a.val % 2 == 0)
  | .wmpub _ _ => true
  | .aarm _ _ _ => true
  | .msetdl _ _ => true
  | .dlda sp _ _ _ _ => (sp != .glob)
  | .dldb sp _ _ _ _ => (sp != .glob)
  | .dhold _ _ _ _ => true
  | .dzero _ _ => true
  | .dsetfill _ => true
  | .dbudget _ => true
  | .dmeta sp _ _ _ => (sp != .wb)
  | .dmovV ty _ _ row c => ((ty.isWInt || ty == .f32) && (row || c == 0))
  | .dmovA _ _ _ => true
  | .dcvt ty uf _ _ row c => (ty.isConv && ty != (if uf then Ty.f32 else Ty.s32) && (row || c == 0))
  | .dmacV ty _ _ _ _ => ty.isDmeVec
  | .dmacL ty _ _ => ty.isDmeLatch
  | .dmacTriV ty _ _ _ _ => ty.isDmeVec
  | .dmacTriL ty _ _ => ty.isDmeLatch
  | .dmacs ty _ _ => ty.isDmeLatch
  | .dsweep ty _ _ _ _ => ty.isDmeLatch
  | .dmacVI ty _ _ _ _ _ => ty.isDmeVec
  | .dmacLI ty _ _ _ => ty.isDmeLatch
  | .dmacsI ty _ _ _ _ => ty.isDmeLatch
  | .dmovi ty _ _ _ => (ty == .s32 || ty == .f32)
  | .sopenAff ty _ _ _ _ _ => ty.isConv
  | .sopenInd ty _ _ _ _ _ _ _ => ty.isConv
  | .sopenFib ty _ vsp _ _ _ _ c => (ty.isConv && (c != 0 || (ty == .s8 && vsp == .glob)))
  | .snext d ve _ _ => (ve != some d)
  | .sdone _ _ _ => true
  | .sseek _ _ _ => true
  | .sclose _ => true
  | .cxopen _ _ _ _ => true
  | .cxnext _ vc va vb => (vc != va && vc != vb && va != vb)
  | .cxsplit _ => true
  | .cxclaim scope _ _ => (scope != .vp)
  | .cxstat _ _ => true
  | .cxsave sp _ => (sp != .wb)
  | .cxload _ _ => true
  | .cpset _ reg sp _ => cpsetLegal reg sp
  | .cpget _ _ reg => decide (reg.toNat ≤ 28)
  | .cplaunch _ _ => true
  | .cpwait _ _ => true
  | .cpwm _ _ _ => true
  | .cpcancel _ => true
  | .cparm _ _ _ _ => true
  | .cpexport _ _ _ => true
  | .tret => true
  | .tlbinv _ _ _ _ => true
  | .ctxsave _ _ _ => true
  | .ctxload _ => true
  | .dspill _ _ => true
  | .dfill _ _ => true
  | .wbtag _ => true
  | .wbtagSet _ _ => true
  | .idle => true
  | .pmode _ => true
  | .qpost _ _ _ => true
  | .errlog _ _ => true
  | .dutyset _ _ => true
  | .hint _ _ => true
  | .convoyCommit => true
  | .elementGroupOperation _ => true
  | .trapEntry _ _ => true
  | .vpTrap => true
  | .preempt => true
  | .resume => true
  | .spill => true
  | .kill => true
  | .mailbox => true
  | .aibBegin _ => true
  | .aibComplete _ => true
  | .waitComplete => true
  | .waitWPoll => true
  | .hamperHomeOp _ => true
  | .pairMatch _ => true
  | .pairWindowExpiry _ => true
  | .pageWalk _ _ => true
  | .translationServer _ _ => true
  | .copyElement _ => true
  | .spillReplay _ => true
  | .transferComplete _ => true
  | .dmetaWrite => true
  | .slotTake _ => true
  | .slotReread _ => true
  | .starvation _ => true
  | .dispatch _ => true
  | .preemptionComplete _ => true
  | .preloadFault _ => true
  | .launchComplete _ => true
  | .replayStart _ => true
  | .doorbellTail _ _ => true
  | .ring _ => true
  | .alert _ => true
  | .dispatchCommand _ => true
  | .preemptCommand _ => true
  | .answer _ => true
  | .replay _ => true
  | .proceed _ => true
  | .verdict _ => true
  | .hostWindowWrite _ _ => true
  | .hostWindowRead _ _ => true
  | .registerWrite _ _ _ => true
  | .flitCrcRetry _ => true
  | .portDown _ => true
  | .remoteElementApply _ _ => true
  | .remoteAcknowledge _ => true
  | .deviceReset => true
  | .imageVerify => true
  | .sgo => true
  | .ago => true
  | .plimit _ => true
  | .throttleAdjust _ => true
  | .overTemperature _ => true
  | .storageError _ _ => true
  | .lastingCoreFault _ => true
  | .writeQueueExecution _ => true
  | .sliceAcknowledgement _ => true
  | .eread _ _ => true
  | .portRetrain _ => true

end Sys2Proof
end

