-- ==== Sys2Proof/WellFormed.lean ====
section
/-!
DEFINITION. Well-formed instructions: the ones whose operands decode accepts. The register numbers, type codes and field
widths are bounded by the operands' own types; what is left is the list of operand checks in Sys2Proof/Machine/Legal.lean.
-/

namespace Sys2Proof

/-- The operands of `i` are ones its entry allows. -/
def Instr.WellFormed (i : Instr) : Prop := legal i = true

end Sys2Proof
end

