-- ==== Sys2Proof/Decode.lean ====
section
/-!
DEFINITION. Decode of the instruction words of chapter 06: the fields of the layouts FR, FI, FX and FB (Table 6.2) and of a
restricted slot (R131), the instruction they name, the checks of R125 to R133, then the encoder. Decode is total: a word is
an instruction, a pair of instructions or one of the errors below, each of which is the illegal-instruction trap of R135.
The functions that build instructions are marked noncomputable for one reason: Lean's code generator numbers constructors in
one byte and Instr has more; they are plain structural definitions, and the kernel evaluates them.
A reserved field that is not zero is found by comparing the word's fields with those the instruction's entry gives it.
-/

namespace Sys2Proof

/-- Why a word is no instruction (R125, R132, R133). -/
inductive DecodeError
  | unassigned        -- a major opcode, FN, FN8, FN6 or ROP that names no instruction
  | illegalOperand    -- a type, register or immediate the entry does not allow
  | reservedField     -- a reserved field that is not zero, a reserved code, or a register outside its file
  | pairingLimit      -- a pairing limit of R133
  deriving DecidableEq, Repr

/-- Fields of the layout FR. -/
structure FR where
  maj : BitVec 7
  d : BitVec 6 := 0
  a : BitVec 6 := 0
  b : BitVec 6 := 0
  m : BitVec 3 := 0
  ca : BitVec 1 := 0
  cb : BitVec 1 := 0
  c : BitVec 6 := 0
  cc : BitVec 1 := 0
  ty : BitVec 5 := 0
  fn : BitVec 9 := 0
  aux : BitVec 11 := 0
  deriving DecidableEq, Repr

/-- Fields of the layout FI. -/
structure FI where
  maj : BitVec 7
  d : BitVec 6 := 0
  a : BitVec 6 := 0
  b : BitVec 6 := 0
  m : BitVec 3 := 0
  ca : BitVec 1 := 0
  cb : BitVec 1 := 0
  imm : BitVec 16 := 0
  ty : BitVec 5 := 0
  fn : BitVec 8 := 0
  aux3 : BitVec 3 := 0
  deriving DecidableEq, Repr

/-- Fields of the layout FX: FN6 stands in the place of A. -/
structure FX where
  maj : BitVec 7
  d : BitVec 6 := 0
  fn : BitVec 6 := 0
  b : BitVec 6 := 0
  m : BitVec 3 := 0
  ca : BitVec 1 := 0
  cb : BitVec 1 := 0
  imma : BitVec 16 := 0
  immb : BitVec 16 := 0
  deriving DecidableEq, Repr

/-- Fields of the layout FB: D is the link register, M the condition code. -/
structure FB where
  maj : BitVec 7
  d : BitVec 6 := 0
  a : BitVec 6 := 0
  b : BitVec 6 := 0
  m : BitVec 3 := 0
  ca : BitVec 1 := 0
  cb : BitVec 1 := 0
  off : BitVec 32 := 0
  deriving DecidableEq, Repr

/-- Fields of a restricted slot (R131). -/
structure SlotF where
  rop : BitVec 5 := 0
  da : BitVec 6 := 0
  s : BitVec 6 := 0
  imm : BitVec 14 := 0
  deriving DecidableEq, Repr

/-- The fields of a full word or of a slot. -/
inductive Raw
  | fr (f : FR)
  | fi (f : FI)
  | fx (f : FX)
  | fb (f : FB)
  | slot (f : SlotF)
  | hint (odd : Bool) (bits : BitVec 55)
  deriving DecidableEq, Repr

/-- A register or slot number as a field. -/
def num {n : Nat} (w : Nat) (r : Fin n) : BitVec w := BitVec.ofNat w r.val

/-- A field as a number below `n`; a field that names none is found when the fields are compared. -/
def unnum (n : Nat) [NeZero n] {w : Nat} (b : BitVec w) : Fin n := Fin.ofNat n b.toNat

/-- A one-bit field as a truth value. -/
def bit (b : BitVec 1) : Bool := b == 1#1

/-- Table 6.5. -/
def Ty.code : Ty → BitVec 5
  | .s8 => 0 | .z8 => 1 | .s16 => 2 | .z16 => 3 | .s32 => 4 | .z32 => 5 | .s64 => 6 | .z64 => 7
  | .f16 => 8 | .bf16 => 9 | .f32 => 10 | .f64 => 11 | .e4m3 => 12 | .e5m2 => 13 | .q4 => 14

/-- Table 6.5, read the other way; a reserved code reads as `s8` and is found when the fields are compared. -/
def Ty.ofCode (b : BitVec 5) : Ty :=
  match b.toNat with
  | 1 => .z8 | 2 => .s16 | 3 => .z16 | 4 => .s32 | 5 => .z32 | 6 => .s64 | 7 => .z64
  | 8 => .f16 | 9 => .bf16 | 10 => .f32 | 11 => .f64 | 12 => .e4m3 | 13 => .e5m2 | 14 => .q4
  | _ => .s8

/-- The low four bits of a type code, as FN6 of MAJ 0x64 holds them (Table 10.4). -/
def Ty.code4 (t : Ty) : BitVec 4 := t.code.setWidth 4

/-- The type of a four-bit code. -/
def Ty.ofCode4 (b : BitVec 4) : Ty := Ty.ofCode (b.setWidth 5)

/-- The mode field of R144. -/
def Mode.code : Mode → BitVec 3
  | .rne => 0 | .rtz => 1 | .rup => 2 | .rdn => 3 | .rna => 4 | .sto => 5 | .ctl => 7

/-- The mode field read; 6 is reserved. -/
def Mode.ofCode (b : BitVec 3) : Mode :=
  match b.toNat with
  | 0 => .rne | 1 => .rtz | 2 => .rup | 3 => .rdn | 4 => .rna | 5 => .sto | _ => .ctl

/-- The space field of R127. -/
def Space.code : Space → BitVec 2
  | .glob => 0 | .ab => 1 | .wb => 2

/-- The space field read; 3 is reserved. -/
def Space.ofCode (b : BitVec 2) : Space :=
  match b.toNat with
  | 0 => .glob | 1 => .ab | _ => .wb

/-- The scope codes of Table 9.4. -/
def Scope.code : Scope → BitVec 3
  | .vp => 0 | .core => 1 | .group => 2 | .quarter => 3 | .device => 4 | .system => 5

/-- The scope codes read; 6 and 7 are reserved. -/
def Scope.ofCode (b : BitVec 3) : Scope :=
  match b.toNat with
  | 0 => .vp | 1 => .core | 2 => .group | 3 => .quarter | 4 => .device | _ => .system

/-- The order field of R211. -/
def Order.code : Order → BitVec 2
  | .relaxed => 0 | .acq => 1 | .rel => 2 | .ar => 3

/-- The order field read. -/
def Order.ofCode (b : BitVec 2) : Order :=
  match b.toNat with
  | 0 => .relaxed | 1 => .acq | 2 => .rel | _ => .ar

/-- The condition codes of Table 6.3. -/
def Cond.code : Cond → BitVec 3
  | .eq => 0 | .ne => 1 | .lt => 2 | .ge => 3 | .ltu => 4 | .geu => 5 | .al => 6

/-- The condition codes read; 7 is reserved. -/
def Cond.ofCode (b : BitVec 3) : Cond :=
  match b.toNat with
  | 0 => .eq | 1 => .ne | 2 => .lt | 3 => .ge | 4 => .ltu | 5 => .geu | _ => .al

/-- The relations in the order of R177. -/
def Rel.code : Rel → BitVec 3
  | .eq => 0 | .ne => 1 | .lt => 2 | .le => 3 | .gt => 4 | .ge => 5

/-- The relations read. -/
def Rel.ofCode (b : BitVec 3) : Rel :=
  match b.toNat with
  | 0 => .eq | 1 => .ne | 2 => .lt | 3 => .le | 4 => .gt | _ => .ge

/-- The operations in the order of R213. -/
def RedOp.code : RedOp → BitVec 3
  | .add => 0 | .min => 1 | .max => 2 | .and => 3 | .or => 4 | .xor => 5

/-- The operations read. -/
def RedOp.ofCode (b : BitVec 3) : RedOp :=
  match b.toNat with
  | 0 => .add | 1 => .min | 2 => .max | 3 => .and | 4 => .or | _ => .xor

/-- The kinds of `vqnt` (Table 8.4). -/
def QKind.code : QKind → BitVec 3
  | .t0 => 0 | .t1 => 1 | .t2 => 2 | .t3 => 3 | .auto => 4

/-- The kinds read; 5 to 7 are reserved. -/
def QKind.ofCode (b : BitVec 3) : QKind :=
  match b.toNat with
  | 0 => .t0 | 1 => .t1 | 2 => .t2 | 3 => .t3 | _ => .auto

/-- The fibre encodings of Table 11.4. -/
def FibEnc.code : FibEnc → BitVec 3
  | .idx16 => 0 | .idx32 => 1 | .delta8 => 2 | .bmp => 3 | .run => 4

/-- The fibre encodings read; 5 to 7 are reserved. -/
def FibEnc.ofCode (b : BitVec 3) : FibEnc :=
  match b.toNat with
  | 0 => .idx16 | 1 => .idx32 | 2 => .delta8 | 3 => .bmp | _ => .run

/-- The modes of `msetdl` (R263). -/
def DForm.code : DForm → BitVec 2
  | .elem => 1 | .pack => 2

/-- The modes read; 0 and 3 are illegal. -/
def DForm.ofCode (b : BitVec 2) : DForm := if b = 1 then .elem else .pack

/-- The kinds of `tlbinv` (R376). -/
def TlbKind.code : TlbKind → BitVec 2
  | .all => 0 | .asid => 1 | .page => 2 | .gpage => 3

/-- The kinds read. -/
def TlbKind.ofCode (b : BitVec 2) : TlbKind :=
  match b.toNat with
  | 0 => .all | 1 => .asid | 2 => .page | _ => .gpage

/-- The immediate of `setew` (Table 7.5). -/
def Ew.code : Ew → BitVec 16
  | .w8 => 8 | .w16 => 16 | .w32 => 32

/-- The immediate of `setew` read; any value but 8, 16 and 32 is illegal. -/
def Ew.ofCode (b : BitVec 16) : Ew :=
  match b.toNat with
  | 8 => .w8 | 16 => .w16 | _ => .w32

/-- The fields of a word in the layout FR (Tables 6.1 and 6.2). -/
def frOf (w : Word) : FR :=
  { maj := w.extractLsb' 56 7, d := w.extractLsb' 50 6, a := w.extractLsb' 44 6, b := w.extractLsb' 38 6,
    m := w.extractLsb' 35 3, ca := w.extractLsb' 34 1, cb := w.extractLsb' 33 1, c := w.extractLsb' 27 6,
    cc := w.extractLsb' 26 1, ty := w.extractLsb' 21 5, fn := w.extractLsb' 12 9, aux := w.extractLsb' 1 11 }

/-- The fields of a word in the layout FI. -/
def fiOf (w : Word) : FI :=
  { maj := w.extractLsb' 56 7, d := w.extractLsb' 50 6, a := w.extractLsb' 44 6, b := w.extractLsb' 38 6,
    m := w.extractLsb' 35 3, ca := w.extractLsb' 34 1, cb := w.extractLsb' 33 1, imm := w.extractLsb' 17 16,
    ty := w.extractLsb' 12 5, fn := w.extractLsb' 4 8, aux3 := w.extractLsb' 1 3 }

/-- The fields of a word in the layout FX. -/
def fxOf (w : Word) : FX :=
  { maj := w.extractLsb' 56 7, d := w.extractLsb' 50 6, fn := w.extractLsb' 44 6, b := w.extractLsb' 38 6,
    m := w.extractLsb' 35 3, ca := w.extractLsb' 34 1, cb := w.extractLsb' 33 1, imma := w.extractLsb' 17 16,
    immb := w.extractLsb' 1 16 }

/-- The fields of a word in the layout FB. -/
def fbOf (w : Word) : FB :=
  { maj := w.extractLsb' 56 7, d := w.extractLsb' 50 6, a := w.extractLsb' 44 6, b := w.extractLsb' 38 6,
    m := w.extractLsb' 35 3, ca := w.extractLsb' 34 1, cb := w.extractLsb' 33 1, off := w.extractLsb' 1 32 }

/-- The fields of a slot (R131). -/
def slotOf (s : BitVec 31) : SlotF :=
  { rop := s.extractLsb' 26 5, da := s.extractLsb' 20 6, s := s.extractLsb' 14 6, imm := s.extractLsb' 0 14 }

/-- The slot of its fields. -/
def SlotF.bits (f : SlotF) : BitVec 31 := f.rop ++ f.da ++ f.s ++ f.imm

/-- The full word of its fields, with convoy-end bit `e`; a slot becomes a pair with `nop` in the low slot (R356). -/
def Raw.word (r : Raw) (e : Bool) : Word :=
  match r with
  | .fr f => 0#1 ++ f.maj ++ f.d ++ f.a ++ f.b ++ f.m ++ f.ca ++ f.cb ++ f.c ++ f.cc ++ f.ty ++ f.fn ++ f.aux ++ BitVec.ofBool e
  | .fi f => 0#1 ++ f.maj ++ f.d ++ f.a ++ f.b ++ f.m ++ f.ca ++ f.cb ++ f.imm ++ f.ty ++ f.fn ++ f.aux3 ++ BitVec.ofBool e
  | .fx f => 0#1 ++ f.maj ++ f.d ++ f.fn ++ f.b ++ f.m ++ f.ca ++ f.cb ++ f.imma ++ f.immb ++ BitVec.ofBool e
  | .fb f => 0#1 ++ f.maj ++ f.d ++ f.a ++ f.b ++ f.m ++ f.ca ++ f.cb ++ f.off ++ BitVec.ofBool e
  | .slot f => 1#1 ++ f.bits ++ 0#31 ++ BitVec.ofBool e
  | .hint odd bits => 0#1 ++ 0x3E#6 ++ BitVec.ofBool odd ++ bits ++ BitVec.ofBool e

/-- The fields of an instruction's word or slot, with every field its entry does not use zero; an event has none. -/
def fields : Instr → Option Raw
  | .add ty d a b => some (.fr { maj := 0x00, ty := ty.code, d := num 6 d, a := num 6 a, b := num 6 b })
  | .sub ty d a b => some (.fr { maj := 0x00, ty := ty.code, d := num 6 d, a := num 6 a, b := num 6 b, fn := 1 })
  | .and ty d a b => some (.fr { maj := 0x00, ty := ty.code, d := num 6 d, a := num 6 a, b := num 6 b, fn := 2 })
  | .or ty d a b => some (.fr { maj := 0x00, ty := ty.code, d := num 6 d, a := num 6 a, b := num 6 b, fn := 3 })
  | .xor ty d a b => some (.fr { maj := 0x00, ty := ty.code, d := num 6 d, a := num 6 a, b := num 6 b, fn := 4 })
  | .sll ty d a b => some (.fr { maj := 0x00, ty := ty.code, d := num 6 d, a := num 6 a, b := num 6 b, fn := 5 })
  | .srl ty d a b => some (.fr { maj := 0x00, ty := ty.code, d := num 6 d, a := num 6 a, b := num 6 b, fn := 6 })
  | .sra ty d a b => some (.fr { maj := 0x00, ty := ty.code, d := num 6 d, a := num 6 a, b := num 6 b, fn := 7 })
  | .slt ty d a b => some (.fr { maj := 0x00, ty := ty.code, d := num 6 d, a := num 6 a, b := num 6 b, fn := 8 })
  | .min ty d a b => some (.fr { maj := 0x00, ty := ty.code, d := num 6 d, a := num 6 a, b := num 6 b, fn := 9 })
  | .max ty d a b => some (.fr { maj := 0x00, ty := ty.code, d := num 6 d, a := num 6 a, b := num 6 b, fn := 10 })
  | .csel ty d a b c => some (.fr { maj := 0x00, ty := ty.code, d := num 6 d, a := num 6 a, b := num 6 b, c := num 6 c, fn := 11 })
  | .addsl ty d a b n => some (.fr { maj := 0x00, ty := ty.code, d := num 6 d, a := num 6 a, b := num 6 b, fn := 12, aux := 0#8 ++ n })
  | .mul ty d a b => some (.fr { maj := 0x01, ty := ty.code, d := num 6 d, a := num 6 a, b := num 6 b })
  | .mulh ty d a b => some (.fr { maj := 0x01, ty := ty.code, d := num 6 d, a := num 6 a, b := num 6 b, fn := 1 })
  | .div ty d a b => some (.fr { maj := 0x01, ty := ty.code, d := num 6 d, a := num 6 a, b := num 6 b, fn := 2 })
  | .rem ty d a b => some (.fr { maj := 0x01, ty := ty.code, d := num 6 d, a := num 6 a, b := num 6 b, fn := 3 })
  | .clz ty d a => some (.fr { maj := 0x02, ty := ty.code, d := num 6 d, a := num 6 a })
  | .ctz ty d a => some (.fr { maj := 0x02, ty := ty.code, d := num 6 d, a := num 6 a, fn := 1 })
  | .popc ty d a => some (.fr { maj := 0x02, ty := ty.code, d := num 6 d, a := num 6 a, fn := 2 })
  | .ext ty d a => some (.fr { maj := 0x02, ty := ty.code, d := num 6 d, a := num 6 a, fn := 3 })
  | .addi ty d a imm => some (.fi { maj := 0x08, ty := ty.code, d := num 6 d, a := num 6 a, imm := imm })
  | .andi ty d a imm => some (.fi { maj := 0x08, ty := ty.code, d := num 6 d, a := num 6 a, imm := imm, fn := 1 })
  | .ori ty d a imm => some (.fi { maj := 0x08, ty := ty.code, d := num 6 d, a := num 6 a, imm := imm, fn := 2 })
  | .xori ty d a imm => some (.fi { maj := 0x08, ty := ty.code, d := num 6 d, a := num 6 a, imm := imm, fn := 3 })
  | .slli ty d a n => some (.fi { maj := 0x08, ty := ty.code, d := num 6 d, a := num 6 a, fn := 4, imm := 0#10 ++ n })
  | .srli ty d a n => some (.fi { maj := 0x08, ty := ty.code, d := num 6 d, a := num 6 a, fn := 5, imm := 0#10 ++ n })
  | .srai ty d a n => some (.fi { maj := 0x08, ty := ty.code, d := num 6 d, a := num 6 a, fn := 6, imm := 0#10 ++ n })
  | .slti ty d a imm => some (.fi { maj := 0x08, ty := ty.code, d := num 6 d, a := num 6 a, imm := imm, fn := 7 })
  | .muli ty d a imm => some (.fi { maj := 0x08, ty := ty.code, d := num 6 d, a := num 6 a, imm := imm, fn := 8 })
  | .lim d imm => some (.fx { maj := 0x0E, d := num 6 d, imma := imm.extractLsb' 16 16, immb := imm.extractLsb' 0 16 })
  | .lih d imm => some (.fx { maj := 0x0E, d := num 6 d, imma := imm.extractLsb' 16 16, immb := imm.extractLsb' 0 16, fn := 1 })
  | .addpc d imm => some (.fx { maj := 0x0E, d := num 6 d, imma := imm.extractLsb' 16 16, immb := imm.extractLsb' 0 16, fn := 2 })
  | .nop => some (.slot { rop := 0 })
  | .mov d a => some (.slot { da := num 6 d, s := num 6 a, rop := 1 })
  | .addiR d imm => some (.slot { da := num 6 d, imm := imm, rop := 2 })
  | .addR d a => some (.slot { da := num 6 d, s := num 6 a, rop := 3 })
  | .subR d a => some (.slot { da := num 6 d, s := num 6 a, rop := 4 })
  | .andR d a => some (.slot { da := num 6 d, s := num 6 a, rop := 5 })
  | .orR d a => some (.slot { da := num 6 d, s := num 6 a, rop := 6 })
  | .xorR d a => some (.slot { da := num 6 d, s := num 6 a, rop := 7 })
  | .shli d n => some (.slot { da := num 6 d, rop := 8, imm := 0#8 ++ n })
  | .shri d n => some (.slot { da := num 6 d, rop := 9, imm := 0#8 ++ n })
  | .sraiR d n => some (.slot { da := num 6 d, rop := 10, imm := 0#8 ++ n })
  | .ldR d a off => some (.slot { da := num 6 d, s := num 6 a, imm := off, rop := 11 })
  | .stR v a off => some (.slot { da := num 6 v, s := num 6 a, imm := off, rop := 12 })
  | .beqz a off => some (.slot { da := num 6 a, imm := off, rop := 13 })
  | .bnez a off => some (.slot { da := num 6 a, imm := off, rop := 14 })
  | .wmovR d a => some (.slot { da := num 6 d, s := num 6 a, rop := 15 })
  | .waddiR d imm => some (.slot { da := num 6 d, imm := imm, rop := 16 })
  | .waddR d a => some (.slot { da := num 6 d, s := num 6 a, rop := 17 })
  | .wfaddR d a => some (.slot { da := num 6 d, s := num 6 a, rop := 18 })
  | .wfmulR d a => some (.slot { da := num 6 d, s := num 6 a, rop := 19 })
  | .wlatR a l => some (.slot { da := num 6 a, rop := 20, imm := 0#13 ++ (num 1 l) })
  | .wfmalR d a l => some (.slot { da := num 6 d, s := num 6 a, rop := 21, imm := 0#13 ++ (num 1 l) })
  | .vaddiR d imm => some (.slot { da := num 6 d, imm := imm, rop := 22 })
  | .vmov d a => some (.slot { da := num 6 d, s := num 6 a, rop := 23 })
  | .setvli d n => some (.slot { da := num 6 d, imm := n, rop := 24 })
  | .tfetchR off => some (.slot { imm := off, rop := 25 })
  | .tstopR => some (.slot { rop := 26 })
  | .fadd ty d a b mode => some (.fr { maj := 0x10, ty := ty.code, d := num 6 d, a := num 6 a, b := num 6 b, aux := 0#8 ++ mode.code })
  | .fsub ty d a b mode => some (.fr { maj := 0x10, ty := ty.code, d := num 6 d, a := num 6 a, b := num 6 b, fn := 1, aux := 0#8 ++ mode.code })
  | .fmul ty d a b mode => some (.fr { maj := 0x10, ty := ty.code, d := num 6 d, a := num 6 a, b := num 6 b, fn := 2, aux := 0#8 ++ mode.code })
  | .fdiv ty d a b mode => some (.fr { maj := 0x10, ty := ty.code, d := num 6 d, a := num 6 a, b := num 6 b, fn := 3, aux := 0#8 ++ mode.code })
  | .fsqrt ty d a mode => some (.fr { maj := 0x10, ty := ty.code, d := num 6 d, a := num 6 a, fn := 4, aux := 0#8 ++ mode.code })
  | .fmin ty d a b mode => some (.fr { maj := 0x10, ty := ty.code, d := num 6 d, a := num 6 a, b := num 6 b, fn := 5, aux := 0#8 ++ mode.code })
  | .fmax ty d a b mode => some (.fr { maj := 0x10, ty := ty.code, d := num 6 d, a := num 6 a, b := num 6 b, fn := 6, aux := 0#8 ++ mode.code })
  | .fneg ty d a mode => some (.fr { maj := 0x10, ty := ty.code, d := num 6 d, a := num 6 a, fn := 7, aux := 0#8 ++ mode.code })
  | .fabs ty d a mode => some (.fr { maj := 0x10, ty := ty.code, d := num 6 d, a := num 6 a, fn := 8, aux := 0#8 ++ mode.code })
  | .feq ty d a b mode => some (.fr { maj := 0x10, ty := ty.code, d := num 6 d, a := num 6 a, b := num 6 b, fn := 9, aux := 0#8 ++ mode.code })
  | .flt ty d a b mode => some (.fr { maj := 0x10, ty := ty.code, d := num 6 d, a := num 6 a, b := num 6 b, fn := 10, aux := 0#8 ++ mode.code })
  | .fle ty d a b mode => some (.fr { maj := 0x10, ty := ty.code, d := num 6 d, a := num 6 a, b := num 6 b, fn := 11, aux := 0#8 ++ mode.code })
  | .fcvt ty u d a mode => some (.fr { maj := 0x10, ty := ty.code, d := num 6 d, a := num 6 a, fn := 12, aux := 0#3 ++ u.code ++ mode.code })
  | .fma ty d a b c mode => some (.fr { maj := 0x10, ty := ty.code, d := num 6 d, a := num 6 a, b := num 6 b, c := num 6 c, fn := 13, aux := 0#8 ++ mode.code })
  | .fli ty d imm => some (.fi { maj := 0x16, ty := ty.code, d := num 6 d, imm := imm })
  | .faddi ty d a imm => some (.fi { maj := 0x16, ty := ty.code, d := num 6 d, a := num 6 a, imm := imm, fn := 1 })
  | .fmuli ty d a imm => some (.fi { maj := 0x16, ty := ty.code, d := num 6 d, a := num 6 a, imm := imm, fn := 2 })
  | .branch cond a b off => some (.fb { maj := 0x18, m := cond.code, a := num 6 a, b := num 6 b, off := off })
  | .jal d off => some (.fb { maj := 0x19, d := num 6 d, off := off, m := 6 })
  | .jr d a => some (.fr { maj := 0x1A, d := num 6 d, a := num 6 a })
  | .svc code => some (.fr { maj := 0x1A, fn := 1, aux := code })
  | .brk code => some (.fr { maj := 0x1A, fn := 2, aux := code })
  | .halt => some (.fr { maj := 0x1A, fn := 3 })
  | .yield => some (.fr { maj := 0x1A, fn := 4 })
  | .csrr d csr => some (.fi { maj := 0x1B, d := num 6 d, imm := 0#4 ++ csr })
  | .csrw csr a => some (.fi { maj := 0x1B, a := num 6 a, fn := 1, imm := 0#4 ++ csr })
  | .setvl d a => some (.fi { maj := 0x1B, d := num 6 d, a := num 6 a, fn := 2 })
  | .setew ew => some (.fi { maj := 0x1B, imm := ew.code, fn := 3 })
  | .setslip n => some (.fi { maj := 0x1B, fn := 4, imm := 0#12 ++ n })
  | .setvp a => some (.fi { maj := 0x1B, a := num 6 a, fn := 5 })
  | .vfetch off => some (.fx { maj := 0x1C, imma := off.extractLsb' 16 16, immb := off.extractLsb' 0 16 })
  | .tfetch off => some (.fx { maj := 0x1C, imma := off.extractLsb' 16 16, immb := off.extractLsb' 0 16, fn := 1 })
  | .tfsel a l1 l2 => some (.fx { maj := 0x1C, d := num 6 a, imma := l1, immb := l2, fn := 2 })
  | .tstop => some (.fr { maj := 0x1D })
  | .vrejoin => some (.fr { maj := 0x1D, fn := 1 })
  | .wmov d a => some (.fr { maj := 0x1E, d := num 6 d, a := num 6 a, ty := 5 })
  | .wadd ty d a b => some (.fr { maj := 0x1E, ty := ty.code, d := num 6 d, a := num 6 a, b := num 6 b, fn := 1 })
  | .wsub ty d a b => some (.fr { maj := 0x1E, ty := ty.code, d := num 6 d, a := num 6 a, b := num 6 b, fn := 2 })
  | .wmul ty d a b => some (.fr { maj := 0x1E, ty := ty.code, d := num 6 d, a := num 6 a, b := num 6 b, fn := 3 })
  | .wand d a b => some (.fr { maj := 0x1E, d := num 6 d, a := num 6 a, b := num 6 b, ty := 5, fn := 4 })
  | .wor d a b => some (.fr { maj := 0x1E, d := num 6 d, a := num 6 a, b := num 6 b, ty := 5, fn := 5 })
  | .wxor d a b => some (.fr { maj := 0x1E, d := num 6 d, a := num 6 a, b := num 6 b, ty := 5, fn := 6 })
  | .wshl d a b => some (.fr { maj := 0x1E, d := num 6 d, a := num 6 a, b := num 6 b, ty := 5, fn := 7 })
  | .wshr d a b => some (.fr { maj := 0x1E, d := num 6 d, a := num 6 a, b := num 6 b, ty := 5, fn := 8 })
  | .wsra d a b => some (.fr { maj := 0x1E, d := num 6 d, a := num 6 a, b := num 6 b, ty := 5, fn := 9 })
  | .wmin ty d a b => some (.fr { maj := 0x1E, ty := ty.code, d := num 6 d, a := num 6 a, b := num 6 b, fn := 10 })
  | .wmax ty d a b => some (.fr { maj := 0x1E, ty := ty.code, d := num 6 d, a := num 6 a, b := num 6 b, fn := 11 })
  | .wseq ty d a b => some (.fr { maj := 0x1E, ty := ty.code, d := num 6 d, a := num 6 a, b := num 6 b, fn := 12 })
  | .wslt ty d a b => some (.fr { maj := 0x1E, ty := ty.code, d := num 6 d, a := num 6 a, b := num 6 b, fn := 13 })
  | .wfeq d a b mode => some (.fr { maj := 0x1E, d := num 6 d, a := num 6 a, b := num 6 b, ty := 10, fn := 14, aux := 0#8 ++ mode.code })
  | .wflt d a b mode => some (.fr { maj := 0x1E, d := num 6 d, a := num 6 a, b := num 6 b, ty := 10, fn := 15, aux := 0#8 ++ mode.code })
  | .wfle d a b mode => some (.fr { maj := 0x1E, d := num 6 d, a := num 6 a, b := num 6 b, ty := 10, fn := 16, aux := 0#8 ++ mode.code })
  | .wsel d a b c => some (.fr { maj := 0x1E, d := num 6 d, a := num 6 a, b := num 6 b, c := num 6 c, ty := 5, fn := 17 })
  | .wfadd d a b mode => some (.fr { maj := 0x1E, d := num 6 d, a := num 6 a, b := num 6 b, ty := 10, fn := 18, aux := 0#8 ++ mode.code })
  | .wfsub d a b mode => some (.fr { maj := 0x1E, d := num 6 d, a := num 6 a, b := num 6 b, ty := 10, fn := 19, aux := 0#8 ++ mode.code })
  | .wfmul d a b mode => some (.fr { maj := 0x1E, d := num 6 d, a := num 6 a, b := num 6 b, ty := 10, fn := 20, aux := 0#8 ++ mode.code })
  | .wfma d a b c mode => some (.fr { maj := 0x1E, d := num 6 d, a := num 6 a, b := num 6 b, c := num 6 c, ty := 10, fn := 21, aux := 0#8 ++ mode.code })
  | .wfmal d a l mode => some (.fr { maj := 0x1E, d := num 6 d, a := num 6 a, ty := 10, fn := 22, aux := 0#7 ++ (num 1 l) ++ mode.code })
  | .wlat a l mode => some (.fr { maj := 0x1E, a := num 6 a, ty := 10, fn := 23, aux := 0#7 ++ (num 1 l) ++ mode.code })
  | .wcvt ty u d a mode => some (.fr { maj := 0x1E, ty := ty.code, d := num 6 d, a := num 6 a, fn := 24, aux := 0#3 ++ u.code ++ mode.code })
  | .wfmin d a b mode => some (.fr { maj := 0x1E, d := num 6 d, a := num 6 a, b := num 6 b, ty := 10, fn := 25, aux := 0#8 ++ mode.code })
  | .wfmax d a b mode => some (.fr { maj := 0x1E, d := num 6 d, a := num 6 a, b := num 6 b, ty := 10, fn := 26, aux := 0#8 ++ mode.code })
  | .wget d a => some (.fr { maj := 0x1E, d := num 6 d, a := num 6 a.reg, ca := BitVec.ofBool a.chained, fn := 27 })
  | .wput d a => some (.fr { maj := 0x1E, d := num 6 d, a := num 6 a, fn := 28 })
  | .wli ty d imm => some (.fi { maj := 0x1F, ty := ty.code, d := num 6 d, imm := imm })
  | .waddi ty d a imm => some (.fi { maj := 0x1F, ty := ty.code, d := num 6 d, a := num 6 a, imm := imm, fn := 1 })
  | .wandi d a imm => some (.fi { maj := 0x1F, d := num 6 d, a := num 6 a, imm := imm, ty := 5, fn := 2 })
  | .wori d a imm => some (.fi { maj := 0x1F, d := num 6 d, a := num 6 a, imm := imm, ty := 5, fn := 3 })
  | .wxori d a imm => some (.fi { maj := 0x1F, d := num 6 d, a := num 6 a, imm := imm, ty := 5, fn := 4 })
  | .wshli d a n => some (.fi { maj := 0x1F, d := num 6 d, a := num 6 a, ty := 5, fn := 5, imm := 0#11 ++ n })
  | .wshri d a n => some (.fi { maj := 0x1F, d := num 6 d, a := num 6 a, ty := 5, fn := 6, imm := 0#11 ++ n })
  | .wsrai d a n => some (.fi { maj := 0x1F, d := num 6 d, a := num 6 a, ty := 5, fn := 7, imm := 0#11 ++ n })
  | .wseqi ty d a imm => some (.fi { maj := 0x1F, ty := ty.code, d := num 6 d, a := num 6 a, imm := imm, fn := 8 })
  | .wslti ty d a imm => some (.fi { maj := 0x1F, ty := ty.code, d := num 6 d, a := num 6 a, imm := imm, fn := 9 })
  | .wld ty d a off sp => some (.fi { maj := 0x1F, ty := ty.code, d := num 6 d, a := num 6 a, imm := off, fn := 10, aux3 := 0#1 ++ sp.code })
  | .wst ty v a off => some (.fi { maj := 0x1F, ty := ty.code, d := num 6 v, a := num 6 a, imm := off, fn := 11, aux3 := 0#1 ++ 1#2 })
  | .vadd ty m d a b => some (.fr { maj := 0x20, ty := ty.code, m := num 3 m, d := num 6 d, a := num 6 a.reg, ca := BitVec.ofBool a.chained, b := num 6 b.reg, cb := BitVec.ofBool b.chained })
  | .vsub ty m d a b => some (.fr { maj := 0x20, ty := ty.code, m := num 3 m, d := num 6 d, a := num 6 a.reg, ca := BitVec.ofBool a.chained, b := num 6 b.reg, cb := BitVec.ofBool b.chained, fn := 1 })
  | .vmul ty m d a b => some (.fr { maj := 0x20, ty := ty.code, m := num 3 m, d := num 6 d, a := num 6 a.reg, ca := BitVec.ofBool a.chained, b := num 6 b.reg, cb := BitVec.ofBool b.chained, fn := 2 })
  | .vmulh ty m d a b => some (.fr { maj := 0x20, ty := ty.code, m := num 3 m, d := num 6 d, a := num 6 a.reg, ca := BitVec.ofBool a.chained, b := num 6 b.reg, cb := BitVec.ofBool b.chained, fn := 3 })
  | .vdiv ty m d a b => some (.fr { maj := 0x20, ty := ty.code, m := num 3 m, d := num 6 d, a := num 6 a.reg, ca := BitVec.ofBool a.chained, b := num 6 b.reg, cb := BitVec.ofBool b.chained, fn := 4 })
  | .vrem ty m d a b => some (.fr { maj := 0x20, ty := ty.code, m := num 3 m, d := num 6 d, a := num 6 a.reg, ca := BitVec.ofBool a.chained, b := num 6 b.reg, cb := BitVec.ofBool b.chained, fn := 5 })
  | .vmin ty m d a b => some (.fr { maj := 0x20, ty := ty.code, m := num 3 m, d := num 6 d, a := num 6 a.reg, ca := BitVec.ofBool a.chained, b := num 6 b.reg, cb := BitVec.ofBool b.chained, fn := 6 })
  | .vmax ty m d a b => some (.fr { maj := 0x20, ty := ty.code, m := num 3 m, d := num 6 d, a := num 6 a.reg, ca := BitVec.ofBool a.chained, b := num 6 b.reg, cb := BitVec.ofBool b.chained, fn := 7 })
  | .vabs ty m d a => some (.fr { maj := 0x20, ty := ty.code, m := num 3 m, d := num 6 d, a := num 6 a.reg, ca := BitVec.ofBool a.chained, fn := 8 })
  | .vneg ty m d a => some (.fr { maj := 0x20, ty := ty.code, m := num 3 m, d := num 6 d, a := num 6 a.reg, ca := BitVec.ofBool a.chained, fn := 9 })
  | .vmadd ty m d a b c => some (.fr { maj := 0x20, ty := ty.code, m := num 3 m, d := num 6 d, a := num 6 a.reg, ca := BitVec.ofBool a.chained, b := num 6 b.reg, cb := BitVec.ofBool b.chained, c := num 6 c.reg, cc := BitVec.ofBool c.chained, fn := 10 })
  | .vsll ty m d a b => some (.fr { maj := 0x20, ty := ty.code, m := num 3 m, d := num 6 d, a := num 6 a.reg, ca := BitVec.ofBool a.chained, b := num 6 b.reg, cb := BitVec.ofBool b.chained, fn := 11 })
  | .vsrl ty m d a b => some (.fr { maj := 0x20, ty := ty.code, m := num 3 m, d := num 6 d, a := num 6 a.reg, ca := BitVec.ofBool a.chained, b := num 6 b.reg, cb := BitVec.ofBool b.chained, fn := 12 })
  | .vsra ty m d a b => some (.fr { maj := 0x20, ty := ty.code, m := num 3 m, d := num 6 d, a := num 6 a.reg, ca := BitVec.ofBool a.chained, b := num 6 b.reg, cb := BitVec.ofBool b.chained, fn := 13 })
  | .vand ty m d a b => some (.fr { maj := 0x21, ty := ty.code, m := num 3 m, d := num 6 d, a := num 6 a.reg, ca := BitVec.ofBool a.chained, b := num 6 b.reg, cb := BitVec.ofBool b.chained })
  | .vor ty m d a b => some (.fr { maj := 0x21, ty := ty.code, m := num 3 m, d := num 6 d, a := num 6 a.reg, ca := BitVec.ofBool a.chained, b := num 6 b.reg, cb := BitVec.ofBool b.chained, fn := 1 })
  | .vxor ty m d a b => some (.fr { maj := 0x21, ty := ty.code, m := num 3 m, d := num 6 d, a := num 6 a.reg, ca := BitVec.ofBool a.chained, b := num 6 b.reg, cb := BitVec.ofBool b.chained, fn := 2 })
  | .vandn ty m d a b => some (.fr { maj := 0x21, ty := ty.code, m := num 3 m, d := num 6 d, a := num 6 a.reg, ca := BitVec.ofBool a.chained, b := num 6 b.reg, cb := BitVec.ofBool b.chained, fn := 3 })
  | .vnot ty m d a => some (.fr { maj := 0x21, ty := ty.code, m := num 3 m, d := num 6 d, a := num 6 a.reg, ca := BitVec.ofBool a.chained, fn := 4 })
  | .vaddi ty m d a imm => some (.fi { maj := 0x2C, ty := ty.code, m := num 3 m, d := num 6 d, a := num 6 a.reg, ca := BitVec.ofBool a.chained, imm := imm })
  | .vmuli ty m d a imm => some (.fi { maj := 0x2C, ty := ty.code, m := num 3 m, d := num 6 d, a := num 6 a.reg, ca := BitVec.ofBool a.chained, imm := imm, fn := 1 })
  | .vmini ty m d a imm => some (.fi { maj := 0x2C, ty := ty.code, m := num 3 m, d := num 6 d, a := num 6 a.reg, ca := BitVec.ofBool a.chained, imm := imm, fn := 2 })
  | .vmaxi ty m d a imm => some (.fi { maj := 0x2C, ty := ty.code, m := num 3 m, d := num 6 d, a := num 6 a.reg, ca := BitVec.ofBool a.chained, imm := imm, fn := 3 })
  | .vandi ty m d a imm => some (.fi { maj := 0x2C, ty := ty.code, m := num 3 m, d := num 6 d, a := num 6 a.reg, ca := BitVec.ofBool a.chained, imm := imm, fn := 4 })
  | .vori ty m d a imm => some (.fi { maj := 0x2C, ty := ty.code, m := num 3 m, d := num 6 d, a := num 6 a.reg, ca := BitVec.ofBool a.chained, imm := imm, fn := 5 })
  | .vxori ty m d a imm => some (.fi { maj := 0x2C, ty := ty.code, m := num 3 m, d := num 6 d, a := num 6 a.reg, ca := BitVec.ofBool a.chained, imm := imm, fn := 6 })
  | .vslli ty m d a n => some (.fi { maj := 0x2C, ty := ty.code, m := num 3 m, d := num 6 d, a := num 6 a.reg, ca := BitVec.ofBool a.chained, fn := 7, imm := 0#11 ++ n })
  | .vsrli ty m d a n => some (.fi { maj := 0x2C, ty := ty.code, m := num 3 m, d := num 6 d, a := num 6 a.reg, ca := BitVec.ofBool a.chained, fn := 8, imm := 0#11 ++ n })
  | .vsrai ty m d a n => some (.fi { maj := 0x2C, ty := ty.code, m := num 3 m, d := num 6 d, a := num 6 a.reg, ca := BitVec.ofBool a.chained, fn := 9, imm := 0#11 ++ n })
  | .vcmpi rel ty m d a imm => some (.fi { maj := 0x2C, fn := 10 + rel.code.setWidth 8, ty := ty.code, m := num 3 m, d := num 6 d, a := num 6 a.reg, ca := BitVec.ofBool a.chained, imm := imm })
  | .vcmp rel ty m d a b => some (.fr { maj := 0x22, fn := rel.code.setWidth 9, ty := ty.code, m := num 3 m, d := num 6 d, a := num 6 a.reg, ca := BitVec.ofBool a.chained, b := num 6 b.reg, cb := BitVec.ofBool b.chained })
  | .vsel ty d a b c => some (.fr { maj := 0x23, ty := ty.code, d := num 6 d, a := num 6 a.reg, ca := BitVec.ofBool a.chained, b := num 6 b.reg, cb := BitVec.ofBool b.chained, c := num 6 c })
  | .vbcast ty m d a => some (.fr { maj := 0x23, ty := ty.code, m := num 3 m, d := num 6 d, a := num 6 a, fn := 1 })
  | .vtag d a tag span => some (.fr { maj := 0x23, d := num 6 d, a := num 6 a.reg, ca := BitVec.ofBool a.chained, fn := 2, aux := 0#3 ++ span ++ tag.code })
  | .vidx ty m d start step => some (.fx { maj := 0x39, fn := ty.code.setWidth 6, m := num 3 m, d := num 6 d, imma := start, immb := step })
  | .vaddF ty m d a b mode => some (.fr { maj := 0x30, ty := ty.code, m := num 3 m, d := num 6 d, a := num 6 a.reg, ca := BitVec.ofBool a.chained, b := num 6 b.reg, cb := BitVec.ofBool b.chained, aux := 0#8 ++ mode.code })
  | .vsubF ty m d a b mode => some (.fr { maj := 0x30, ty := ty.code, m := num 3 m, d := num 6 d, a := num 6 a.reg, ca := BitVec.ofBool a.chained, b := num 6 b.reg, cb := BitVec.ofBool b.chained, fn := 1, aux := 0#8 ++ mode.code })
  | .vmulF ty m d a b mode => some (.fr { maj := 0x30, ty := ty.code, m := num 3 m, d := num 6 d, a := num 6 a.reg, ca := BitVec.ofBool a.chained, b := num 6 b.reg, cb := BitVec.ofBool b.chained, fn := 2, aux := 0#8 ++ mode.code })
  | .vdivF ty m d a b mode => some (.fr { maj := 0x30, ty := ty.code, m := num 3 m, d := num 6 d, a := num 6 a.reg, ca := BitVec.ofBool a.chained, b := num 6 b.reg, cb := BitVec.ofBool b.chained, fn := 3, aux := 0#8 ++ mode.code })
  | .vsqrt ty m d a mode => some (.fr { maj := 0x30, ty := ty.code, m := num 3 m, d := num 6 d, a := num 6 a.reg, ca := BitVec.ofBool a.chained, fn := 4, aux := 0#8 ++ mode.code })
  | .vminF ty m d a b mode => some (.fr { maj := 0x30, ty := ty.code, m := num 3 m, d := num 6 d, a := num 6 a.reg, ca := BitVec.ofBool a.chained, b := num 6 b.reg, cb := BitVec.ofBool b.chained, fn := 5, aux := 0#8 ++ mode.code })
  | .vmaxF ty m d a b mode => some (.fr { maj := 0x30, ty := ty.code, m := num 3 m, d := num 6 d, a := num 6 a.reg, ca := BitVec.ofBool a.chained, b := num 6 b.reg, cb := BitVec.ofBool b.chained, fn := 6, aux := 0#8 ++ mode.code })
  | .vnegF ty m d a mode => some (.fr { maj := 0x30, ty := ty.code, m := num 3 m, d := num 6 d, a := num 6 a.reg, ca := BitVec.ofBool a.chained, fn := 7, aux := 0#8 ++ mode.code })
  | .vabsF ty m d a mode => some (.fr { maj := 0x30, ty := ty.code, m := num 3 m, d := num 6 d, a := num 6 a.reg, ca := BitVec.ofBool a.chained, fn := 8, aux := 0#8 ++ mode.code })
  | .vfma ty m d a b c mode => some (.fr { maj := 0x30, ty := ty.code, m := num 3 m, d := num 6 d, a := num 6 a.reg, ca := BitVec.ofBool a.chained, b := num 6 b.reg, cb := BitVec.ofBool b.chained, c := num 6 c.reg, cc := BitVec.ofBool c.chained, fn := 9, aux := 0#8 ++ mode.code })
  | .vfmaw u m d a b mode => some (.fr { maj := 0x30, m := num 3 m, d := num 6 d, a := num 6 a.reg, ca := BitVec.ofBool a.chained, b := num 6 b.reg, cb := BitVec.ofBool b.chained, ty := 10, fn := 10, aux := 0#3 ++ u.code ++ mode.code })
  | .vaddiF ty m d a imm => some (.fi { maj := 0x3A, ty := ty.code, m := num 3 m, d := num 6 d, a := num 6 a.reg, ca := BitVec.ofBool a.chained, imm := imm })
  | .vmuliF ty m d a imm => some (.fi { maj := 0x3A, ty := ty.code, m := num 3 m, d := num 6 d, a := num 6 a.reg, ca := BitVec.ofBool a.chained, imm := imm, fn := 1 })
  | .vminiF ty m d a imm => some (.fi { maj := 0x3A, ty := ty.code, m := num 3 m, d := num 6 d, a := num 6 a.reg, ca := BitVec.ofBool a.chained, imm := imm, fn := 2 })
  | .vmaxiF ty m d a imm => some (.fi { maj := 0x3A, ty := ty.code, m := num 3 m, d := num 6 d, a := num 6 a.reg, ca := BitVec.ofBool a.chained, imm := imm, fn := 3 })
  | .vcvt ty u m d a mode => some (.fr { maj := 0x31, ty := ty.code, m := num 3 m, d := num 6 d, a := num 6 a.reg, ca := BitVec.ofBool a.chained, aux := 0#3 ++ u.code ++ mode.code })
  | .vqnt u kind d a => some (.fr { maj := 0x31, d := num 6 d, a := num 6 a.reg, ca := BitVec.ofBool a.chained, ty := 14, fn := 1, aux := kind.code ++ u.code ++ 0#3 })
  | .vdqnt ty m d a mode => some (.fr { maj := 0x31, ty := ty.code, m := num 3 m, d := num 6 d, a := num 6 a.reg, ca := BitVec.ofBool a.chained, fn := 2, aux := 0#8 ++ mode.code })
  | .vbfly ty d a j nw mode => some (.fr { maj := 0x31, ty := ty.code, d := num 6 d, a := num 6 a.reg, ca := BitVec.ofBool a.chained, fn := 3, aux := 0#3 ++ (BitVec.ofBool nw) ++ j ++ mode.code })
  | .vrnd m d a b => some (.fr { maj := 0x31, m := num 3 m, d := num 6 d, a := num 6 a, b := num 6 b, ty := 5, fn := 4 })
  | .vredsum ty m d a b => some (.fr { maj := 0x3C, ty := ty.code, m := num 3 m, d := num 6 d, a := num 6 a.reg, ca := BitVec.ofBool a.chained, b := num 6 b })
  | .vredmin ty m d a b => some (.fr { maj := 0x3C, ty := ty.code, m := num 3 m, d := num 6 d, a := num 6 a.reg, ca := BitVec.ofBool a.chained, b := num 6 b, fn := 1 })
  | .vredmax ty m d a b => some (.fr { maj := 0x3C, ty := ty.code, m := num 3 m, d := num 6 d, a := num 6 a.reg, ca := BitVec.ofBool a.chained, b := num 6 b, fn := 2 })
  | .vredand ty m d a b => some (.fr { maj := 0x3C, ty := ty.code, m := num 3 m, d := num 6 d, a := num 6 a.reg, ca := BitVec.ofBool a.chained, b := num 6 b, fn := 3 })
  | .vredor ty m d a b => some (.fr { maj := 0x3C, ty := ty.code, m := num 3 m, d := num 6 d, a := num 6 a.reg, ca := BitVec.ofBool a.chained, b := num 6 b, fn := 4 })
  | .vredxor ty m d a b => some (.fr { maj := 0x3C, ty := ty.code, m := num 3 m, d := num 6 d, a := num 6 a.reg, ca := BitVec.ofBool a.chained, b := num 6 b, fn := 5 })
  | .vscansum ty m d a c ex => some (.fr { maj := 0x3D, ty := ty.code, m := num 3 m, d := num 6 d, a := num 6 a.reg, ca := BitVec.ofBool a.chained, c := num 6 c, aux := 0#7 ++ (BitVec.ofBool ex) ++ 0#3 })
  | .vscanmin ty m d a c ex => some (.fr { maj := 0x3D, ty := ty.code, m := num 3 m, d := num 6 d, a := num 6 a.reg, ca := BitVec.ofBool a.chained, c := num 6 c, fn := 1, aux := 0#7 ++ (BitVec.ofBool ex) ++ 0#3 })
  | .vscanmax ty m d a c ex => some (.fr { maj := 0x3D, ty := ty.code, m := num 3 m, d := num 6 d, a := num 6 a.reg, ca := BitVec.ofBool a.chained, c := num 6 c, fn := 2, aux := 0#7 ++ (BitVec.ofBool ex) ++ 0#3 })
  | .vsegsum ty m d a c => some (.fr { maj := 0x3D, ty := ty.code, m := num 3 m, d := num 6 d, a := num 6 a.reg, ca := BitVec.ofBool a.chained, c := num 6 c, fn := 4 })
  | .vsegmin ty m d a c => some (.fr { maj := 0x3D, ty := ty.code, m := num 3 m, d := num 6 d, a := num 6 a.reg, ca := BitVec.ofBool a.chained, c := num 6 c, fn := 5 })
  | .vsegmax ty m d a c => some (.fr { maj := 0x3D, ty := ty.code, m := num 3 m, d := num 6 d, a := num 6 a.reg, ca := BitVec.ofBool a.chained, c := num 6 c, fn := 6 })
  | .vslideup ty m d a b => some (.fr { maj := 0x3E, ty := ty.code, m := num 3 m, d := num 6 d, a := num 6 a.reg, ca := BitVec.ofBool a.chained, b := num 6 b })
  | .vslidedn ty m d a b => some (.fr { maj := 0x3E, ty := ty.code, m := num 3 m, d := num 6 d, a := num 6 a.reg, ca := BitVec.ofBool a.chained, b := num 6 b, fn := 1 })
  | .vrot ty m d a b => some (.fr { maj := 0x3E, ty := ty.code, m := num 3 m, d := num 6 d, a := num 6 a.reg, ca := BitVec.ofBool a.chained, b := num 6 b, fn := 2 })
  | .vperm ty m d a b => some (.fr { maj := 0x3E, ty := ty.code, m := num 3 m, d := num 6 d, a := num 6 a.reg, ca := BitVec.ofBool a.chained, b := num 6 b.reg, cb := BitVec.ofBool b.chained, fn := 3 })
  | .vcompress ty d a c => some (.fr { maj := 0x3E, ty := ty.code, d := num 6 d, a := num 6 a.reg, ca := BitVec.ofBool a.chained, c := num 6 c, fn := 4 })
  | .vexpand ty d a c => some (.fr { maj := 0x3E, ty := ty.code, d := num 6 d, a := num 6 a.reg, ca := BitVec.ofBool a.chained, c := num 6 c, fn := 5 })
  | .vxch ty d a b c => some (.fr { maj := 0x3F, ty := ty.code, d := num 6 d, a := num 6 a.reg, ca := BitVec.ofBool a.chained, b := num 6 b, c := num 6 c })
  | .mand d a b => some (.fr { maj := 0x40, d := num 6 d, a := num 6 a, b := num 6 b })
  | .mor d a b => some (.fr { maj := 0x40, d := num 6 d, a := num 6 a, b := num 6 b, fn := 1 })
  | .mxor d a b => some (.fr { maj := 0x40, d := num 6 d, a := num 6 a, b := num 6 b, fn := 2 })
  | .mandn d a b => some (.fr { maj := 0x40, d := num 6 d, a := num 6 a, b := num 6 b, fn := 3 })
  | .mnot d a => some (.fr { maj := 0x40, d := num 6 d, a := num 6 a, fn := 4 })
  | .mset d => some (.fr { maj := 0x40, d := num 6 d, fn := 5 })
  | .mpopc d a => some (.fr { maj := 0x40, d := num 6 d, a := num 6 a, fn := 6 })
  | .mfirst d a => some (.fr { maj := 0x40, d := num 6 d, a := num 6 a, fn := 7 })
  | .ld ty sp d a off => some (.fi { maj := 0x44, ty := ty.code, d := num 6 d, a := num 6 a, imm := off, aux3 := 0#1 ++ sp.code })
  | .st ty sp v a off => some (.fi { maj := 0x44, ty := ty.code, d := num 6 v, a := num 6 a, imm := off, fn := 1, aux3 := 0#1 ++ sp.code })
  | .vld ty sp m d a b off => some (.fi { maj := 0x45, ty := ty.code, m := num 3 m, d := num 6 d, a := num 6 a, b := num 6 b, imm := off, aux3 := 0#1 ++ sp.code })
  | .vst ty sp m v a b off => some (.fi { maj := 0x45, ty := ty.code, m := num 3 m, d := num 6 v, a := num 6 a, b := num 6 b, imm := off, fn := 1, aux3 := 0#1 ++ sp.code })
  | .vlds ty sp m d a b off => some (.fi { maj := 0x46, ty := ty.code, m := num 3 m, d := num 6 d, a := num 6 a, b := num 6 b, imm := off, aux3 := 0#1 ++ sp.code })
  | .vsts ty sp m v a b off => some (.fi { maj := 0x46, ty := ty.code, m := num 3 m, d := num 6 v, a := num 6 a, b := num 6 b, imm := off, fn := 1, aux3 := 0#1 ++ sp.code })
  | .vldx ty sp m d a b off sc => some (.fi { maj := 0x47, ty := ty.code, m := num 3 m, d := num 6 d, a := num 6 a, b := num 6 b.reg, cb := BitVec.ofBool b.chained, imm := off, aux3 := (BitVec.ofBool sc) ++ sp.code })
  | .vstx ty sp m v a b off sc => some (.fi { maj := 0x47, ty := ty.code, m := num 3 m, d := num 6 v, a := num 6 a, b := num 6 b.reg, cb := BitVec.ofBool b.chained, imm := off, fn := 1, aux3 := (BitVec.ofBool sc) ++ sp.code })
  | .vldseg ty u sp m d a n1 mode => some (.fi { maj := 0x48, ty := ty.code, m := num 3 m, d := num 6 d, a := num 6 a, imm := 0#5 ++ mode.code ++ n1 ++ u.code, aux3 := 0#1 ++ sp.code })
  | .vstseg ty u sp m v a n1 mode => some (.fi { maj := 0x48, ty := ty.code, m := num 3 m, d := num 6 v, a := num 6 a, fn := 1, imm := 0#5 ++ mode.code ++ n1 ++ u.code, aux3 := 0#1 ++ sp.code })
  | .amoadd ty ord scope d a b => some (.fr { maj := 0x50, ty := ty.code, d := num 6 d, a := num 6 a, b := num 6 b, aux := 0#4 ++ scope.code ++ ord.code ++ 0#2 })
  | .amomin ty ord scope d a b => some (.fr { maj := 0x50, ty := ty.code, d := num 6 d, a := num 6 a, b := num 6 b, fn := 1, aux := 0#4 ++ scope.code ++ ord.code ++ 0#2 })
  | .amomax ty ord scope d a b => some (.fr { maj := 0x50, ty := ty.code, d := num 6 d, a := num 6 a, b := num 6 b, fn := 2, aux := 0#4 ++ scope.code ++ ord.code ++ 0#2 })
  | .amoand ty ord scope d a b => some (.fr { maj := 0x50, ty := ty.code, d := num 6 d, a := num 6 a, b := num 6 b, fn := 3, aux := 0#4 ++ scope.code ++ ord.code ++ 0#2 })
  | .amoor ty ord scope d a b => some (.fr { maj := 0x50, ty := ty.code, d := num 6 d, a := num 6 a, b := num 6 b, fn := 4, aux := 0#4 ++ scope.code ++ ord.code ++ 0#2 })
  | .amoxor ty ord scope d a b => some (.fr { maj := 0x50, ty := ty.code, d := num 6 d, a := num 6 a, b := num 6 b, fn := 5, aux := 0#4 ++ scope.code ++ ord.code ++ 0#2 })
  | .amoswap ty ord scope d a b => some (.fr { maj := 0x50, ty := ty.code, d := num 6 d, a := num 6 a, b := num 6 b, fn := 6, aux := 0#4 ++ scope.code ++ ord.code ++ 0#2 })
  | .amocas ty ord scope d a b c => some (.fr { maj := 0x50, ty := ty.code, d := num 6 d, a := num 6 a, b := num 6 b, c := num 6 c, fn := 7, aux := 0#4 ++ scope.code ++ ord.code ++ 0#2 })
  | .amofadd ord scope d a b => some (.fr { maj := 0x50, d := num 6 d, a := num 6 a, b := num 6 b, ty := 10, fn := 8, aux := 0#4 ++ scope.code ++ ord.code ++ 0#2 })
  | .vredm op ty scope m a b c => some (.fr { maj := 0x51, fn := op.code.setWidth 9, ty := ty.code, m := num 3 m, a := num 6 a, b := num 6 b.reg, cb := BitVec.ofBool b.chained, c := num 6 c.reg, cc := BitVec.ofBool c.chained, aux := 0#4 ++ scope.code ++ 0#4 })
  | .fence scope => some (.fr { maj := 0x58, aux := 0#8 ++ scope.code })
  | .vdrain => some (.fr { maj := 0x58, fn := 1 })
  | .vdrainl => some (.fr { maj := 0x58, fn := 2 })
  | .vdrains => some (.fr { maj := 0x58, fn := 3 })
  | .waitArr d a b => some (.fr { maj := 0x59, d := num 6 d, a := num 6 a, b := num 6 b, aux := 0#10 ++ 1#1 })
  | .waitW sp d a b => some (.fr { maj := 0x59, d := num 6 d, a := num 6 a, b := num 6 b, fn := 1, aux := 0#9 ++ sp.code })
  | .waitWatch d => some (.fr { maj := 0x59, d := num 6 d, fn := 2 })
  | .vwatch m d a b => some (.fr { maj := 0x59, m := num 3 m, d := num 6 d, a := num 6 a, b := num 6 b.reg, cb := BitVec.ofBool b.chained, fn := 3 })
  | .gsync d a => some (.fr { maj := 0x5A, d := num 6 d, a := num 6 a })
  | .gsyncW d a => some (.fr { maj := 0x5A, d := num 6 d, a := num 6 a, fn := 1 })
  | .hinit scope d a => some (.fr { maj := 0x5B, d := num 6 d, a := num 6 a, aux := 0#3 ++ scope.code ++ 0#5 })
  | .hpush scope d a b => some (.fr { maj := 0x5B, d := num 6 d, a := num 6 a, b := num 6 b, fn := 1, aux := 0#3 ++ scope.code ++ 0#5 })
  | .hpop scope d a => some (.fr { maj := 0x5B, d := num 6 d, a := num 6 a, fn := 2, aux := 0#3 ++ scope.code ++ 0#5 })
  | .hstat scope d a => some (.fr { maj := 0x5B, d := num 6 d, a := num 6 a, fn := 3, aux := 0#3 ++ scope.code ++ 0#5 })
  | .hpushVp scope d a b => some (.fr { maj := 0x5B, d := num 6 d, a := num 6 a, b := num 6 b, fn := 1, aux := 0#3 ++ scope.code ++ 0#1 ++ 1#1 ++ 0#3 })
  | .hpopVp scope d a => some (.fr { maj := 0x5B, d := num 6 d, a := num 6 a, fn := 2, aux := 0#3 ++ scope.code ++ 0#1 ++ 1#1 ++ 0#3 })
  | .wmpub k a => some (.fr { maj := 0x5C, a := num 6 a, aux := 0#8 ++ (num 3 k) })
  | .aarm d a b => some (.fr { maj := 0x5C, d := num 6 d, a := num 6 a, b := num 6 b, fn := 1, aux := 0#10 ++ 1#1 })
  | .msetdl mode a => some (.fr { maj := 0x60, a := num 6 a, aux := 0#9 ++ mode.code })
  | .dlda sp h a b c => some (.fr { maj := 0x60, a := num 6 a, b := num 6 b, c := num 6 c, fn := 1, aux := 0#8 ++ (BitVec.ofBool h) ++ sp.code })
  | .dldb sp h a b c => some (.fr { maj := 0x60, a := num 6 a, b := num 6 b, c := num 6 c, fn := 2, aux := 0#8 ++ (BitVec.ofBool h) ++ sp.code })
  | .dhold ha hb wa wb => some (.fr { maj := 0x60, fn := 3, aux := 0#7 ++ (BitVec.ofBool wb) ++ (BitVec.ofBool wa) ++ (BitVec.ofBool hb) ++ (BitVec.ofBool ha) })
  | .dzero k c => some (.fr { maj := 0x60, c := num 6 c, fn := 4, aux := 0#2 ++ (num 9 k) })
  | .dsetfill a => some (.fr { maj := 0x60, a := num 6 a, fn := 5 })
  | .dbudget a => some (.fr { maj := 0x60, a := num 6 a, fn := 6, aux := 0#10 ++ 1#1 })
  | .dmeta sp a b c => some (.fr { maj := 0x60, a := num 6 a, b := num 6 b, c := num 6 c, fn := 7, aux := 0#9 ++ sp.code })
  | .dmovV ty d k row c => some (.fr { maj := 0x60, ty := ty.code, d := num 6 d, c := num 6 c, fn := 8, aux := 0#1 ++ (BitVec.ofBool row) ++ (num 9 k) })
  | .dmovA m k a => some (.fr { maj := 0x60, m := num 3 m, a := num 6 a.reg, ca := BitVec.ofBool a.chained, fn := 9, aux := 0#2 ++ (num 9 k) })
  | .dcvt ty uf d k row c => some (.fr { maj := 0x60, ty := ty.code, d := num 6 d, c := num 6 c, fn := 10, aux := (BitVec.ofBool uf) ++ (BitVec.ofBool row) ++ (num 9 k) })
  | .dmacV ty k a b c => some (.fr { maj := 0x61, ty := ty.code, a := num 6 a.reg, ca := BitVec.ofBool a.chained, b := num 6 b.reg, cb := BitVec.ofBool b.chained, c := num 6 c, aux := 0#2 ++ (num 9 k) })
  | .dmacL ty k c => some (.fr { maj := 0x61, ty := ty.code, c := num 6 c, fn := 1, aux := 0#2 ++ (num 9 k) })
  | .dmacTriV ty k a b c => some (.fr { maj := 0x61, ty := ty.code, a := num 6 a.reg, ca := BitVec.ofBool a.chained, b := num 6 b.reg, cb := BitVec.ofBool b.chained, c := num 6 c, fn := 2, aux := 0#2 ++ (num 9 k) })
  | .dmacTriL ty k c => some (.fr { maj := 0x61, ty := ty.code, c := num 6 c, fn := 3, aux := 0#2 ++ (num 9 k) })
  | .dmacs ty k c => some (.fr { maj := 0x61, ty := ty.code, c := num 6 c, fn := 4, aux := 0#2 ++ (num 9 k) })
  | .dsweep ty k tri sp c => some (.fr { maj := 0x61, ty := ty.code, c := num 6 c, fn := 5, aux := (BitVec.ofBool sp) ++ (BitVec.ofBool tri) ++ (num 9 k) })
  | .dmacVI ty k a b p q => some (.fx { maj := 0x64, fn := 0#2 ++ ty.code4, d := num 6 a.reg, ca := BitVec.ofBool a.chained, b := num 6 b.reg, cb := BitVec.ofBool b.chained, imma := (num 9 k) ++ 0#7, immb := p ++ q })
  | .dmacLI ty k p q => some (.fx { maj := 0x64, fn := 1#2 ++ ty.code4, imma := (num 9 k) ++ 0#7, immb := p ++ q })
  | .dmacsI ty k mo p q => some (.fx { maj := 0x64, fn := 2#2 ++ ty.code4, imma := (num 9 k) ++ mo, immb := p ++ q })
  | .dmovi ty k n1 imm => some (.fx { maj := 0x64, fn := 3#2 ++ ty.code4, immb := imm, imma := (num 9 k) ++ n1 })
  | .sopenAff ty sp s a b c => some (.fr { maj := 0x68, ty := ty.code, d := num 6 s, a := num 6 a, b := num 6 b, c := num 6 c, aux := 0#9 ++ sp.code })
  | .sopenInd ty vsp isp iw16 s a b c => some (.fr { maj := 0x68, ty := ty.code, d := num 6 s, a := num 6 a, b := num 6 b, c := num 6 c, fn := 1, aux := 0#6 ++ (BitVec.ofBool iw16) ++ isp.code ++ vsp.code })
  | .sopenFib ty isp vsp enc s a b c => some (.fr { maj := 0x68, ty := ty.code, d := num 6 s, a := num 6 a, b := num 6 b, c := num 6 c, fn := 2, aux := 0#4 ++ enc.code ++ vsp.code ++ isp.code })
  | .snext d ve s b => some (.fr { maj := 0x68, d := num 6 d, c := match ve with | some r => num 6 r | none => 0, a := num 6 s, b := num 6 b, fn := 3, aux := 0#10 ++ (BitVec.ofBool ve.isSome) })
  | .sdone d md s => some (.fr { maj := 0x68, d := num 6 d, b := num 6 md, a := num 6 s, fn := 4 })
  | .sseek coord s b => some (.fr { maj := 0x68, a := num 6 s, b := num 6 b, fn := 5, aux := 0#10 ++ (BitVec.ofBool coord) })
  | .sclose s => some (.fr { maj := 0x68, a := num 6 s, fn := 6 })
  | .cxopen union tol sj sk => some (.fr { maj := 0x69, a := num 6 sj, b := num 6 sk, aux := 0#9 ++ (BitVec.ofBool tol) ++ (BitVec.ofBool union) })
  | .cxnext d vc va vb => some (.fr { maj := 0x69, d := num 6 d, a := num 6 vc, b := num 6 va, c := num 6 vb, fn := 1 })
  | .cxsplit a => some (.fr { maj := 0x69, a := num 6 a, fn := 2 })
  | .cxclaim scope d a => some (.fr { maj := 0x69, d := num 6 d, a := num 6 a, fn := 3, aux := 0#4 ++ scope.code ++ 0#4 })
  | .cxstat d sel => some (.fr { maj := 0x69, d := num 6 d, fn := 4, aux := 0#8 ++ sel })
  | .cxsave sp a => some (.fr { maj := 0x69, a := num 6 a, fn := 5, aux := 0#9 ++ sp.code })
  | .cxload sp a => some (.fr { maj := 0x69, a := num 6 a, fn := 6, aux := 0#9 ++ sp.code })
  | .cpset k reg sp a => some (.fr { maj := 0x70, a := num 6 a, aux := sp.code ++ (num 4 k) ++ reg })
  | .cpget d k reg => some (.fr { maj := 0x70, d := num 6 d, fn := 1, aux := 0#2 ++ (num 4 k) ++ reg })
  | .cplaunch d k => some (.fr { maj := 0x70, d := num 6 d, fn := 2, aux := 0#2 ++ (num 4 k) ++ 0#5 })
  | .cpwait d a => some (.fr { maj := 0x70, d := num 6 d, a := num 6 a, fn := 3 })
  | .cpwm d k a => some (.fr { maj := 0x70, d := num 6 d, a := num 6 a, fn := 4, aux := 0#2 ++ (num 4 k) ++ 0#5 })
  | .cpcancel k => some (.fr { maj := 0x70, fn := 5, aux := 0#2 ++ (num 4 k) ++ 0#5 })
  | .cparm d k a b => some (.fr { maj := 0x70, d := num 6 d, a := num 6 a, b := num 6 b, fn := 6, aux := 0#1 ++ 1#1 ++ (num 4 k) ++ 0#5 })
  | .cpexport d a b => some (.fr { maj := 0x71, d := num 6 d, a := num 6 a, b := num 6 b })
  | .tret => some (.fr { maj := 0x76 })
  | .tlbinv kind g a b => some (.fr { maj := 0x76, a := num 6 a, b := num 6 b, fn := 1, aux := 0#8 ++ (BitVec.ofBool g) ++ kind.code })
  | .ctxsave d a b => some (.fr { maj := 0x76, d := num 6 d, a := num 6 a, b := num 6 b, fn := 2 })
  | .ctxload a => some (.fr { maj := 0x76, a := num 6 a, fn := 3 })
  | .dspill k a => some (.fr { maj := 0x76, a := num 6 a, fn := 4, aux := 0#2 ++ (num 9 k) })
  | .dfill k a => some (.fr { maj := 0x76, a := num 6 a, fn := 5, aux := 0#2 ++ (num 9 k) })
  | .wbtag d => some (.fr { maj := 0x76, d := num 6 d, fn := 6 })
  | .wbtagSet d a => some (.fr { maj := 0x76, d := num 6 d, a := num 6 a, fn := 6, aux := 0#10 ++ 1#1 })
  | .idle => some (.fr { maj := 0x76, fn := 7 })
  | .pmode a => some (.fr { maj := 0x76, a := num 6 a, fn := 8 })
  | .qpost d a b => some (.fr { maj := 0x76, d := num 6 d, a := num 6 a, b := num 6 b, fn := 9 })
  | .errlog a b => some (.fr { maj := 0x76, a := num 6 a, b := num 6 b, fn := 10 })
  | .dutyset d a => some (.fr { maj := 0x76, d := num 6 d, a := num 6 a, fn := 11 })
  | .hint odd bits => some (.hint odd bits)
  | .convoyCommit => none
  | .elementGroupOperation _ => none
  | .trapEntry _ _ => none
  | .vpTrap => none
  | .preempt => none
  | .resume => none
  | .spill => none
  | .kill => none
  | .mailbox => none
  | .aibBegin _ => none
  | .aibComplete _ => none
  | .waitComplete => none
  | .waitWPoll => none
  | .hamperHomeOp _ => none
  | .pairMatch _ => none
  | .pairWindowExpiry _ => none
  | .pageWalk _ _ => none
  | .translationServer _ _ => none
  | .copyElement _ => none
  | .spillReplay _ => none
  | .transferComplete _ => none
  | .dmetaWrite => none
  | .slotTake _ => none
  | .slotReread _ => none
  | .starvation _ => none
  | .dispatch _ => none
  | .preemptionComplete _ => none
  | .preloadFault _ => none
  | .launchComplete _ => none
  | .replayStart _ => none
  | .doorbellTail _ _ => none
  | .ring _ => none
  | .alert _ => none
  | .dispatchCommand _ => none
  | .preemptCommand _ => none
  | .answer _ => none
  | .replay _ => none
  | .proceed _ => none
  | .verdict _ => none
  | .hostWindowWrite _ _ => none
  | .hostWindowRead _ _ => none
  | .registerWrite _ _ _ => none
  | .flitCrcRetry _ => none
  | .portDown _ => none
  | .remoteElementApply _ _ => none
  | .remoteAcknowledge _ => none
  | .deviceReset => none
  | .imageVerify => none
  | .sgo => none
  | .ago => none
  | .plimit _ => none
  | .throttleAdjust _ => none
  | .overTemperature _ => none
  | .storageError _ _ => none
  | .lastingCoreFault _ => none
  | .writeQueueExecution _ => none
  | .sliceAcknowledgement _ => none
  | .eread _ _ => none
  | .portRetrain _ => none

/-- MAJ 0x00. -/
def cand00 (f : FR) : Option Instr :=
  match f.fn.toNat with
  | 0 => some (.add (Ty.ofCode f.ty) (unnum 64 (f.d)) (unnum 64 (f.a)) (unnum 64 (f.b)))
  | 1 => some (.sub (Ty.ofCode f.ty) (unnum 64 (f.d)) (unnum 64 (f.a)) (unnum 64 (f.b)))
  | 2 => some (.and (Ty.ofCode f.ty) (unnum 64 (f.d)) (unnum 64 (f.a)) (unnum 64 (f.b)))
  | 3 => some (.or (Ty.ofCode f.ty) (unnum 64 (f.d)) (unnum 64 (f.a)) (unnum 64 (f.b)))
  | 4 => some (.xor (Ty.ofCode f.ty) (unnum 64 (f.d)) (unnum 64 (f.a)) (unnum 64 (f.b)))
  | 5 => some (.sll (Ty.ofCode f.ty) (unnum 64 (f.d)) (unnum 64 (f.a)) (unnum 64 (f.b)))
  | 6 => some (.srl (Ty.ofCode f.ty) (unnum 64 (f.d)) (unnum 64 (f.a)) (unnum 64 (f.b)))
  | 7 => some (.sra (Ty.ofCode f.ty) (unnum 64 (f.d)) (unnum 64 (f.a)) (unnum 64 (f.b)))
  | 8 => some (.slt (Ty.ofCode f.ty) (unnum 64 (f.d)) (unnum 64 (f.a)) (unnum 64 (f.b)))
  | 9 => some (.min (Ty.ofCode f.ty) (unnum 64 (f.d)) (unnum 64 (f.a)) (unnum 64 (f.b)))
  | 10 => some (.max (Ty.ofCode f.ty) (unnum 64 (f.d)) (unnum 64 (f.a)) (unnum 64 (f.b)))
  | 11 => some (.csel (Ty.ofCode f.ty) (unnum 64 (f.d)) (unnum 64 (f.a)) (unnum 64 (f.b)) (unnum 64 (f.c)))
  | 12 => some (.addsl (Ty.ofCode f.ty) (unnum 64 (f.d)) (unnum 64 (f.a)) (unnum 64 (f.b)) (f.aux.extractLsb' 0 3))
  | _ => none

/-- MAJ 0x01. -/
def cand01 (f : FR) : Option Instr :=
  match f.fn.toNat with
  | 0 => some (.mul (Ty.ofCode f.ty) (unnum 64 (f.d)) (unnum 64 (f.a)) (unnum 64 (f.b)))
  | 1 => some (.mulh (Ty.ofCode f.ty) (unnum 64 (f.d)) (unnum 64 (f.a)) (unnum 64 (f.b)))
  | 2 => some (.div (Ty.ofCode f.ty) (unnum 64 (f.d)) (unnum 64 (f.a)) (unnum 64 (f.b)))
  | 3 => some (.rem (Ty.ofCode f.ty) (unnum 64 (f.d)) (unnum 64 (f.a)) (unnum 64 (f.b)))
  | _ => none

/-- MAJ 0x02. -/
def cand02 (f : FR) : Option Instr :=
  match f.fn.toNat with
  | 0 => some (.clz (Ty.ofCode f.ty) (unnum 64 (f.d)) (unnum 64 (f.a)))
  | 1 => some (.ctz (Ty.ofCode f.ty) (unnum 64 (f.d)) (unnum 64 (f.a)))
  | 2 => some (.popc (Ty.ofCode f.ty) (unnum 64 (f.d)) (unnum 64 (f.a)))
  | 3 => some (.ext (Ty.ofCode f.ty) (unnum 64 (f.d)) (unnum 64 (f.a)))
  | _ => none

/-- MAJ 0x08. -/
def cand08 (f : FI) : Option Instr :=
  match f.fn.toNat with
  | 0 => some (.addi (Ty.ofCode f.ty) (unnum 64 (f.d)) (unnum 64 (f.a)) (f.imm))
  | 1 => some (.andi (Ty.ofCode f.ty) (unnum 64 (f.d)) (unnum 64 (f.a)) (f.imm))
  | 2 => some (.ori (Ty.ofCode f.ty) (unnum 64 (f.d)) (unnum 64 (f.a)) (f.imm))
  | 3 => some (.xori (Ty.ofCode f.ty) (unnum 64 (f.d)) (unnum 64 (f.a)) (f.imm))
  | 4 => some (.slli (Ty.ofCode f.ty) (unnum 64 (f.d)) (unnum 64 (f.a)) (f.imm.extractLsb' 0 6))
  | 5 => some (.srli (Ty.ofCode f.ty) (unnum 64 (f.d)) (unnum 64 (f.a)) (f.imm.extractLsb' 0 6))
  | 6 => some (.srai (Ty.ofCode f.ty) (unnum 64 (f.d)) (unnum 64 (f.a)) (f.imm.extractLsb' 0 6))
  | 7 => some (.slti (Ty.ofCode f.ty) (unnum 64 (f.d)) (unnum 64 (f.a)) (f.imm))
  | 8 => some (.muli (Ty.ofCode f.ty) (unnum 64 (f.d)) (unnum 64 (f.a)) (f.imm))
  | _ => none

/-- MAJ 0x0E. -/
def cand0E (f : FX) : Option Instr :=
  match f.fn.toNat with
  | 0 => some (.lim (unnum 64 (f.d)) (f.imma ++ f.immb))
  | 1 => some (.lih (unnum 64 (f.d)) (f.imma ++ f.immb))
  | 2 => some (.addpc (unnum 64 (f.d)) (f.imma ++ f.immb))
  | _ => none

/-- MAJ 0x10. -/
def cand10 (f : FR) : Option Instr :=
  match f.fn.toNat with
  | 0 => some (.fadd (Ty.ofCode f.ty) (unnum 64 (f.d)) (unnum 64 (f.a)) (unnum 64 (f.b)) (Mode.ofCode (f.aux.extractLsb' 0 3)))
  | 1 => some (.fsub (Ty.ofCode f.ty) (unnum 64 (f.d)) (unnum 64 (f.a)) (unnum 64 (f.b)) (Mode.ofCode (f.aux.extractLsb' 0 3)))
  | 2 => some (.fmul (Ty.ofCode f.ty) (unnum 64 (f.d)) (unnum 64 (f.a)) (unnum 64 (f.b)) (Mode.ofCode (f.aux.extractLsb' 0 3)))
  | 3 => some (.fdiv (Ty.ofCode f.ty) (unnum 64 (f.d)) (unnum 64 (f.a)) (unnum 64 (f.b)) (Mode.ofCode (f.aux.extractLsb' 0 3)))
  | 4 => some (.fsqrt (Ty.ofCode f.ty) (unnum 64 (f.d)) (unnum 64 (f.a)) (Mode.ofCode (f.aux.extractLsb' 0 3)))
  | 5 => some (.fmin (Ty.ofCode f.ty) (unnum 64 (f.d)) (unnum 64 (f.a)) (unnum 64 (f.b)) (Mode.ofCode (f.aux.extractLsb' 0 3)))
  | 6 => some (.fmax (Ty.ofCode f.ty) (unnum 64 (f.d)) (unnum 64 (f.a)) (unnum 64 (f.b)) (Mode.ofCode (f.aux.extractLsb' 0 3)))
  | 7 => some (.fneg (Ty.ofCode f.ty) (unnum 64 (f.d)) (unnum 64 (f.a)) (Mode.ofCode (f.aux.extractLsb' 0 3)))
  | 8 => some (.fabs (Ty.ofCode f.ty) (unnum 64 (f.d)) (unnum 64 (f.a)) (Mode.ofCode (f.aux.extractLsb' 0 3)))
  | 9 => some (.feq (Ty.ofCode f.ty) (unnum 64 (f.d)) (unnum 64 (f.a)) (unnum 64 (f.b)) (Mode.ofCode (f.aux.extractLsb' 0 3)))
  | 10 => some (.flt (Ty.ofCode f.ty) (unnum 64 (f.d)) (unnum 64 (f.a)) (unnum 64 (f.b)) (Mode.ofCode (f.aux.extractLsb' 0 3)))
  | 11 => some (.fle (Ty.ofCode f.ty) (unnum 64 (f.d)) (unnum 64 (f.a)) (unnum 64 (f.b)) (Mode.ofCode (f.aux.extractLsb' 0 3)))
  | 12 => some (.fcvt (Ty.ofCode f.ty) (Ty.ofCode (f.aux.extractLsb' 3 5)) (unnum 64 (f.d)) (unnum 64 (f.a)) (Mode.ofCode (f.aux.extractLsb' 0 3)))
  | 13 => some (.fma (Ty.ofCode f.ty) (unnum 64 (f.d)) (unnum 64 (f.a)) (unnum 64 (f.b)) (unnum 64 (f.c)) (Mode.ofCode (f.aux.extractLsb' 0 3)))
  | _ => none

/-- MAJ 0x16. -/
def cand16 (f : FI) : Option Instr :=
  match f.fn.toNat with
  | 0 => some (.fli (Ty.ofCode f.ty) (unnum 64 (f.d)) (f.imm))
  | 1 => some (.faddi (Ty.ofCode f.ty) (unnum 64 (f.d)) (unnum 64 (f.a)) (f.imm))
  | 2 => some (.fmuli (Ty.ofCode f.ty) (unnum 64 (f.d)) (unnum 64 (f.a)) (f.imm))
  | _ => none

/-- MAJ 0x18. -/
def cand18 (f : FB) : Option Instr := some (.branch (Cond.ofCode f.m) (unnum 64 (f.a)) (unnum 64 (f.b)) f.off)

/-- MAJ 0x19. -/
def cand19 (f : FB) : Option Instr := some (.jal (unnum 64 (f.d)) f.off)

/-- MAJ 0x1A. -/
def cand1A (f : FR) : Option Instr :=
  match f.fn.toNat with
  | 0 => some (.jr (unnum 64 (f.d)) (unnum 64 (f.a)))
  | 1 => some (.svc (f.aux.extractLsb' 0 11))
  | 2 => some (.brk (f.aux.extractLsb' 0 11))
  | 3 => some (.halt)
  | 4 => some (.yield)
  | _ => none

/-- MAJ 0x1B. -/
def cand1B (f : FI) : Option Instr :=
  match f.fn.toNat with
  | 0 => some (.csrr (unnum 64 (f.d)) (f.imm.extractLsb' 0 12))
  | 1 => some (.csrw (f.imm.extractLsb' 0 12) (unnum 64 (f.a)))
  | 2 => some (.setvl (unnum 64 (f.d)) (unnum 64 (f.a)))
  | 3 => some (.setew (Ew.ofCode (f.imm)))
  | 4 => some (.setslip (f.imm.extractLsb' 0 4))
  | 5 => some (.setvp (unnum 64 (f.a)))
  | _ => none

/-- MAJ 0x1C. -/
def cand1C (f : FX) : Option Instr :=
  match f.fn.toNat with
  | 0 => some (.vfetch (f.imma ++ f.immb))
  | 1 => some (.tfetch (f.imma ++ f.immb))
  | 2 => some (.tfsel (unnum 48 (f.d)) f.imma f.immb)
  | _ => none

/-- MAJ 0x1D. -/
def cand1D (f : FR) : Option Instr :=
  match f.fn.toNat with
  | 0 => some (.tstop)
  | 1 => some (.vrejoin)
  | _ => none

/-- MAJ 0x1E. -/
def cand1E (f : FR) : Option Instr :=
  match f.fn.toNat with
  | 0 => some (.wmov (unnum 48 (f.d)) (unnum 48 (f.a)))
  | 1 => some (.wadd (Ty.ofCode f.ty) (unnum 48 (f.d)) (unnum 48 (f.a)) (unnum 48 (f.b)))
  | 2 => some (.wsub (Ty.ofCode f.ty) (unnum 48 (f.d)) (unnum 48 (f.a)) (unnum 48 (f.b)))
  | 3 => some (.wmul (Ty.ofCode f.ty) (unnum 48 (f.d)) (unnum 48 (f.a)) (unnum 48 (f.b)))
  | 4 => some (.wand (unnum 48 (f.d)) (unnum 48 (f.a)) (unnum 48 (f.b)))
  | 5 => some (.wor (unnum 48 (f.d)) (unnum 48 (f.a)) (unnum 48 (f.b)))
  | 6 => some (.wxor (unnum 48 (f.d)) (unnum 48 (f.a)) (unnum 48 (f.b)))
  | 7 => some (.wshl (unnum 48 (f.d)) (unnum 48 (f.a)) (unnum 48 (f.b)))
  | 8 => some (.wshr (unnum 48 (f.d)) (unnum 48 (f.a)) (unnum 48 (f.b)))
  | 9 => some (.wsra (unnum 48 (f.d)) (unnum 48 (f.a)) (unnum 48 (f.b)))
  | 10 => some (.wmin (Ty.ofCode f.ty) (unnum 48 (f.d)) (unnum 48 (f.a)) (unnum 48 (f.b)))
  | 11 => some (.wmax (Ty.ofCode f.ty) (unnum 48 (f.d)) (unnum 48 (f.a)) (unnum 48 (f.b)))
  | 12 => some (.wseq (Ty.ofCode f.ty) (unnum 48 (f.d)) (unnum 48 (f.a)) (unnum 48 (f.b)))
  | 13 => some (.wslt (Ty.ofCode f.ty) (unnum 48 (f.d)) (unnum 48 (f.a)) (unnum 48 (f.b)))
  | 14 => some (.wfeq (unnum 48 (f.d)) (unnum 48 (f.a)) (unnum 48 (f.b)) (Mode.ofCode (f.aux.extractLsb' 0 3)))
  | 15 => some (.wflt (unnum 48 (f.d)) (unnum 48 (f.a)) (unnum 48 (f.b)) (Mode.ofCode (f.aux.extractLsb' 0 3)))
  | 16 => some (.wfle (unnum 48 (f.d)) (unnum 48 (f.a)) (unnum 48 (f.b)) (Mode.ofCode (f.aux.extractLsb' 0 3)))
  | 17 => some (.wsel (unnum 48 (f.d)) (unnum 48 (f.a)) (unnum 48 (f.b)) (unnum 48 (f.c)))
  | 18 => some (.wfadd (unnum 48 (f.d)) (unnum 48 (f.a)) (unnum 48 (f.b)) (Mode.ofCode (f.aux.extractLsb' 0 3)))
  | 19 => some (.wfsub (unnum 48 (f.d)) (unnum 48 (f.a)) (unnum 48 (f.b)) (Mode.ofCode (f.aux.extractLsb' 0 3)))
  | 20 => some (.wfmul (unnum 48 (f.d)) (unnum 48 (f.a)) (unnum 48 (f.b)) (Mode.ofCode (f.aux.extractLsb' 0 3)))
  | 21 => some (.wfma (unnum 48 (f.d)) (unnum 48 (f.a)) (unnum 48 (f.b)) (unnum 48 (f.c)) (Mode.ofCode (f.aux.extractLsb' 0 3)))
  | 22 => some (.wfmal (unnum 48 (f.d)) (unnum 48 (f.a)) (unnum 2 (f.aux.extractLsb' 3 1)) (Mode.ofCode (f.aux.extractLsb' 0 3)))
  | 23 => some (.wlat (unnum 48 (f.a)) (unnum 2 (f.aux.extractLsb' 3 1)) (Mode.ofCode (f.aux.extractLsb' 0 3)))
  | 24 => some (.wcvt (Ty.ofCode f.ty) (Ty.ofCode (f.aux.extractLsb' 3 5)) (unnum 48 (f.d)) (unnum 48 (f.a)) (Mode.ofCode (f.aux.extractLsb' 0 3)))
  | 25 => some (.wfmin (unnum 48 (f.d)) (unnum 48 (f.a)) (unnum 48 (f.b)) (Mode.ofCode (f.aux.extractLsb' 0 3)))
  | 26 => some (.wfmax (unnum 48 (f.d)) (unnum 48 (f.a)) (unnum 48 (f.b)) (Mode.ofCode (f.aux.extractLsb' 0 3)))
  | 27 => some (.wget (unnum 48 (f.d)) ⟨unnum 32 f.a, bit f.ca⟩)
  | 28 => some (.wput (unnum 32 (f.d)) (unnum 48 (f.a)))
  | _ => none

/-- MAJ 0x1F. -/
def cand1F (f : FI) : Option Instr :=
  match f.fn.toNat with
  | 0 => some (.wli (Ty.ofCode f.ty) (unnum 48 (f.d)) (f.imm))
  | 1 => some (.waddi (Ty.ofCode f.ty) (unnum 48 (f.d)) (unnum 48 (f.a)) (f.imm))
  | 2 => some (.wandi (unnum 48 (f.d)) (unnum 48 (f.a)) (f.imm))
  | 3 => some (.wori (unnum 48 (f.d)) (unnum 48 (f.a)) (f.imm))
  | 4 => some (.wxori (unnum 48 (f.d)) (unnum 48 (f.a)) (f.imm))
  | 5 => some (.wshli (unnum 48 (f.d)) (unnum 48 (f.a)) (f.imm.extractLsb' 0 5))
  | 6 => some (.wshri (unnum 48 (f.d)) (unnum 48 (f.a)) (f.imm.extractLsb' 0 5))
  | 7 => some (.wsrai (unnum 48 (f.d)) (unnum 48 (f.a)) (f.imm.extractLsb' 0 5))
  | 8 => some (.wseqi (Ty.ofCode f.ty) (unnum 48 (f.d)) (unnum 48 (f.a)) (f.imm))
  | 9 => some (.wslti (Ty.ofCode f.ty) (unnum 48 (f.d)) (unnum 48 (f.a)) (f.imm))
  | 10 => some (.wld (Ty.ofCode f.ty) (unnum 48 (f.d)) (unnum 48 (f.a)) (f.imm) (Space.ofCode (f.aux3.extractLsb' 0 2)))
  | 11 => some (.wst (Ty.ofCode f.ty) (unnum 48 (f.d)) (unnum 48 (f.a)) (f.imm))
  | _ => none

/-- MAJ 0x20. -/
def cand20 (f : FR) : Option Instr :=
  match f.fn.toNat with
  | 0 => some (.vadd (Ty.ofCode f.ty) (unnum 8 f.m) (unnum 32 (f.d)) ⟨unnum 32 f.a, bit f.ca⟩ ⟨unnum 32 f.b, bit f.cb⟩)
  | 1 => some (.vsub (Ty.ofCode f.ty) (unnum 8 f.m) (unnum 32 (f.d)) ⟨unnum 32 f.a, bit f.ca⟩ ⟨unnum 32 f.b, bit f.cb⟩)
  | 2 => some (.vmul (Ty.ofCode f.ty) (unnum 8 f.m) (unnum 32 (f.d)) ⟨unnum 32 f.a, bit f.ca⟩ ⟨unnum 32 f.b, bit f.cb⟩)
  | 3 => some (.vmulh (Ty.ofCode f.ty) (unnum 8 f.m) (unnum 32 (f.d)) ⟨unnum 32 f.a, bit f.ca⟩ ⟨unnum 32 f.b, bit f.cb⟩)
  | 4 => some (.vdiv (Ty.ofCode f.ty) (unnum 8 f.m) (unnum 32 (f.d)) ⟨unnum 32 f.a, bit f.ca⟩ ⟨unnum 32 f.b, bit f.cb⟩)
  | 5 => some (.vrem (Ty.ofCode f.ty) (unnum 8 f.m) (unnum 32 (f.d)) ⟨unnum 32 f.a, bit f.ca⟩ ⟨unnum 32 f.b, bit f.cb⟩)
  | 6 => some (.vmin (Ty.ofCode f.ty) (unnum 8 f.m) (unnum 32 (f.d)) ⟨unnum 32 f.a, bit f.ca⟩ ⟨unnum 32 f.b, bit f.cb⟩)
  | 7 => some (.vmax (Ty.ofCode f.ty) (unnum 8 f.m) (unnum 32 (f.d)) ⟨unnum 32 f.a, bit f.ca⟩ ⟨unnum 32 f.b, bit f.cb⟩)
  | 8 => some (.vabs (Ty.ofCode f.ty) (unnum 8 f.m) (unnum 32 (f.d)) ⟨unnum 32 f.a, bit f.ca⟩)
  | 9 => some (.vneg (Ty.ofCode f.ty) (unnum 8 f.m) (unnum 32 (f.d)) ⟨unnum 32 f.a, bit f.ca⟩)
  | 10 => some (.vmadd (Ty.ofCode f.ty) (unnum 8 f.m) (unnum 32 (f.d)) ⟨unnum 32 f.a, bit f.ca⟩ ⟨unnum 32 f.b, bit f.cb⟩ ⟨unnum 32 f.c, bit f.cc⟩)
  | 11 => some (.vsll (Ty.ofCode f.ty) (unnum 8 f.m) (unnum 32 (f.d)) ⟨unnum 32 f.a, bit f.ca⟩ ⟨unnum 32 f.b, bit f.cb⟩)
  | 12 => some (.vsrl (Ty.ofCode f.ty) (unnum 8 f.m) (unnum 32 (f.d)) ⟨unnum 32 f.a, bit f.ca⟩ ⟨unnum 32 f.b, bit f.cb⟩)
  | 13 => some (.vsra (Ty.ofCode f.ty) (unnum 8 f.m) (unnum 32 (f.d)) ⟨unnum 32 f.a, bit f.ca⟩ ⟨unnum 32 f.b, bit f.cb⟩)
  | _ => none

/-- MAJ 0x21. -/
def cand21 (f : FR) : Option Instr :=
  match f.fn.toNat with
  | 0 => some (.vand (Ty.ofCode f.ty) (unnum 8 f.m) (unnum 32 (f.d)) ⟨unnum 32 f.a, bit f.ca⟩ ⟨unnum 32 f.b, bit f.cb⟩)
  | 1 => some (.vor (Ty.ofCode f.ty) (unnum 8 f.m) (unnum 32 (f.d)) ⟨unnum 32 f.a, bit f.ca⟩ ⟨unnum 32 f.b, bit f.cb⟩)
  | 2 => some (.vxor (Ty.ofCode f.ty) (unnum 8 f.m) (unnum 32 (f.d)) ⟨unnum 32 f.a, bit f.ca⟩ ⟨unnum 32 f.b, bit f.cb⟩)
  | 3 => some (.vandn (Ty.ofCode f.ty) (unnum 8 f.m) (unnum 32 (f.d)) ⟨unnum 32 f.a, bit f.ca⟩ ⟨unnum 32 f.b, bit f.cb⟩)
  | 4 => some (.vnot (Ty.ofCode f.ty) (unnum 8 f.m) (unnum 32 (f.d)) ⟨unnum 32 f.a, bit f.ca⟩)
  | _ => none

/-- MAJ 0x22. -/
def cand22 (f : FR) : Option Instr :=
  match f.fn.toNat with
  | 0 | 1 | 2 | 3 | 4 | 5 => some (.vcmp (Rel.ofCode (f.fn.setWidth 3)) (Ty.ofCode f.ty) (unnum 8 f.m) (unnum 8 (f.d)) ⟨unnum 32 f.a, bit f.ca⟩ ⟨unnum 32 f.b, bit f.cb⟩)
  | _ => none

/-- MAJ 0x23. -/
def cand23 (f : FR) : Option Instr :=
  match f.fn.toNat with
  | 0 => some (.vsel (Ty.ofCode f.ty) (unnum 32 (f.d)) ⟨unnum 32 f.a, bit f.ca⟩ ⟨unnum 32 f.b, bit f.cb⟩ (unnum 8 (f.c)))
  | 1 => some (.vbcast (Ty.ofCode f.ty) (unnum 8 f.m) (unnum 32 (f.d)) (unnum 64 (f.a)))
  | 2 => some (.vtag (unnum 32 (f.d)) ⟨unnum 32 f.a, bit f.ca⟩ (Ty.ofCode (f.aux.extractLsb' 0 5)) (f.aux.extractLsb' 5 3))
  | _ => none

/-- MAJ 0x2C. -/
def cand2C (f : FI) : Option Instr :=
  match f.fn.toNat with
  | 0 => some (.vaddi (Ty.ofCode f.ty) (unnum 8 f.m) (unnum 32 (f.d)) ⟨unnum 32 f.a, bit f.ca⟩ (f.imm))
  | 1 => some (.vmuli (Ty.ofCode f.ty) (unnum 8 f.m) (unnum 32 (f.d)) ⟨unnum 32 f.a, bit f.ca⟩ (f.imm))
  | 2 => some (.vmini (Ty.ofCode f.ty) (unnum 8 f.m) (unnum 32 (f.d)) ⟨unnum 32 f.a, bit f.ca⟩ (f.imm))
  | 3 => some (.vmaxi (Ty.ofCode f.ty) (unnum 8 f.m) (unnum 32 (f.d)) ⟨unnum 32 f.a, bit f.ca⟩ (f.imm))
  | 4 => some (.vandi (Ty.ofCode f.ty) (unnum 8 f.m) (unnum 32 (f.d)) ⟨unnum 32 f.a, bit f.ca⟩ (f.imm))
  | 5 => some (.vori (Ty.ofCode f.ty) (unnum 8 f.m) (unnum 32 (f.d)) ⟨unnum 32 f.a, bit f.ca⟩ (f.imm))
  | 6 => some (.vxori (Ty.ofCode f.ty) (unnum 8 f.m) (unnum 32 (f.d)) ⟨unnum 32 f.a, bit f.ca⟩ (f.imm))
  | 7 => some (.vslli (Ty.ofCode f.ty) (unnum 8 f.m) (unnum 32 (f.d)) ⟨unnum 32 f.a, bit f.ca⟩ (f.imm.extractLsb' 0 5))
  | 8 => some (.vsrli (Ty.ofCode f.ty) (unnum 8 f.m) (unnum 32 (f.d)) ⟨unnum 32 f.a, bit f.ca⟩ (f.imm.extractLsb' 0 5))
  | 9 => some (.vsrai (Ty.ofCode f.ty) (unnum 8 f.m) (unnum 32 (f.d)) ⟨unnum 32 f.a, bit f.ca⟩ (f.imm.extractLsb' 0 5))
  | 10 | 11 | 12 | 13 | 14 | 15 => some (.vcmpi (Rel.ofCode ((f.fn - 10).setWidth 3)) (Ty.ofCode f.ty) (unnum 8 f.m) (unnum 8 (f.d)) ⟨unnum 32 f.a, bit f.ca⟩ (f.imm))
  | _ => none

/-- MAJ 0x30. -/
def cand30 (f : FR) : Option Instr :=
  match f.fn.toNat with
  | 0 => some (.vaddF (Ty.ofCode f.ty) (unnum 8 f.m) (unnum 32 (f.d)) ⟨unnum 32 f.a, bit f.ca⟩ ⟨unnum 32 f.b, bit f.cb⟩ (Mode.ofCode (f.aux.extractLsb' 0 3)))
  | 1 => some (.vsubF (Ty.ofCode f.ty) (unnum 8 f.m) (unnum 32 (f.d)) ⟨unnum 32 f.a, bit f.ca⟩ ⟨unnum 32 f.b, bit f.cb⟩ (Mode.ofCode (f.aux.extractLsb' 0 3)))
  | 2 => some (.vmulF (Ty.ofCode f.ty) (unnum 8 f.m) (unnum 32 (f.d)) ⟨unnum 32 f.a, bit f.ca⟩ ⟨unnum 32 f.b, bit f.cb⟩ (Mode.ofCode (f.aux.extractLsb' 0 3)))
  | 3 => some (.vdivF (Ty.ofCode f.ty) (unnum 8 f.m) (unnum 32 (f.d)) ⟨unnum 32 f.a, bit f.ca⟩ ⟨unnum 32 f.b, bit f.cb⟩ (Mode.ofCode (f.aux.extractLsb' 0 3)))
  | 4 => some (.vsqrt (Ty.ofCode f.ty) (unnum 8 f.m) (unnum 32 (f.d)) ⟨unnum 32 f.a, bit f.ca⟩ (Mode.ofCode (f.aux.extractLsb' 0 3)))
  | 5 => some (.vminF (Ty.ofCode f.ty) (unnum 8 f.m) (unnum 32 (f.d)) ⟨unnum 32 f.a, bit f.ca⟩ ⟨unnum 32 f.b, bit f.cb⟩ (Mode.ofCode (f.aux.extractLsb' 0 3)))
  | 6 => some (.vmaxF (Ty.ofCode f.ty) (unnum 8 f.m) (unnum 32 (f.d)) ⟨unnum 32 f.a, bit f.ca⟩ ⟨unnum 32 f.b, bit f.cb⟩ (Mode.ofCode (f.aux.extractLsb' 0 3)))
  | 7 => some (.vnegF (Ty.ofCode f.ty) (unnum 8 f.m) (unnum 32 (f.d)) ⟨unnum 32 f.a, bit f.ca⟩ (Mode.ofCode (f.aux.extractLsb' 0 3)))
  | 8 => some (.vabsF (Ty.ofCode f.ty) (unnum 8 f.m) (unnum 32 (f.d)) ⟨unnum 32 f.a, bit f.ca⟩ (Mode.ofCode (f.aux.extractLsb' 0 3)))
  | 9 => some (.vfma (Ty.ofCode f.ty) (unnum 8 f.m) (unnum 32 (f.d)) ⟨unnum 32 f.a, bit f.ca⟩ ⟨unnum 32 f.b, bit f.cb⟩ ⟨unnum 32 f.c, bit f.cc⟩ (Mode.ofCode (f.aux.extractLsb' 0 3)))
  | 10 => some (.vfmaw (Ty.ofCode (f.aux.extractLsb' 3 5)) (unnum 8 f.m) (unnum 32 (f.d)) ⟨unnum 32 f.a, bit f.ca⟩ ⟨unnum 32 f.b, bit f.cb⟩ (Mode.ofCode (f.aux.extractLsb' 0 3)))
  | _ => none

/-- MAJ 0x31. -/
def cand31 (f : FR) : Option Instr :=
  match f.fn.toNat with
  | 0 => some (.vcvt (Ty.ofCode f.ty) (Ty.ofCode (f.aux.extractLsb' 3 5)) (unnum 8 f.m) (unnum 32 (f.d)) ⟨unnum 32 f.a, bit f.ca⟩ (Mode.ofCode (f.aux.extractLsb' 0 3)))
  | 1 => some (.vqnt (Ty.ofCode (f.aux.extractLsb' 3 5)) (QKind.ofCode (f.aux.extractLsb' 8 3)) (unnum 32 (f.d)) ⟨unnum 32 f.a, bit f.ca⟩)
  | 2 => some (.vdqnt (Ty.ofCode f.ty) (unnum 8 f.m) (unnum 32 (f.d)) ⟨unnum 32 f.a, bit f.ca⟩ (Mode.ofCode (f.aux.extractLsb' 0 3)))
  | 3 => some (.vbfly (Ty.ofCode f.ty) (unnum 32 (f.d)) ⟨unnum 32 f.a, bit f.ca⟩ (f.aux.extractLsb' 3 4) (bit (f.aux.extractLsb' 7 1)) (Mode.ofCode (f.aux.extractLsb' 0 3)))
  | 4 => some (.vrnd (unnum 8 f.m) (unnum 32 (f.d)) (unnum 64 (f.a)) (unnum 64 (f.b)))
  | _ => none

/-- MAJ 0x39. -/
def cand39 (f : FX) : Option Instr :=
  match f.fn.toNat with
  | 0 | 1 | 2 | 3 | 4 | 5 | 8 | 9 | 10 => some (.vidx (Ty.ofCode (f.fn.setWidth 5)) (unnum 8 f.m) (unnum 32 (f.d)) f.imma f.immb)
  | _ => none

/-- MAJ 0x3A. -/
def cand3A (f : FI) : Option Instr :=
  match f.fn.toNat with
  | 0 => some (.vaddiF (Ty.ofCode f.ty) (unnum 8 f.m) (unnum 32 (f.d)) ⟨unnum 32 f.a, bit f.ca⟩ (f.imm))
  | 1 => some (.vmuliF (Ty.ofCode f.ty) (unnum 8 f.m) (unnum 32 (f.d)) ⟨unnum 32 f.a, bit f.ca⟩ (f.imm))
  | 2 => some (.vminiF (Ty.ofCode f.ty) (unnum 8 f.m) (unnum 32 (f.d)) ⟨unnum 32 f.a, bit f.ca⟩ (f.imm))
  | 3 => some (.vmaxiF (Ty.ofCode f.ty) (unnum 8 f.m) (unnum 32 (f.d)) ⟨unnum 32 f.a, bit f.ca⟩ (f.imm))
  | _ => none

/-- MAJ 0x3C. -/
def cand3C (f : FR) : Option Instr :=
  match f.fn.toNat with
  | 0 => some (.vredsum (Ty.ofCode f.ty) (unnum 8 f.m) (unnum 64 (f.d)) ⟨unnum 32 f.a, bit f.ca⟩ (unnum 64 (f.b)))
  | 1 => some (.vredmin (Ty.ofCode f.ty) (unnum 8 f.m) (unnum 64 (f.d)) ⟨unnum 32 f.a, bit f.ca⟩ (unnum 64 (f.b)))
  | 2 => some (.vredmax (Ty.ofCode f.ty) (unnum 8 f.m) (unnum 64 (f.d)) ⟨unnum 32 f.a, bit f.ca⟩ (unnum 64 (f.b)))
  | 3 => some (.vredand (Ty.ofCode f.ty) (unnum 8 f.m) (unnum 64 (f.d)) ⟨unnum 32 f.a, bit f.ca⟩ (unnum 64 (f.b)))
  | 4 => some (.vredor (Ty.ofCode f.ty) (unnum 8 f.m) (unnum 64 (f.d)) ⟨unnum 32 f.a, bit f.ca⟩ (unnum 64 (f.b)))
  | 5 => some (.vredxor (Ty.ofCode f.ty) (unnum 8 f.m) (unnum 64 (f.d)) ⟨unnum 32 f.a, bit f.ca⟩ (unnum 64 (f.b)))
  | _ => none

/-- MAJ 0x3D. -/
def cand3D (f : FR) : Option Instr :=
  match f.fn.toNat with
  | 0 => some (.vscansum (Ty.ofCode f.ty) (unnum 8 f.m) (unnum 32 (f.d)) ⟨unnum 32 f.a, bit f.ca⟩ (unnum 8 (f.c)) (bit (f.aux.extractLsb' 3 1)))
  | 1 => some (.vscanmin (Ty.ofCode f.ty) (unnum 8 f.m) (unnum 32 (f.d)) ⟨unnum 32 f.a, bit f.ca⟩ (unnum 8 (f.c)) (bit (f.aux.extractLsb' 3 1)))
  | 2 => some (.vscanmax (Ty.ofCode f.ty) (unnum 8 f.m) (unnum 32 (f.d)) ⟨unnum 32 f.a, bit f.ca⟩ (unnum 8 (f.c)) (bit (f.aux.extractLsb' 3 1)))
  | 4 => some (.vsegsum (Ty.ofCode f.ty) (unnum 8 f.m) (unnum 32 (f.d)) ⟨unnum 32 f.a, bit f.ca⟩ (unnum 8 (f.c)))
  | 5 => some (.vsegmin (Ty.ofCode f.ty) (unnum 8 f.m) (unnum 32 (f.d)) ⟨unnum 32 f.a, bit f.ca⟩ (unnum 8 (f.c)))
  | 6 => some (.vsegmax (Ty.ofCode f.ty) (unnum 8 f.m) (unnum 32 (f.d)) ⟨unnum 32 f.a, bit f.ca⟩ (unnum 8 (f.c)))
  | _ => none

/-- MAJ 0x3E. -/
def cand3E (f : FR) : Option Instr :=
  match f.fn.toNat with
  | 0 => some (.vslideup (Ty.ofCode f.ty) (unnum 8 f.m) (unnum 32 (f.d)) ⟨unnum 32 f.a, bit f.ca⟩ (unnum 64 (f.b)))
  | 1 => some (.vslidedn (Ty.ofCode f.ty) (unnum 8 f.m) (unnum 32 (f.d)) ⟨unnum 32 f.a, bit f.ca⟩ (unnum 64 (f.b)))
  | 2 => some (.vrot (Ty.ofCode f.ty) (unnum 8 f.m) (unnum 32 (f.d)) ⟨unnum 32 f.a, bit f.ca⟩ (unnum 64 (f.b)))
  | 3 => some (.vperm (Ty.ofCode f.ty) (unnum 8 f.m) (unnum 32 (f.d)) ⟨unnum 32 f.a, bit f.ca⟩ ⟨unnum 32 f.b, bit f.cb⟩)
  | 4 => some (.vcompress (Ty.ofCode f.ty) (unnum 32 (f.d)) ⟨unnum 32 f.a, bit f.ca⟩ (unnum 8 (f.c)))
  | 5 => some (.vexpand (Ty.ofCode f.ty) (unnum 32 (f.d)) ⟨unnum 32 f.a, bit f.ca⟩ (unnum 8 (f.c)))
  | _ => none

/-- MAJ 0x3F. -/
def cand3F (f : FR) : Option Instr :=
  match f.fn.toNat with
  | 0 => some (.vxch (Ty.ofCode f.ty) (unnum 32 (f.d)) ⟨unnum 32 f.a, bit f.ca⟩ (unnum 64 (f.b)) (unnum 64 (f.c)))
  | _ => none

/-- MAJ 0x40. -/
def cand40 (f : FR) : Option Instr :=
  match f.fn.toNat with
  | 0 => some (.mand (unnum 8 (f.d)) (unnum 8 (f.a)) (unnum 8 (f.b)))
  | 1 => some (.mor (unnum 8 (f.d)) (unnum 8 (f.a)) (unnum 8 (f.b)))
  | 2 => some (.mxor (unnum 8 (f.d)) (unnum 8 (f.a)) (unnum 8 (f.b)))
  | 3 => some (.mandn (unnum 8 (f.d)) (unnum 8 (f.a)) (unnum 8 (f.b)))
  | 4 => some (.mnot (unnum 8 (f.d)) (unnum 8 (f.a)))
  | 5 => some (.mset (unnum 8 (f.d)))
  | 6 => some (.mpopc (unnum 64 (f.d)) (unnum 8 (f.a)))
  | 7 => some (.mfirst (unnum 64 (f.d)) (unnum 8 (f.a)))
  | _ => none

/-- MAJ 0x44. -/
def cand44 (f : FI) : Option Instr :=
  match f.fn.toNat with
  | 0 => some (.ld (Ty.ofCode f.ty) (Space.ofCode (f.aux3.extractLsb' 0 2)) (unnum 64 (f.d)) (unnum 64 (f.a)) (f.imm))
  | 1 => some (.st (Ty.ofCode f.ty) (Space.ofCode (f.aux3.extractLsb' 0 2)) (unnum 64 (f.d)) (unnum 64 (f.a)) (f.imm))
  | _ => none

/-- MAJ 0x45. -/
def cand45 (f : FI) : Option Instr :=
  match f.fn.toNat with
  | 0 => some (.vld (Ty.ofCode f.ty) (Space.ofCode (f.aux3.extractLsb' 0 2)) (unnum 8 f.m) (unnum 32 (f.d)) (unnum 64 (f.a)) (unnum 64 (f.b)) (f.imm))
  | 1 => some (.vst (Ty.ofCode f.ty) (Space.ofCode (f.aux3.extractLsb' 0 2)) (unnum 8 f.m) (unnum 32 (f.d)) (unnum 64 (f.a)) (unnum 64 (f.b)) (f.imm))
  | _ => none

/-- MAJ 0x46. -/
def cand46 (f : FI) : Option Instr :=
  match f.fn.toNat with
  | 0 => some (.vlds (Ty.ofCode f.ty) (Space.ofCode (f.aux3.extractLsb' 0 2)) (unnum 8 f.m) (unnum 32 (f.d)) (unnum 64 (f.a)) (unnum 64 (f.b)) (f.imm))
  | 1 => some (.vsts (Ty.ofCode f.ty) (Space.ofCode (f.aux3.extractLsb' 0 2)) (unnum 8 f.m) (unnum 32 (f.d)) (unnum 64 (f.a)) (unnum 64 (f.b)) (f.imm))
  | _ => none

/-- MAJ 0x47. -/
def cand47 (f : FI) : Option Instr :=
  match f.fn.toNat with
  | 0 => some (.vldx (Ty.ofCode f.ty) (Space.ofCode (f.aux3.extractLsb' 0 2)) (unnum 8 f.m) (unnum 32 (f.d)) (unnum 64 (f.a)) ⟨unnum 32 f.b, bit f.cb⟩ (f.imm) (bit (f.aux3.extractLsb' 2 1)))
  | 1 => some (.vstx (Ty.ofCode f.ty) (Space.ofCode (f.aux3.extractLsb' 0 2)) (unnum 8 f.m) (unnum 32 (f.d)) (unnum 64 (f.a)) ⟨unnum 32 f.b, bit f.cb⟩ (f.imm) (bit (f.aux3.extractLsb' 2 1)))
  | _ => none

/-- MAJ 0x48. -/
def cand48 (f : FI) : Option Instr :=
  match f.fn.toNat with
  | 0 => some (.vldseg (Ty.ofCode f.ty) (Ty.ofCode (f.imm.extractLsb' 0 5)) (Space.ofCode (f.aux3.extractLsb' 0 2)) (unnum 8 f.m) (unnum 32 (f.d)) (unnum 64 (f.a)) (f.imm.extractLsb' 5 3) (Mode.ofCode (f.imm.extractLsb' 8 3)))
  | 1 => some (.vstseg (Ty.ofCode f.ty) (Ty.ofCode (f.imm.extractLsb' 0 5)) (Space.ofCode (f.aux3.extractLsb' 0 2)) (unnum 8 f.m) (unnum 32 (f.d)) (unnum 64 (f.a)) (f.imm.extractLsb' 5 3) (Mode.ofCode (f.imm.extractLsb' 8 3)))
  | _ => none

/-- MAJ 0x50. -/
def cand50 (f : FR) : Option Instr :=
  match f.fn.toNat with
  | 0 => some (.amoadd (Ty.ofCode f.ty) (Order.ofCode (f.aux.extractLsb' 2 2)) (Scope.ofCode (f.aux.extractLsb' 4 3)) (unnum 64 (f.d)) (unnum 64 (f.a)) (unnum 64 (f.b)))
  | 1 => some (.amomin (Ty.ofCode f.ty) (Order.ofCode (f.aux.extractLsb' 2 2)) (Scope.ofCode (f.aux.extractLsb' 4 3)) (unnum 64 (f.d)) (unnum 64 (f.a)) (unnum 64 (f.b)))
  | 2 => some (.amomax (Ty.ofCode f.ty) (Order.ofCode (f.aux.extractLsb' 2 2)) (Scope.ofCode (f.aux.extractLsb' 4 3)) (unnum 64 (f.d)) (unnum 64 (f.a)) (unnum 64 (f.b)))
  | 3 => some (.amoand (Ty.ofCode f.ty) (Order.ofCode (f.aux.extractLsb' 2 2)) (Scope.ofCode (f.aux.extractLsb' 4 3)) (unnum 64 (f.d)) (unnum 64 (f.a)) (unnum 64 (f.b)))
  | 4 => some (.amoor (Ty.ofCode f.ty) (Order.ofCode (f.aux.extractLsb' 2 2)) (Scope.ofCode (f.aux.extractLsb' 4 3)) (unnum 64 (f.d)) (unnum 64 (f.a)) (unnum 64 (f.b)))
  | 5 => some (.amoxor (Ty.ofCode f.ty) (Order.ofCode (f.aux.extractLsb' 2 2)) (Scope.ofCode (f.aux.extractLsb' 4 3)) (unnum 64 (f.d)) (unnum 64 (f.a)) (unnum 64 (f.b)))
  | 6 => some (.amoswap (Ty.ofCode f.ty) (Order.ofCode (f.aux.extractLsb' 2 2)) (Scope.ofCode (f.aux.extractLsb' 4 3)) (unnum 64 (f.d)) (unnum 64 (f.a)) (unnum 64 (f.b)))
  | 7 => some (.amocas (Ty.ofCode f.ty) (Order.ofCode (f.aux.extractLsb' 2 2)) (Scope.ofCode (f.aux.extractLsb' 4 3)) (unnum 64 (f.d)) (unnum 64 (f.a)) (unnum 64 (f.b)) (unnum 64 (f.c)))
  | 8 => some (.amofadd (Order.ofCode (f.aux.extractLsb' 2 2)) (Scope.ofCode (f.aux.extractLsb' 4 3)) (unnum 64 (f.d)) (unnum 64 (f.a)) (unnum 64 (f.b)))
  | _ => none

/-- MAJ 0x51. -/
def cand51 (f : FR) : Option Instr :=
  match f.fn.toNat with
  | 0 | 1 | 2 | 3 | 4 | 5 => some (.vredm (RedOp.ofCode (f.fn.setWidth 3)) (Ty.ofCode f.ty) (Scope.ofCode (f.aux.extractLsb' 4 3)) (unnum 8 f.m) (unnum 64 (f.a)) ⟨unnum 32 f.b, bit f.cb⟩ ⟨unnum 32 f.c, bit f.cc⟩)
  | _ => none

/-- MAJ 0x58. -/
def cand58 (f : FR) : Option Instr :=
  match f.fn.toNat with
  | 0 => some (.fence (Scope.ofCode (f.aux.extractLsb' 0 3)))
  | 1 => some (.vdrain)
  | 2 => some (.vdrainl)
  | 3 => some (.vdrains)
  | _ => none

/-- MAJ 0x59. -/
noncomputable def cand59 (f : FR) : Option Instr :=
  match f.fn.toNat with
  | 0 => some (.waitArr (unnum 64 (f.d)) (unnum 64 (f.a)) (unnum 64 (f.b)))
  | 1 => some (.waitW (Space.ofCode (f.aux.extractLsb' 0 2)) (unnum 64 (f.d)) (unnum 64 (f.a)) (unnum 64 (f.b)))
  | 2 => some (.waitWatch (unnum 64 (f.d)))
  | 3 => some (.vwatch (unnum 8 f.m) (unnum 64 (f.d)) (unnum 64 (f.a)) ⟨unnum 32 f.b, bit f.cb⟩)
  | _ => none

/-- MAJ 0x5A. -/
noncomputable def cand5A (f : FR) : Option Instr :=
  match f.fn.toNat with
  | 0 => some (.gsync (unnum 64 (f.d)) (unnum 64 (f.a)))
  | 1 => some (.gsyncW (unnum 64 (f.d)) (unnum 64 (f.a)))
  | _ => none

/-- MAJ 0x5B. -/
noncomputable def cand5B (f : FR) : Option Instr :=
  match f.fn.toNat with
  | 0 => some (.hinit (Scope.ofCode (f.aux.extractLsb' 5 3)) (unnum 64 (f.d)) (unnum 64 (f.a)))
  | 1 => some (if bit (f.aux.extractLsb' 3 1) then .hpushVp (Scope.ofCode (f.aux.extractLsb' 5 3)) (unnum 48 (f.d)) (unnum 48 (f.a)) (unnum 48 (f.b)) else .hpush (Scope.ofCode (f.aux.extractLsb' 5 3)) (unnum 64 (f.d)) (unnum 64 (f.a)) (unnum 64 (f.b)))
  | 2 => some (if bit (f.aux.extractLsb' 3 1) then .hpopVp (Scope.ofCode (f.aux.extractLsb' 5 3)) (unnum 48 (f.d)) (unnum 48 (f.a)) else .hpop (Scope.ofCode (f.aux.extractLsb' 5 3)) (unnum 64 (f.d)) (unnum 64 (f.a)))
  | 3 => some (.hstat (Scope.ofCode (f.aux.extractLsb' 5 3)) (unnum 64 (f.d)) (unnum 64 (f.a)))
  | _ => none

/-- MAJ 0x5C. -/
noncomputable def cand5C (f : FR) : Option Instr :=
  match f.fn.toNat with
  | 0 => some (.wmpub (unnum 8 (f.aux.extractLsb' 0 3)) (unnum 64 (f.a)))
  | 1 => some (.aarm (unnum 64 (f.d)) (unnum 64 (f.a)) (unnum 64 (f.b)))
  | _ => none

/-- MAJ 0x60. -/
noncomputable def cand60 (f : FR) : Option Instr :=
  match f.fn.toNat with
  | 0 => some (.msetdl (DForm.ofCode (f.aux.extractLsb' 0 2)) (unnum 64 (f.a)))
  | 1 => some (.dlda (Space.ofCode (f.aux.extractLsb' 0 2)) (bit (f.aux.extractLsb' 2 1)) (unnum 64 (f.a)) (unnum 64 (f.b)) (unnum 64 (f.c)))
  | 2 => some (.dldb (Space.ofCode (f.aux.extractLsb' 0 2)) (bit (f.aux.extractLsb' 2 1)) (unnum 64 (f.a)) (unnum 64 (f.b)) (unnum 64 (f.c)))
  | 3 => some (.dhold (bit (f.aux.extractLsb' 0 1)) (bit (f.aux.extractLsb' 1 1)) (bit (f.aux.extractLsb' 2 1)) (bit (f.aux.extractLsb' 3 1)))
  | 4 => some (.dzero (unnum 512 (f.aux.extractLsb' 0 9)) (unnum 64 (f.c)))
  | 5 => some (.dsetfill (unnum 64 (f.a)))
  | 6 => some (.dbudget (unnum 64 (f.a)))
  | 7 => some (.dmeta (Space.ofCode (f.aux.extractLsb' 0 2)) (unnum 64 (f.a)) (unnum 64 (f.b)) (unnum 64 (f.c)))
  | 8 => some (.dmovV (Ty.ofCode f.ty) (unnum 32 (f.d)) (unnum 512 (f.aux.extractLsb' 0 9)) (bit (f.aux.extractLsb' 9 1)) (unnum 64 (f.c)))
  | 9 => some (.dmovA (unnum 8 f.m) (unnum 512 (f.aux.extractLsb' 0 9)) ⟨unnum 32 f.a, bit f.ca⟩)
  | 10 => some (.dcvt (Ty.ofCode f.ty) (bit (f.aux.extractLsb' 10 1)) (unnum 32 (f.d)) (unnum 512 (f.aux.extractLsb' 0 9)) (bit (f.aux.extractLsb' 9 1)) (unnum 64 (f.c)))
  | _ => none

/-- MAJ 0x61. -/
noncomputable def cand61 (f : FR) : Option Instr :=
  match f.fn.toNat with
  | 0 => some (.dmacV (Ty.ofCode f.ty) (unnum 512 (f.aux.extractLsb' 0 9)) ⟨unnum 32 f.a, bit f.ca⟩ ⟨unnum 32 f.b, bit f.cb⟩ (unnum 64 (f.c)))
  | 1 => some (.dmacL (Ty.ofCode f.ty) (unnum 512 (f.aux.extractLsb' 0 9)) (unnum 64 (f.c)))
  | 2 => some (.dmacTriV (Ty.ofCode f.ty) (unnum 512 (f.aux.extractLsb' 0 9)) ⟨unnum 32 f.a, bit f.ca⟩ ⟨unnum 32 f.b, bit f.cb⟩ (unnum 64 (f.c)))
  | 3 => some (.dmacTriL (Ty.ofCode f.ty) (unnum 512 (f.aux.extractLsb' 0 9)) (unnum 64 (f.c)))
  | 4 => some (.dmacs (Ty.ofCode f.ty) (unnum 512 (f.aux.extractLsb' 0 9)) (unnum 64 (f.c)))
  | 5 => some (.dsweep (Ty.ofCode f.ty) (unnum 512 (f.aux.extractLsb' 0 9)) (bit (f.aux.extractLsb' 9 1)) (bit (f.aux.extractLsb' 10 1)) (unnum 64 (f.c)))
  | _ => none

/-- MAJ 0x64. -/
noncomputable def cand64 (f : FX) : Option Instr :=
  match f.fn.toNat with
  | 0 | 1 | 2 | 3 | 4 | 5 | 6 | 7 | 8 | 9 | 10 | 11 | 12 | 13 | 14 => some (.dmacVI (Ty.ofCode4 (f.fn.extractLsb' 0 4)) (unnum 512 (f.imma.extractLsb' 7 9)) ⟨unnum 32 f.d, bit f.ca⟩ ⟨unnum 32 f.b, bit f.cb⟩ (f.immb.extractLsb' 8 8) (f.immb.extractLsb' 0 8))
  | 16 | 17 | 18 | 19 | 20 | 21 | 22 | 23 | 24 | 25 | 26 | 27 | 28 | 29 | 30 => some (.dmacLI (Ty.ofCode4 (f.fn.extractLsb' 0 4)) (unnum 512 (f.imma.extractLsb' 7 9)) (f.immb.extractLsb' 8 8) (f.immb.extractLsb' 0 8))
  | 32 | 33 | 34 | 35 | 36 | 37 | 38 | 39 | 40 | 41 | 42 | 43 | 44 | 45 | 46 => some (.dmacsI (Ty.ofCode4 (f.fn.extractLsb' 0 4)) (unnum 512 (f.imma.extractLsb' 7 9)) (f.imma.extractLsb' 0 7) (f.immb.extractLsb' 8 8) (f.immb.extractLsb' 0 8))
  | 48 | 49 | 50 | 51 | 52 | 53 | 54 | 55 | 56 | 57 | 58 | 59 | 60 | 61 | 62 => some (.dmovi (Ty.ofCode4 (f.fn.extractLsb' 0 4)) (unnum 512 (f.imma.extractLsb' 7 9)) (f.imma.extractLsb' 0 7) f.immb)
  | _ => none

/-- MAJ 0x68. -/
noncomputable def cand68 (f : FR) : Option Instr :=
  match f.fn.toNat with
  | 0 => some (.sopenAff (Ty.ofCode f.ty) (Space.ofCode (f.aux.extractLsb' 0 2)) (unnum 8 (f.d)) (unnum 64 (f.a)) (unnum 64 (f.b)) (unnum 64 (f.c)))
  | 1 => some (.sopenInd (Ty.ofCode f.ty) (Space.ofCode (f.aux.extractLsb' 0 2)) (Space.ofCode (f.aux.extractLsb' 2 2)) (bit (f.aux.extractLsb' 4 1)) (unnum 8 (f.d)) (unnum 64 (f.a)) (unnum 64 (f.b)) (unnum 64 (f.c)))
  | 2 => some (.sopenFib (Ty.ofCode f.ty) (Space.ofCode (f.aux.extractLsb' 0 2)) (Space.ofCode (f.aux.extractLsb' 2 2)) (FibEnc.ofCode (f.aux.extractLsb' 4 3)) (unnum 8 (f.d)) (unnum 64 (f.a)) (unnum 64 (f.b)) (unnum 64 (f.c)))
  | 3 => some (.snext (unnum 32 (f.d)) (if bit (f.aux.extractLsb' 0 1) then some (unnum 32 f.c) else none) (unnum 8 (f.a)) (unnum 64 (f.b)))
  | 4 => some (.sdone (unnum 64 (f.d)) (unnum 8 (f.b)) (unnum 8 (f.a)))
  | 5 => some (.sseek (bit (f.aux.extractLsb' 0 1)) (unnum 8 (f.a)) (unnum 64 (f.b)))
  | 6 => some (.sclose (unnum 8 (f.a)))
  | _ => none

/-- MAJ 0x69. -/
noncomputable def cand69 (f : FR) : Option Instr :=
  match f.fn.toNat with
  | 0 => some (.cxopen (bit (f.aux.extractLsb' 0 1)) (bit (f.aux.extractLsb' 1 1)) (unnum 8 (f.a)) (unnum 8 (f.b)))
  | 1 => some (.cxnext (unnum 64 (f.d)) (unnum 32 (f.a)) (unnum 32 (f.b)) (unnum 32 (f.c)))
  | 2 => some (.cxsplit (unnum 64 (f.a)))
  | 3 => some (.cxclaim (Scope.ofCode (f.aux.extractLsb' 4 3)) (unnum 64 (f.d)) (unnum 64 (f.a)))
  | 4 => some (.cxstat (unnum 64 (f.d)) (f.aux.extractLsb' 0 3))
  | 5 => some (.cxsave (Space.ofCode (f.aux.extractLsb' 0 2)) (unnum 64 (f.a)))
  | 6 => some (.cxload (Space.ofCode (f.aux.extractLsb' 0 2)) (unnum 64 (f.a)))
  | _ => none

/-- MAJ 0x70. -/
noncomputable def cand70 (f : FR) : Option Instr :=
  match f.fn.toNat with
  | 0 => some (.cpset (unnum 16 (f.aux.extractLsb' 5 4)) (f.aux.extractLsb' 0 5) (Space.ofCode (f.aux.extractLsb' 9 2)) (unnum 64 (f.a)))
  | 1 => some (.cpget (unnum 64 (f.d)) (unnum 16 (f.aux.extractLsb' 5 4)) (f.aux.extractLsb' 0 5))
  | 2 => some (.cplaunch (unnum 64 (f.d)) (unnum 16 (f.aux.extractLsb' 5 4)))
  | 3 => some (.cpwait (unnum 64 (f.d)) (unnum 64 (f.a)))
  | 4 => some (.cpwm (unnum 64 (f.d)) (unnum 16 (f.aux.extractLsb' 5 4)) (unnum 64 (f.a)))
  | 5 => some (.cpcancel (unnum 16 (f.aux.extractLsb' 5 4)))
  | 6 => some (.cparm (unnum 64 (f.d)) (unnum 16 (f.aux.extractLsb' 5 4)) (unnum 64 (f.a)) (unnum 64 (f.b)))
  | _ => none

/-- MAJ 0x71. -/
noncomputable def cand71 (f : FR) : Option Instr :=
  match f.fn.toNat with
  | 0 => some (.cpexport (unnum 64 (f.d)) (unnum 64 (f.a)) (unnum 64 (f.b)))
  | _ => none

/-- MAJ 0x76. -/
noncomputable def cand76 (f : FR) : Option Instr :=
  match f.fn.toNat with
  | 0 => some (.tret)
  | 1 => some (.tlbinv (TlbKind.ofCode (f.aux.extractLsb' 0 2)) (bit (f.aux.extractLsb' 2 1)) (unnum 64 (f.a)) (unnum 64 (f.b)))
  | 2 => some (.ctxsave (unnum 64 (f.d)) (unnum 64 (f.a)) (unnum 64 (f.b)))
  | 3 => some (.ctxload (unnum 64 (f.a)))
  | 4 => some (.dspill (unnum 512 (f.aux.extractLsb' 0 9)) (unnum 64 (f.a)))
  | 5 => some (.dfill (unnum 512 (f.aux.extractLsb' 0 9)) (unnum 64 (f.a)))
  | 6 => some (if bit (f.aux.extractLsb' 0 1) then .wbtagSet (unnum 64 (f.d)) (unnum 64 (f.a)) else .wbtag (unnum 64 (f.d)))
  | 7 => some (.idle)
  | 8 => some (.pmode (unnum 64 (f.a)))
  | 9 => some (.qpost (unnum 64 (f.d)) (unnum 64 (f.a)) (unnum 64 (f.b)))
  | 10 => some (.errlog (unnum 64 (f.a)) (unnum 64 (f.b)))
  | 11 => some (.dutyset (unnum 64 (f.d)) (unnum 64 (f.a)))
  | _ => none

/-- The restricted opcodes of Table 6.7. -/
def candSlot (f : SlotF) : Option Instr :=
  match f.rop.toNat with
  | 0 => some (.nop)
  | 1 => some (.mov (unnum 64 (f.da)) (unnum 64 (f.s)))
  | 2 => some (.addiR (unnum 64 (f.da)) (f.imm))
  | 3 => some (.addR (unnum 64 (f.da)) (unnum 64 (f.s)))
  | 4 => some (.subR (unnum 64 (f.da)) (unnum 64 (f.s)))
  | 5 => some (.andR (unnum 64 (f.da)) (unnum 64 (f.s)))
  | 6 => some (.orR (unnum 64 (f.da)) (unnum 64 (f.s)))
  | 7 => some (.xorR (unnum 64 (f.da)) (unnum 64 (f.s)))
  | 8 => some (.shli (unnum 64 (f.da)) (f.imm.extractLsb' 0 6))
  | 9 => some (.shri (unnum 64 (f.da)) (f.imm.extractLsb' 0 6))
  | 10 => some (.sraiR (unnum 64 (f.da)) (f.imm.extractLsb' 0 6))
  | 11 => some (.ldR (unnum 64 (f.da)) (unnum 64 (f.s)) (f.imm))
  | 12 => some (.stR (unnum 64 (f.da)) (unnum 64 (f.s)) (f.imm))
  | 13 => some (.beqz (unnum 64 (f.da)) (f.imm))
  | 14 => some (.bnez (unnum 64 (f.da)) (f.imm))
  | 15 => some (.wmovR (unnum 48 (f.da)) (unnum 48 (f.s)))
  | 16 => some (.waddiR (unnum 48 (f.da)) (f.imm))
  | 17 => some (.waddR (unnum 48 (f.da)) (unnum 48 (f.s)))
  | 18 => some (.wfaddR (unnum 48 (f.da)) (unnum 48 (f.s)))
  | 19 => some (.wfmulR (unnum 48 (f.da)) (unnum 48 (f.s)))
  | 20 => some (.wlatR (unnum 48 (f.da)) (unnum 2 (f.imm.extractLsb' 0 1)))
  | 21 => some (.wfmalR (unnum 48 (f.da)) (unnum 48 (f.s)) (unnum 2 (f.imm.extractLsb' 0 1)))
  | 22 => some (.vaddiR (unnum 32 (f.da)) (f.imm))
  | 23 => some (.vmov (unnum 32 (f.da)) (unnum 32 (f.s)))
  | 24 => some (.setvli (unnum 64 (f.da)) (f.imm))
  | 25 => some (.tfetchR (f.imm))
  | 26 => some (.tstopR)
  | _ => none

/-- The instruction a full word names, before its operands and reserved fields are checked. -/
noncomputable def candidate (w : Word) : Option Instr :=
  match (w.extractLsb' 56 7).toNat with
  | 0x00 => cand00 (frOf w)
  | 0x01 => cand01 (frOf w)
  | 0x02 => cand02 (frOf w)
  | 0x08 => cand08 (fiOf w)
  | 0x0E => cand0E (fxOf w)
  | 0x10 => cand10 (frOf w)
  | 0x16 => cand16 (fiOf w)
  | 0x18 => cand18 (fbOf w)
  | 0x19 => cand19 (fbOf w)
  | 0x1A => cand1A (frOf w)
  | 0x1B => cand1B (fiOf w)
  | 0x1C => cand1C (fxOf w)
  | 0x1D => cand1D (frOf w)
  | 0x1E => cand1E (frOf w)
  | 0x1F => cand1F (fiOf w)
  | 0x20 => cand20 (frOf w)
  | 0x21 => cand21 (frOf w)
  | 0x22 => cand22 (frOf w)
  | 0x23 => cand23 (frOf w)
  | 0x2C => cand2C (fiOf w)
  | 0x30 => cand30 (frOf w)
  | 0x31 => cand31 (frOf w)
  | 0x39 => cand39 (fxOf w)
  | 0x3A => cand3A (fiOf w)
  | 0x3C => cand3C (frOf w)
  | 0x3D => cand3D (frOf w)
  | 0x3E => cand3E (frOf w)
  | 0x3F => cand3F (frOf w)
  | 0x40 => cand40 (frOf w)
  | 0x44 => cand44 (fiOf w)
  | 0x45 => cand45 (fiOf w)
  | 0x46 => cand46 (fiOf w)
  | 0x47 => cand47 (fiOf w)
  | 0x48 => cand48 (fiOf w)
  | 0x50 => cand50 (frOf w)
  | 0x51 => cand51 (frOf w)
  | 0x58 => cand58 (frOf w)
  | 0x59 => cand59 (frOf w)
  | 0x5A => cand5A (frOf w)
  | 0x5B => cand5B (frOf w)
  | 0x5C => cand5C (frOf w)
  | 0x60 => cand60 (frOf w)
  | 0x61 => cand61 (frOf w)
  | 0x64 => cand64 (fxOf w)
  | 0x68 => cand68 (frOf w)
  | 0x69 => cand69 (frOf w)
  | 0x70 => cand70 (frOf w)
  | 0x71 => cand71 (frOf w)
  | 0x76 => cand76 (frOf w)
  | 0x7C | 0x7D => some (.hint (bit (w.extractLsb' 56 1)) (w.extractLsb' 1 55))
  | _ => none

/-- The fields of a full word in the layout its major opcode fixes (R124). -/
def rawOf (w : Word) : Option Raw :=
  match (w.extractLsb' 56 7).toNat with
  | 0x00 => some (.fr (frOf w))
  | 0x01 => some (.fr (frOf w))
  | 0x02 => some (.fr (frOf w))
  | 0x08 => some (.fi (fiOf w))
  | 0x0E => some (.fx (fxOf w))
  | 0x10 => some (.fr (frOf w))
  | 0x16 => some (.fi (fiOf w))
  | 0x18 => some (.fb (fbOf w))
  | 0x19 => some (.fb (fbOf w))
  | 0x1A => some (.fr (frOf w))
  | 0x1B => some (.fi (fiOf w))
  | 0x1C => some (.fx (fxOf w))
  | 0x1D => some (.fr (frOf w))
  | 0x1E => some (.fr (frOf w))
  | 0x1F => some (.fi (fiOf w))
  | 0x20 => some (.fr (frOf w))
  | 0x21 => some (.fr (frOf w))
  | 0x22 => some (.fr (frOf w))
  | 0x23 => some (.fr (frOf w))
  | 0x2C => some (.fi (fiOf w))
  | 0x30 => some (.fr (frOf w))
  | 0x31 => some (.fr (frOf w))
  | 0x39 => some (.fx (fxOf w))
  | 0x3A => some (.fi (fiOf w))
  | 0x3C => some (.fr (frOf w))
  | 0x3D => some (.fr (frOf w))
  | 0x3E => some (.fr (frOf w))
  | 0x3F => some (.fr (frOf w))
  | 0x40 => some (.fr (frOf w))
  | 0x44 => some (.fi (fiOf w))
  | 0x45 => some (.fi (fiOf w))
  | 0x46 => some (.fi (fiOf w))
  | 0x47 => some (.fi (fiOf w))
  | 0x48 => some (.fi (fiOf w))
  | 0x50 => some (.fr (frOf w))
  | 0x51 => some (.fr (frOf w))
  | 0x58 => some (.fr (frOf w))
  | 0x59 => some (.fr (frOf w))
  | 0x5A => some (.fr (frOf w))
  | 0x5B => some (.fr (frOf w))
  | 0x5C => some (.fr (frOf w))
  | 0x60 => some (.fr (frOf w))
  | 0x61 => some (.fr (frOf w))
  | 0x64 => some (.fx (fxOf w))
  | 0x68 => some (.fr (frOf w))
  | 0x69 => some (.fr (frOf w))
  | 0x70 => some (.fr (frOf w))
  | 0x71 => some (.fr (frOf w))
  | 0x76 => some (.fr (frOf w))
  | 0x7C | 0x7D => some (.hint (bit (w.extractLsb' 56 1)) (w.extractLsb' 1 55))
  | _ => none

/-- A candidate is the instruction when its operands are legal and its fields are the ones its entry gives (R125). -/
def accept (i : Instr) (r : Raw) : Except DecodeError Instr :=
  if fields i = some r then (if legal i then .ok i else .error .illegalOperand) else .error .reservedField

/-- Decode of a full word. -/
noncomputable def decodeFull (w : Word) : Except DecodeError Instr :=
  match candidate w, rawOf w with
  | some i, some r => accept i r
  | _, _ => .error .unassigned

/-- Decode of a restricted slot. -/
def decodeSlot (s : BitVec 31) : Except DecodeError Instr :=
  match candSlot (slotOf s) with
  | some i => accept i (.slot (slotOf s))
  | none => .error .unassigned

/-- How often `b` occurs. -/
def countOf (b : Nat) (l : List Nat) : Nat := (l.filter (· == b)).length

/-- The pairing limits of R133: at most two reads in an x bank, no w bank read twice, no register written twice, at most one
vector-unit instruction and at most one control transfer. -/
def pairOk (hi lo : Instr) : Bool :=
  let h := info hi
  let l := info lo
  let xb := (h.rx ++ l.rx).map fun r => r.val % 4
  let wbk := (h.rw ++ l.rw).map fun r => r.val % 6
  let setsVl (i : Instr) : Bool := match i with | .setvli _ _ => true | _ => false
  xb.all (fun b => decide (countOf b xb ≤ 2))
    && wbk.all (fun b => decide (countOf b wbk ≤ 1))
    && h.wx.all (fun r => r == 0 || !l.wx.contains r)
    && h.ww.all (fun r => !l.ww.contains r)
    && !(setsVl hi && setsVl lo)
    && !(h.vec && l.vec)
    && !(h.transfer && l.transfer)

/-- What one instruction word holds. -/
inductive Body
  | full (i : Instr)
  | pair (hi lo : Instr)
  deriving DecidableEq, Repr

/-- The convoy-end bit of a word (R115). -/
def lastBit (w : Word) : Bool := bit (w.extractLsb' 0 1)

/-- Decode of one instruction word, full or pair (R115). -/
noncomputable def decodeWord (w : Word) : Except DecodeError Body :=
  if bit (w.extractLsb' 63 1) then
    match decodeSlot (w.extractLsb' 32 31), decodeSlot (w.extractLsb' 1 31) with
    | .ok h, .ok l => if pairOk h l then .ok (.pair h l) else .error .pairingLimit
    | .error e, _ => .error e
    | _, .error e => .error e
  else
    match decodeFull w with
    | .ok i => .ok (.full i)
    | .error e => .error e

/-- The instructions of a word, in the order they take effect (R39). -/
def Body.instrs : Body → List Instr
  | .full i => [i]
  | .pair h l => [h, l]

/-- The word of an instruction that ends its convoy; a restricted form stands in the high slot, `nop` in the low one. An
event has no word. -/
def encode (i : Instr) : Option Word :=
  match fields i with
  | some r => some (r.word true)
  | none => none

/-- The instruction the decoder reads from a word whose bits are `w`, bit 0 the least significant bit of the first word.
A word of this hardware has 64 bits, so `nbits` is at most 64; the bits above it are zero. Of a pair the answer is the
instruction in the high slot, or the one in the low slot where the high slot holds `nop`. -/
noncomputable def decodeTableWord (nbits w : Nat) : Option Instr :=
  match decodeWord (BitVec.ofNat 64 (w % 2 ^ nbits)) with
  | .ok (.full i) => some i
  | .ok (.pair .nop l) => some l
  | .ok (.pair h _) => some h
  | .error _ => none

end Sys2Proof
end

