-- ==== Sys2Proof/Config.lean ====
section
/-!
DEFINITION. What the spec leaves to an implementation or leaves open, as constants without a body: no proof can see a
value of theirs. Each is named in the assumption log.
-/

namespace Sys2Proof.Config

/-- Microseconds of device time that pass with a step, for the step's number (log entry 3). -/
opaque elapsed : Nat → Nat
/-- Which stored element a BAG pop returns, before reduction modulo the count (R231; log entry 8). -/
opaque bagPick : Nat → Nat
/-- The element of a value the spec leaves unstated, by the number of the draw and the place in it (log entry 13). -/
opaque freeWord : Nat → Nat → BitVec 64
/-- The fused SHA-512 hash of the firmware key (R466; log entry 12). -/
opaque keyHash : BitVec 512
/-- The fused seed of the identity key pair (R464, R470; log entry 12). -/
opaque identitySeed : BitVec 256
/-- Module power in watts at a device time (R464 PNOW; log entry 12). -/
opaque powerNow : Nat → Nat

end Sys2Proof.Config
end

