-- ==== Sys2Proof/Machine/State.lean ====
section
/-!
DEFINITION. The state of a Nersen D4 as plain data: 192 cores with their threads, the memory of the device, the command
processor, the host's pages and the boot sequencer; then what is the model's own (the agenda of turns, the core whose turn it
is, the convoy that runs); the outcomes of a step; and the state right after a device reset. INVENTORY.md lists every field
with the rule of spec/ that names it.
-/

namespace Sys2Proof.Machine

/-- Bytes by address in canonical form: addresses strictly rising, no zero byte listed (every store of the device reads zero
where nothing was written: 25_bringup R467). -/
abbrev Memory := List Host.Cell

/-- A vector register (R70 to R72, R89, R90). -/
structure VecReg where
  data : BitVec 65536 := 0
  ty : Ty := .z32
  span : BitVec 3 := 0
  side : BitVec 2048 := 0
  dirty : Bool := false
  hwm : Nat := 0
  sdirty : Bool := false
  deriving DecidableEq, Repr

/-- An accumulator slot and its owner field (R74); value j is bits 32j to 32j + 31. -/
structure SlotReg where
  vals : BitVec 4096 := 0
  owner : Option Half := none
  deriving DecidableEq, Repr

/-- `VSTART` (R84). -/
structure VStart where
  word : BitVec 2 := 0
  elem : BitVec 14 := 0
  deriving DecidableEq, Repr

/-- `LWk` (R77) and what binds it (R393): `role` 1 a producer, 2 a consumer of channel `chan` with a range. -/
structure LinkReg where
  en : Bool := false
  mark : BitVec 63 := 0
  role : Nat := 0
  chan : Nat := 0
  start : Word := 0
  len : Nat := 0
  deriving DecidableEq, Repr

/-- A virtual processor (R53, R55, R78, R80, R428); `held` marks one whose AIB was discarded and waits for service (R59, R62). -/
structure Vp where
  w : Vector Half 48 := Vector.replicate 48 0
  latch : Vector Half 2 := Vector.replicate 2 0
  hold : Vector Bool 2 := Vector.replicate 2 false
  next : Word := 0
  runnable : Bool := false
  trap : Option (BitVec 8 × Word) := none
  held : Bool := false
  /-- the tag of its fault at the host (R430) -/
  asked : Option Nat := none
  nctl : BitVec 10 := 0
  seed : Half := 0
  deriving DecidableEq, Repr

/-- A store of an AIB, held until the AIB completes (R61). -/
structure HeldStore where
  addr : Nat
  n : Nat
  v : Half
  deriving DecidableEq, Repr

/-- What a terminator does when its AIB completes (R55, R157). -/
inductive VpTerm
  | goto (next : Word)
  | stop
  deriving DecidableEq, Repr

/-- A leaf translation (R414). -/
structure Leaf where
  /-- virtual base, level and physical base of the page -/
  va : Nat
  lvl : Nat
  pa : Nat
  w : Bool
  x : Bool
  u : Bool
  g : Bool
  kind : Nat
  /-- the attribute entry of a page of kind 1 to 3 (R411): P, VBASE, and its three dwords -/
  p : Nat := 0
  vbase : Nat := 0
  d1 : Word := 0
  d2 : Word := 0
  d3 : Word := 0
  deriving DecidableEq, Repr

/-- A TLB entry (R414). -/
structure TlbEntry where
  asid : BitVec 16
  leaf : Leaf
  deriving DecidableEq, Repr

/-- Words of a convoy that are still to run: their place in it, and the stage of a `vbfly` before them (R188); the translations their checks
made, which they keep (R42, R376); and whether what stands before them commits whatever they meet (R427). -/
structure Rest where
  words : List Word
  idx : Nat
  stage : Option (BitVec 65536) := none
  pin : List TlbEntry := []
  sent : Bool := false
  deriving DecidableEq, Repr

/-- A convoy of the control thread whose words before `rest` stand for good (log entries 23 and 24): the address of its first word. -/
structure Split where
  pc : Word
  rest : Rest
  deriving DecidableEq, Repr

/-- The hamper operation of an AIB (R61, R235): the descriptor's physical address, the value a push pushes, its destination, and
how many stores stand before it; the VP and its `wput` writes as they stood there, and the words that follow it, which run once its
value has returned (R159); once it is sent, its tag; once it has returned, its value. -/
structure VpHop where
  va : Word := 0
  desc : Nat
  push : Option Word
  d : WReg
  pre : Nat
  st : Vp
  puts : List (VReg × Half)
  rest : Rest
  tag : Option Nat := none
  v : Option Word := none
  deriving DecidableEq, Repr

/-- An AIB in progress (R58, R61): the VP as its instructions leave it, and what is held. -/
structure VpRun where
  vp : Nat
  st : Vp
  /-- the elements `wput` wrote, latest first -/
  puts : List (VReg × Half) := []
  /-- the held stores, in program order -/
  stores : List HeldStore := []
  /-- the address of the convoy that runs, and how many convoys have completed -/
  pc : Word
  done : Nat := 0
  /-- the terminator, once it has run -/
  term : Option VpTerm := none
  hop : Option VpHop := none
  /-- the w registers that depend on the value of the hamper operation while it has not returned, and whether a store, latch or `wput` does -/
  unk : List WReg := []
  unkHeld : Bool := false
  deriving DecidableEq, Repr

/-- A stream image (Table 11.1); kind 0 closed, 1 affine, 2 indirect, 3 fibre. -/
structure Stream where
  kind : Nat := 0
  opa : Word := 0
  opb : Word := 0
  opc : Word := 0
  pos : Half := 0
  unit : Half := 0
  sub : Half := 0
  last : Half := 0
  enc : FibEnc := .idx16
  ty : Ty := .s8
  spa : Space := .glob
  spb : Space := .glob
  iw16 : Bool := false
  lv : Bool := false
  bnd : Bool := false
  vb : Bool := false
  /-- the model's own: the level whose addresses its arrays have -/
  lvl : BitVec 2 := 0
  deriving DecidableEq, Repr

/-- The engine part of the coordinate engine (Table 11.5). -/
structure Cde where
  bound : Bool := false
  union : Bool := false
  tol : Bool := false
  claimed : Bool := false
  pending : Bool := false
  sa : SReg := 0
  sb : SReg := 0
  t : Half := 0
  seg : Half := 0
  emitted : Half := 0
  dupa : Half := 0
  dupb : Half := 0
  deriving DecidableEq, Repr

/-- An operand latch of the DME (R248, R250): position e is bits 1,024e up of `pos`, its scales bits 64e up of `scales`;
`reload` marks a latch whose load a restored thread repeats before its first reader (R249). -/
structure Latch where
  valid : Bool := false
  hold : Bool := false
  ty : Ty := .s8
  pos : BitVec 131072 := 0
  scales : BitVec 8192 := 0
  addr : Word := 0
  layout : Word := 0
  scaleAddr : Word := 0
  space : Space := .ab
  reload : Bool := false
  deriving DecidableEq, Repr

/-- A spilled write of a transfer (R311). -/
structure SpillW where
  addr : Word
  bytes : List Byte
  deriving DecidableEq, Repr

/-- A byte range of one buffer: 0 global, 1 + c the AB of core c, 200 + c the WB of core c (R298). -/
structure Hull where
  buf : Nat
  lo : Nat
  hi : Nat
  deriving DecidableEq, Repr

/-- A copy transfer in flight (R289, R299, R303): the latched registers, the numeric state of its launch, its hulls, the
number of elements passed, and the elements whose read or write waits (R311). -/
structure Transfer where
  regs : Vector Word 29
  q : BitVec 24
  nctl : BitVec 10
  seed : Half
  ctr : Half
  srcH : List Hull
  dstH : List Hull
  total : Nat
  cursor : Nat := 0
  held : List Nat := []
  spilled : List (Nat × SpillW) := []
  /-- elements written whose remote acknowledgement is outstanding, oldest first, and whether they went to the host (R461) -/
  unacked : List (Nat × Bool) := []
  /-- held for the PROCEED command (R460), or paused by `ctxsave` (R433) -/
  waits : Bool := false
  paused : Bool := false
  /-- it needs no PROCEED any more, or none ever; and the KiBs it has stamped, by buffer (R308) -/
  cleared : Bool := false
  stamped : List (Nat × Nat) := []
  /-- waits for the host to answer a fault, to replay spills, and to let it proceed, under these tags; spilled writes whose page has been
  served -/
  tag : Option Nat := none
  spillTag : Option Nat := none
  hostTag : Option Nat := none
  served : Bool := false
  /-- it has met its end FAULTED, whose record waits for space (R453) -/
  failing : Bool := false
  /-- its place among the thread's transfers (R303) and among the instructions that wait (R304), and the level and tables of its
  translations -/
  ord : Nat := 0
  lateNo : Nat := 0
  pl : BitVec 2 := 0
  ptbr : Word := 0
  asid : BitVec 16 := 0
  deriving DecidableEq, Repr

/-- A watch entry (R222): its number in the thread's set, and the physical address of the dword. -/
structure Watch where
  no : Nat
  addr : Nat
  fired : Bool := false
  deriving DecidableEq, Repr

/-- A performed `vxch` that has not completed (R194, R434): `data` are the elements offered, and `saved` says that `va` held them before its
convoy; `pc` and `pl` are those of its convoy; `got` are the peer's elements once it has paired, and `failed` marks one that must trap
(log entry 23). -/
structure Exchange where
  peer : Nat
  group : Nat
  ord : Nat
  ty : Ty
  vl : Nat
  vd : VReg
  va : VReg
  data : BitVec 65536
  saved : Bool := true
  pc : Word
  pl : BitVec 2 := 0
  got : Option (BitVec 65536) := none
  failed : Bool := false
  deriving DecidableEq, Repr

/-- The state of a control thread: what a context switch carries (R68, R88), its watches and its transfers. -/
structure Thread where
  x : Vector Word 64 := Vector.replicate 64 0
  v : Vector VecReg 32 := Vector.replicate 32 {}
  m : Vector (BitVec 8192) 8 := Vector.replicate 8 0
  vl : Nat := 0
  ew : Ew := .w32
  slip : BitVec 4 := 4
  dl : Nat := 0
  dmode : Option DForm := none
  mn : BitVec 16 := 0
  nctl : BitVec 10 := 0
  srseed : Half := 0
  vstart : VStart := {}
  /-- the convoy, with its level, whose replay clears `VSTART` (R84; log entry 15) -/
  vstartPc : Word := 0
  vstartPl : BitVec 2 := 0
  tid : BitVec 8 := 0
  lnch : Half := 0
  gmem : Half := 0
  nthr : Nat := 0
  vps : List Vp := []
  threadMode : Bool := false
  /-- the level of the `vfetch` that began it; a context was loaded in thread mode, which begins at the next `tret` (R378) -/
  vpLevel : BitVec 2 := 0
  modeDue : Bool := false
  lastVp : Vector (Option Nat) 64 := Vector.replicate 64 none
  aib : Vector (Option VpRun) 64 := Vector.replicate 64 none
  streams : Vector Stream 8 := Vector.replicate 8 {}
  cde : Cde := {}
  latchA : Latch := {}
  latchB : Latch := {}
  fill : Half := 0
  budget : Vector Nat 128 := Vector.replicate 128 16
  shadow : Vector (Vector Word 29) 16
  seqNo : Vector (BitVec 24) 16 := Vector.replicate 16 0
  cpStatus : Vector (BitVec 2) 16 := Vector.replicate 16 0
  transfers : Vector (Option Transfer) 16 := Vector.replicate 16 none
  wm : Vector Word 16 := Vector.replicate 16 0
  lw : Vector LinkReg 8 := Vector.replicate 8 {}
  watches : List Watch := []
  xchgNo : List ((Nat × Nat) × Nat) := []
  xchg : Option Exchange := none
  deriving DecidableEq, Repr

/-- The trap registers of one level (R370). -/
structure TrapRegs where
  tvec : Word := 0
  tcause : Word := 0
  tval : Word := 0
  tepc : Word := 0
  deriving DecidableEq, Repr

/-- Pending interrupts of a core (Table 22.1). -/
structure Irqs where
  preempt : Option Word := none
  resume : Option Word := none
  spill : Option Word := none
  kill : Bool := false
  mailbox : Bool := false
  deriving DecidableEq, Repr

/-- What a waiting instruction waits for (R219). -/
inductive WaitCond
  | arr (addr : Nat) (x : Half)                                -- `wait.arr` (R220)
  | word (sp : Space) (addr : Nat) (x : Word)                  -- `wait.w` of a dword of a buffer or of global memory (R220)
  | polled (addr : Nat) (x : Word) (interval : Nat)             -- `wait.w` on a device-register page; 0: it completes (R221)
  | watch                                                      -- `wait.watch` (R223)
  | gsync (group : Nat) (gen : Half) (status : Option Nat)      -- an arrival is counted (R225)
  | gsyncW (addr : Nat) (gen : Half) (status : Option Nat)      -- an arrival is counted (R226)
  | copy (k : Chan) (q : BitVec 24)                            -- `cpwait` (R316)
  | mark (k : Chan) (x : Word)                                 -- `cpwm` (R317)
  | irq                                                        -- `idle` (R381)
  | exchange (x : Option Exchange)                             -- `vxch` (R194): the offer to make, if it is not made yet
  deriving DecidableEq, Repr

/-- Why a core does not simply run its next convoy. -/
inductive Wait
  | retry                              -- the convoy made no progress and is tried again at the core's next turn
  | firm                               -- the same, where no interrupt squashes it: `dutyset` (R219), and what commits first (R427)
  | saving                             -- the same of a `ctxsave`, for which the thread's transfers and virtual processors stand still (R63, R433)
  | host (tag : Nat)                   -- a fault record went to the host (R430)
  | waiting (c : WaitCond)             -- the convoy's waiting instruction has begun (R219)
  /-- the convoy's hamper operation was sent under a tag; its value goes to `d`, then the rest of the convoy runs (R427) -/
  | value (tag : Nat) (d : XReg) (v : Option Word)
  | ending                             -- a committed `halt` waits for the vector queue to drain (R65)
  | dying (code : BitVec 16)           -- so does a killed thread, for its committed stores (R66); then its record is written
  deriving DecidableEq, Repr

/-- A `dmeta` whose bytes the copy engine still carries (R264). -/
structure Dmeta where
  src : List Byte
  off : Nat
  deriving DecidableEq, Repr

/-- What a core does. -/
inductive CoreMode
  | off       -- before firmware starts, or retired
  | free      -- no thread is on it
  | run       -- it runs convoys
  deriving DecidableEq, Repr

/-- Where the bytes of a global access lie: the physical address, and the leaf it was translated by (R410, R412). -/
structure Phys where
  pa : Nat
  leaf : Option Leaf
  deriving DecidableEq, Repr

/-- A place in a local buffer: the core that holds it, whether it is a WB, and the offset. -/
structure Local where
  core : CoreNo
  wb : Bool
  off : Nat
  deriving DecidableEq, Repr

/-- Where the bytes of an access lie. -/
inductive Spot
  | glob (ph : Phys)
  | loc (l : Local)
  deriving DecidableEq, Repr

/-- Bytes that an instruction of the queue is to read or write, or both: their address and number, and where they lie. -/
structure Touch where
  spot : Spot
  addr : Word
  n : Nat
  read : Bool
  write : Bool
  deriving DecidableEq, Repr

/-- An instruction whose convoy has committed and that waits in the vector queue (R47, R51): it, or one before it, reads a byte above a link
watermark (R238) or one that a transfer held for the host still writes (R302); or a scalar load that stalls alone (R302). -/
structure Late where
  /-- its place among those that ever waited on the core -/
  no : Nat
  instr : Instr
  /-- its word, the address of that and its place in the convoy, and whether it is a high slot (R39, R106) -/
  word : Word
  wordAddr : Word
  wordIdx : BitVec 2
  high : Bool
  /-- the scalar side as it read it: the thread, the x registers of its level, and its translations (R39, R42) -/
  src : Thread
  bank : Vector Word 64
  pl : BitVec 2
  ptbr : Word
  asid : BitVec 16
  pin : List TlbEntry
  /-- the stage that a `vbfly` before it left (R188) -/
  stage : Option (BitVec 65536) := none
  touches : List Touch := []
  /-- the bytes it has read so far, by space, address and number of bytes; and the SPAN its checks found (R71) -/
  got : List (Space × Word × Nat × Nat) := []
  span : Option (BitVec 3) := none
  deriving DecidableEq, Repr

/-- The `PART` fields of a core but its own number (Table 19.2). -/
structure PartReg where
  pid : BitVec 8 := 0
  qmask : BitVec 4 := 0
  ncore : BitVec 8 := 0
  deriving DecidableEq, Repr

/-- A core. -/
structure Core where
  mode : CoreMode := .off
  pc : Word := 0
  pl : BitVec 2 := 2
  ie : Bool := false
  x1 : Vector Word 64 := Vector.replicate 64 0
  x2 : Vector Word 64 := Vector.replicate 64 0
  t1 : TrapRegs := {}
  t2 : TrapRegs := {}
  ptbr : Word := 0
  asid : BitVec 16 := 0
  part : PartReg := {}
  thr : Thread
  am : Vector SlotReg 512 := Vector.replicate 512 {}
  ab : Memory := []
  wb : Memory := []
  md : Memory := []
  abStamp : Vector (BitVec 3) 512 := Vector.replicate 512 0
  wbStamp : Vector (BitVec 3) 1024 := Vector.replicate 1024 0
  abPoison : List Nat := []
  wbPoison : List Nat := []
  wbTag : Half := 0
  /-- the WB tag of the launch whose thread is on the core (R380) -/
  launchTag : Half := 0
  tlb : List TlbEntry := []
  /-- the slices, and the cores' activation buffers, that hold unacknowledged writes of the thread (R338) -/
  touched : BitVec 128 := 0
  touchedBufs : BitVec 192 := 0
  irq : Irqs := {}
  /-- the launch whose thread is on the core, and whether that thread has ended -/
  launch : Option Half := none
  ended : Bool := false
  /-- an interrupt was taken while no thread ran: a return to level 0 leaves the core free -/
  idleBelow : Bool := false
  /-- `ctxsave` has stopped the thread's virtual processors (R63) -/
  vpsStopped : Bool := false
  wait : Option Wait := none
  /-- by level, a convoy whose first words stand for good and whose other words are still to run -/
  split : Vector (Option Split) 4 := Vector.replicate 4 none
  /-- the instructions that wait in the vector queue, in program order, and how many ever did -/
  late : List Late := []
  lateNo : Nat := 0
  /-- slip values of the element-group operations not yet complete in every lane, how many were before them, and how many
  operations each lane has completed (R47, R48) -/
  opBase : Nat := 0
  opSlips : List (BitVec 4) := []
  laneDone : Vector Nat 64 := Vector.replicate 64 0
  dmeta : List Dmeta := []
  /-- the image the last successful `ctxsave` wrote (R431) -/
  saved : Option Word := none
  deriving DecidableEq, Repr

/-- A pairing-table entry (R230, R420). -/
structure PairEntry where
  addr : Nat
  pid : BitVec 8
  holders : List Half
  deriving DecidableEq, Repr

/-- A hamper operation on its way (R232, R233): a push of `v`, or a pop; from a control thread, or from the VP of a lane. -/
structure Hop where
  tag : Nat
  /-- the descriptor's address as the sender names it -/
  va : Word := 0
  core : CoreNo
  lane : Option LaneNo
  pid : BitVec 8
  asid : BitVec 16
  root : Word
  pl : BitVec 2
  desc : Nat
  push : Option Word
  /-- what stands before it has been performed: it is never discarded (R45, R61) -/
  firm : Bool := false
  /-- 0 at the column switch, 1 at the slice switch, 2 on the way home -/
  stage : Nat
  /-- arrival order at the switch, and input number there -/
  seq : Nat
  input : Nat
  deriving DecidableEq, Repr

/-- One entry of the partition map in force (R422). -/
structure PartInForce where
  valid : Bool := false
  qmask : BitVec 4 := 0
  retired : BitVec 192 := 0
  ranges : List (Nat × Nat) := []
  deriving DecidableEq, Repr

/-- An entry of a group table (Table 3.2). -/
structure Group where
  num : Nat
  members : BitVec 192
  count : Nat
  arrived : Nat := 0
  gen : Half := 0
  departed : Nat := 0
  deriving DecidableEq, Repr

/-- A preload entry (R392). -/
structure Preload where
  src : Word
  dst : Nat
  space : Nat
  thread : Nat
  span : BitVec 3
  len : Nat
  deriving DecidableEq, Repr

/-- A link entry (R393). -/
structure LinkEnt where
  role : Nat
  k : Nat
  thread : Nat
  chan : Nat
  start : Word
  len : Nat
  /-- of a consumer: the launch it feeds from, by arrival, and the latest mark delivered (R394) -/
  feeds : Nat := 0
  mark : BitVec 63 := 0
  deriving DecidableEq, Repr

/-- The current producer of a link channel of a partition (R394): the launch by arrival, how many of its entries produce for
the channel, and its mark. -/
structure Producer where
  pid : PartNo
  chan : Nat
  arrival : Nat
  entries : Nat
  mark : BitVec 63 := 0
  deriving DecidableEq, Repr

/-- A queue table entry as the command processor reads it (Table 20.1); `ok` says that its zero fields are zero and its size is
one it may have (R388). -/
structure QEntry where
  ring : Nat
  comp : Nat
  size : Nat
  cls : Nat
  en : Bool
  pid : Nat
  asid : BitVec 16
  root : Word
  head : Nat
  tail : Nat
  ok : Bool
  deriving DecidableEq, Repr

/-- Where the preloads of a dispatched launch stand (R395): applied, held for the host under a tag (R430), or unrecoverable. -/
inductive Loading
  | done
  | asked (tag : Nat)
  | failed
  deriving DecidableEq, Repr

/-- Where a launch stands between its slot and its completion. -/
inductive LaunchSt
  | held | ready | resident | preempting | preempted
  deriving DecidableEq, Repr

/-- A launch known to the command processor (R390 to R403). -/
structure Launch where
  id : Half := 0
  queue : QueueNo
  pos : Half
  /-- the queue entry as it stood when the slot was taken (R387) -/
  ent : QEntry
  pid : PartNo
  entry : Word
  param : Word
  nthr : Nat
  groups : List Group
  preloads : List Preload
  links : List LinkEnt
  dropLate : Bool
  deadline : Half
  wbtag : Half
  arrival : Nat
  st : LaunchSt := .held
  readyAt : Nat := 0
  starving : Option Nat := none
  cores : List CoreNo := []
  endedThreads : List Nat := []
  images : List (Nat × Word) := []
  oldCores : List CoreNo := []
  late : Bool := false
  dispatchedAt : Nat := 0
  killed : Bool := false
  loading : Loading := .done
  /-- threads whose slots the SPILL handler of the core left must move first (R436) -/
  moving : List (Nat × CoreNo) := []
  /-- threads of a resumed launch that are not restored yet (R34, R398); saved threads with a transfer that is not finished (R29, R433) -/
  resuming : List Nat := []
  inFlight : List Nat := []
  /-- threads that were killed while they were saved: their transfers are cancelled (R437) -/
  cut : List Nat := []
  /-- the replay it belongs to, and its place in it (R402) -/
  replay : Option (Nat × Nat) := none
  deriving DecidableEq, Repr

/-- A replay of a graph (R401, R402). -/
structure Replay where
  num : Nat
  queue : QueueNo
  pos : Half
  ent : QEntry
  obj : Nat
  descs : List Nat
  overlap : Bool
  ncopy : Nat
  pbsize : Nat
  pbbase : Nat
  copies : Nat
  /-- offset, size and value of each patch entry -/
  patch : List (Nat × Nat × Nat)
  submitted : Nat
  /-- the copy slot it runs on; and of its last launch run, the id, the dispatch time and whether that was late -/
  copy : Option Nat := none
  lastId : Half := 0
  lastTime : Nat := 0
  lastLate : Bool := false
  deriving DecidableEq, Repr

/-- The fields of a mailbox page (R451). -/
structure Mailbox where
  htod : Word := 0
  dtoh : Word := 0
  deriving DecidableEq, Repr

/-- What an outstanding event asks the host for (Table 24.3). -/
inductive Ask
  | faultCore (c : CoreNo) (code : BitVec 8) (va : Word) (vec : Option VStart)
  | faultVp (c : CoreNo) (v : Nat) (code : BitVec 8) (va : Word)
  | faultElem (c : CoreNo) (k : Chan)
  | spill (c : CoreNo) (k : Chan)
  | remote (c : CoreNo) (k : Chan)
  | preload (n : Nat)
  deriving DecidableEq, Repr

/-- What of a saved thread the context image has no place for and R88, R195 and R433 keep: its transfers whole, its exchange counts
and pending exchange, the numeric state and turns of its virtual processors, and the words left of a convoy whose first words stand. -/
structure Kept where
  lnch : Half
  tid : BitVec 8
  transfers : Vector (Option Transfer) 16
  xchgNo : List ((Nat × Nat) × Nat)
  xchg : Option Exchange
  vpNum : List (BitVec 10 × Half)
  split : Option Split
  lastVp : Vector (Option Nat) 64
  deriving DecidableEq, Repr

/-- A record the host is to be sent (R453): type, core, payload, and what it asks. -/
structure Event where
  ty : Nat
  core : Nat
  tag : Nat
  payload : List Byte
  deriving DecidableEq, Repr

/-- A partition channel (R453), the questions outstanding on it and the records that wait for space. -/
structure PChan where
  ebase : Word := 0
  esize : Word := 0
  ewrite : Half := 0
  eread : Half := 0
  cmd : Vector Byte 64 := Vector.replicate 64 0
  cstat : BitVec 2 := 0
  asks : List (Nat × Ask) := []
  waiting : List Event := []
  deriving DecidableEq, Repr

/-- The boot and power page (R464), with the mark of R470 for an image admitted by recovery. -/
structure Boot where
  breq : Bool := false
  phase : BitVec 2 := 0
  result : BitVec 3 := 0
  fwvUsed : Bool := false
  slen : Word := 0
  digest : BitVec 512 := 0
  nonce : BitVec 256 := 0
  astat : BitVec 2 := 0
  report : List Byte := List.replicate 256 0
  plimit : Word := 2400
  /-- the limit before the last write that lowered PLIMIT, and the time of that write (R473) -/
  plimitOld : Word := 2400
  plimitAt : Nat := 0
  thr : BitVec 5 := 16
  byRecovery : Bool := false
  /-- the `DUTY`.FWV under which the image in the flash was admitted (R464) -/
  admitFwv : Bool := false
  /-- the staged image is the one under verification, not the flash image; and the host's verdict on it is awaited (R469) -/
  staged : Bool := false
  awaiting : Bool := false
  deriving DecidableEq, Repr

/-- A convoy that waits in its waiting instruction (R219): that word and those after it, and the core before the convoy and as the words
before that one left it. -/
structure Held where
  rest : Rest
  before : Core
  ahead : Core
  deriving DecidableEq, Repr

/-- The device. -/
structure Device where
  cores : Vector Core 192
  /-- by core, the convoy that waits there -/
  held : Vector (Option Held) 192 := Vector.replicate 192 none
  /-- global memory by physical address (Table 21.1), and its poisoned granules of 64 bytes (R438) -/
  mem : Memory := []
  poison : List Nat := []
  /-- memory of other devices and of the host: fabric id × 2^39 + offset, 2^64 + host address (R458) -/
  remote : Memory := []
  dstate : BitVec 2 := 1
  duty : BitVec 6 := 0
  pwin : Vector (BitVec 4) 4 := Vector.replicate 4 4
  pairTab : Vector (List PairEntry) 4 := Vector.replicate 4 []
  hops : List Hop := []
  parts : Vector PartInForce 4 := Vector.replicate 4 {}
  time : Nat := 0
  launches : List Launch := []
  replays : List Replay := []
  producers : List Producer := []
  /-- saved threads, latest first -/
  kept : List Kept := []
  /-- slots that were unreadable or invalid at their last read, by queue (R389) -/
  stuck : List (QueueNo × Half) := []
  mailboxes : Vector Mailbox 192 := Vector.replicate 192 {}
  chans : Vector PChan 4 := Vector.replicate 4 {}
  msix : List Nat := []
  portUp : BitVec 16 := 0
  retries : Vector Nat 16 := Vector.replicate 16 0
  fid : BitVec 20 := 0
  boot : Boot := {}
  flash : Memory := []
  /-- what the last host read returned (R448) -/
  hostData : List Byte := []
  /-- numbers the model draws: launch ids (R398), arrivals (R396), tags (R453) -/
  nextId : Half := 1
  nextArrival : Nat := 0
  nextTag : Nat := 1
  deriving DecidableEq, Repr

/-- Why a convoy does not commit with its last word: its hamper operation is to be sent under a tag for register `d` (R427), its waiting
instruction or its `vxch` waits (R219, R194), an instruction waits for the thread mode its own convoy began (R56, R57, R65), or one after the
hamper operation waits for thread mode to end, before which the convoy does not commit (R65). -/
inductive StopWhy
  | hop (tag : Nat) (d : XReg)
  | wait (c : WaitCond)
  | mode
  | again
  deriving DecidableEq, Repr

/-- The instruction a convoy stops at: the device as it is when that instruction has begun, and the words to run then. -/
structure Stop where
  why : StopWhy
  dev : Device
  rest : Rest
  deriving DecidableEq, Repr

/-- How an instruction of the vector queue runs: it issues, as the first that waits or behind others, for its checks alone; or its turn has
come. -/
inductive LateMode
  | first | behind | turn
  deriving DecidableEq, Repr

/-- An instruction of the vector queue that runs, and what it has read and is to touch. -/
structure LateRun where
  mode : LateMode
  no : Nat
  touches : List Touch := []
  got : List (Space × Word × Nat × Nat) := []
  span : Option (BitVec 3) := none
  deriving DecidableEq, Repr

/-- The convoy, or the convoy of an AIB, that runs. -/
structure Ctx where
  active : Bool := false
  /-- its words from the one that runs on; whether decode has checked them (R135); whether the low slot of a pair runs -/
  words : List Word := []
  checked : Bool := false
  low : Bool := false
  /-- the address of its first word, of the word after its last, and of the convoy that follows it (R123) -/
  addr : Word := 0
  next : Word := 0
  npc : Word := 0
  /-- the word that runs: its bits, its address, its place, and whether its high slot runs (R106) -/
  word : Word := 0
  wordAddr : Word := 0
  wordIdx : BitVec 2 := 0
  high : Bool := false
  /-- the sources of a low slot: the core as it stood before its word (R39) -/
  src : Option Core := none
  /-- the AIB that runs, on which lane (R58) -/
  vp : Option VpRun := none
  lane : LaneNo := 0
  vpSrc : Option Vp := none
  /-- the result of a `vbfly` with NW = 1 (R188) -/
  stage : Option (BitVec 65536) := none
  /-- the instruction the convoy stops at; the words after it run without effect, so that their traps come first (R42) -/
  stop : Option Stop := none
  /-- the value of a sent operation, or of an arrival, has come: the convoy commits before any interrupt (R225, R427) -/
  sent : Bool := false
  /-- its `idle` has completed: it commits before the interrupt that is pending (R381) -/
  idled : Bool := false
  /-- the turn took a synchronous trap, or asked the host about one (R426, R430) -/
  trapped : Bool := false
  /-- the translations of its checks (R42) -/
  pin : List TlbEntry := []
  /-- the instruction that runs has met a byte it must wait for in the vector queue (R238, R302); and the run of one that waits there -/
  blocked : Bool := false
  queued : Option LateRun := none
  deriving DecidableEq, Repr

/-- One turn of the agenda: an event, or a turn of a core (log entry 2). -/
structure Turn where
  core : CoreNo
  event : Option Instr := none
  deriving DecidableEq, Repr

/-- The state. `base` is the device as it stood when the convoy that runs began: a trap goes back to it (R45). -/
structure State where
  dev : Device
  base : Device
  ctx : Ctx := {}
  /-- the model's own: whose turn is next, and a count of turns for the free values (log entries 2 and 3) -/
  agenda : List Turn := []
  cur : CoreNo := 0
  tick : Nat := 0
  deriving DecidableEq, Repr

/-- The faults of the machine. The spec names none: every error it describes is a trap, an interrupt or a status, and a
device that can run nothing waits for its host. Nobody raises a fault. -/
inductive Fault
  deriving DecidableEq, Repr

/-- The refusals of the machine. -/
inductive Refusal
  /-- raised by an arm of `exec` for an instruction that has no meaning yet; safe, for nothing follows from it -/
  | notModelled (mnemonic : String)
  deriving DecidableEq, Repr

/-- The launch values of the shadow registers of a channel (Table 4.2): extents 1 to 6 are 1, the permutation is the
identity, every other register is 0. Registers stand by their number (R312). -/
def shadowAtLaunch : Vector Word 29 :=
  (Vector.replicate 29 (0 : Word)).mapFinIdx fun i _ _ =>
    if 3 ≤ i ∧ i ≤ 8 then 1 else if i = 23 then 0x1AC688 else 0

/-- A thread with the launch values of chapter 04 in every field (R27, R68, R78, Table 4.4). -/
def Thread.fresh : Thread := { shadow := Vector.replicate 16 shadowAtLaunch }

/-- A core right after device reset: no convoy runs, level 2, interrupts disabled (R467, Table 19.2); its thread state is
that of a launch (log entry 4). -/
def Core.atReset : Core := { thr := Thread.fresh }

/-- The device right after the first two steps of R467. -/
def Device.atReset : Device := { cores := Vector.replicate 192 Core.atReset }

/-- The state right after device reset. -/
def State.reset : State := { dev := Device.atReset, base := Device.atReset }

end Sys2Proof.Machine
end

