-- ==== Sys2Proof/Machine/Mem.lean ====
section
/-!
DEFINITION. Bytes: reading and writing the sparse memories of the model in their canonical form, little-endian values (00_scope
R4), and the elements of a vector register, of a mask and of a slot (02_device R17).
-/

namespace Sys2Proof.Machine

/-- The byte at an address; an unlisted address reads zero (25_bringup R467). -/
def memRead : Memory → Nat → Byte
  | [], _ => 0
  | (b, v) :: t, a => if a = b then v else if a < b then 0 else memRead t a

/-- One byte written; the form stays canonical. -/
def memWrite : Memory → Nat → Byte → Memory
  | [], a, v => if v = 0 then [] else [(a, v)]
  | (b, u) :: t, a, v =>
    if a < b then (if v = 0 then (b, u) :: t else (a, v) :: (b, u) :: t)
    else if a = b then (if v = 0 then t else (a, v) :: t)
    else (b, u) :: memWrite t a v

/-- Addresses rise strictly from above `lo`, and no byte listed is zero. -/
def memSortedFrom : Option Nat → Memory → Bool
  | _, [] => true
  | lo, (a, v) :: t =>
    (match lo with | none => true | some l => decide (l < a)) && v != 0 && memSortedFrom (some a) t

/-- The canonical form. -/
def Memory.wf (m : Memory) : Bool := memSortedFrom none m

/-- `n` bytes from `a`, read little-endian (R4). -/
def memLoad (m : Memory) (a : Nat) : Nat → Nat
  | 0 => 0
  | n + 1 => (memRead m a).toNat + 256 * memLoad m (a + 1) n

/-- The low `n` bytes of `v` written from `a`, little-endian (R4). -/
def memStore (m : Memory) (a : Nat) (v : Nat) : Nat → Memory
  | 0 => m
  | n + 1 => memStore (memWrite m a (BitVec.ofNat 8 v)) (a + 1) (v / 256) n

/-- `n` bytes from `a`. -/
def memBytes (m : Memory) (a : Nat) : Nat → List Byte
  | 0 => []
  | n + 1 => memRead m a :: memBytes m (a + 1) n

/-- A list of bytes written from `a`. -/
def memPut (m : Memory) (a : Nat) : List Byte → Memory
  | [] => m
  | b :: t => memPut (memWrite m a b) (a + 1) t

/-- The value of a list of bytes, little-endian. -/
def bytesVal : List Byte → Nat
  | [] => 0
  | b :: t => b.toNat + 256 * bytesVal t

/-- The low `n` bytes of a value, little-endian. -/
def valBytes (v : Nat) : Nat → List Byte
  | 0 => []
  | n + 1 => BitVec.ofNat 8 v :: valBytes (v / 256) n

/-- `n` bytes of a list from offset `o`, as a value. -/
def fieldAt (l : List Byte) (o n : Nat) : Nat := bytesVal ((l.drop o).take n)

/-- Whether every byte of a list from `o` up to `o + n - 1` is zero. -/
def zeroAt (l : List Byte) (o n : Nat) : Bool := ((l.drop o).take n).all (· == 0)

/-- Field `e` of `w` bits of a wide register. -/
def elemGet {n : Nat} (d : BitVec n) (w e : Nat) : Nat := (d.extractLsb' (e * w) w).toNat

/-- Field `e` of `w` bits of a wide register replaced by the low `w` bits of `v`. -/
def elemSet {n : Nat} (d : BitVec n) (w e v : Nat) : BitVec n :=
  (d &&& ~~~ (BitVec.ofNat n (2 ^ w - 1) <<< (e * w))) ||| (BitVec.ofNat n (v % 2 ^ w) <<< (e * w))

/-- Byte `b` of a register in element order (R17). -/
def byteGet {n : Nat} (d : BitVec n) (b : Nat) : Byte := BitVec.ofNat 8 (elemGet d 8 b)

/-- A list of values written to consecutive fields from field `e`. -/
def elemPut {n : Nat} (d : BitVec n) (w : Nat) : Nat → List Nat → BitVec n
  | _, [] => d
  | e, v :: t => elemPut (elemSet d w e v) w (e + 1) t

/-- The numbers `lo` up to `lo + n - 1`. -/
def upFrom (lo : Nat) : Nat → List Nat
  | 0 => []
  | n + 1 => lo :: upFrom (lo + 1) n

end Sys2Proof.Machine
end

