-- ==== Sys2Proof/Machine/Num.lean ====
section
/-!
DEFINITION. The arithmetic of chapter 05: integers formed exactly and fitted (R92, R93), floating values as exact dyadic
numbers, `Round` (R102 to R107), flushing (R108), the counter-based generator (R109), conversions (R104, R184) and the
immediates of R129.
-/

namespace Sys2Proof.Machine

/-- The value of a pattern of integer type `t` (R91). -/
def intOf (t : Ty) (bits : Nat) : Int :=
  let n := bits % 2 ^ t.bits
  if t.signed && decide (2 ^ (t.bits - 1) ≤ n) then (n : Int) - 2 ^ t.bits else n

/-- The least and the greatest value of an integer type (Table 5.1). -/
def intMin (t : Ty) : Int := if t.signed then -(2 ^ (t.bits - 1) : Int) else 0
def intMax (t : Ty) : Int := if t.signed then 2 ^ (t.bits - 1) - 1 else 2 ^ t.bits - 1

/-- The pattern of an integer, wrapping (R92). -/
def wrapInt (t : Ty) (v : Int) : Nat := (v % (2 ^ t.bits : Int)).toNat

/-- A value clamped to the range of its type (R92, R104). -/
def clampInt (t : Ty) (v : Int) : Int := if v < intMin t then intMin t else if intMax t < v then intMax t else v

/-- `Fit`: an exact result saturated or wrapped to its type (R92). -/
def fitInt (sat : Bool) (t : Ty) (v : Int) : Nat := wrapInt t (if sat then clampInt t v else v)

/-- Quotient and remainder by R93, before fitting: the quotient by zero is all ones. -/
def quotInt (t : Ty) (a b : Int) : Int :=
  if b = 0 then (if t.signed then -1 else 2 ^ t.bits - 1) else Int.tdiv a b
def remInt (a b : Int) : Int := if b = 0 then a else Int.tmod a b

/-- The number of leading zeros of the low `n` bits (Table 7.2). -/
def clzNat (n v : Nat) : Nat := if v = 0 then n else n - 1 - Nat.log2 v

/-- The number of trailing zeros below bit `n`. -/
def ctzNat : Nat → Nat → Nat
  | 0, _ => 0
  | n + 1, v => if v % 2 = 1 then 0 else 1 + ctzNat n (v / 2)

/-- The number of one bits below bit `n`. -/
def popNat : Nat → Nat → Nat
  | 0, _ => 0
  | n + 1, v => v % 2 + popNat n (v / 2)

/-- An exact floating value: (−1)^neg × man × 2^exp, an infinity, or NaN. -/
inductive Fp
  | nan
  | inf (neg : Bool)
  | fin (neg : Bool) (man : Nat) (exp : Int)
  deriving DecidableEq, Repr

/-- Exponent width, fraction width and bias (Table 5.2). -/
def eBits : Ty → Nat
  | .f16 => 5 | .bf16 => 8 | .f32 => 8 | .f64 => 11 | .e4m3 => 4 | .e5m2 => 5 | _ => 0
def fBits : Ty → Nat
  | .f16 => 10 | .bf16 => 7 | .f32 => 23 | .f64 => 52 | .e4m3 => 3 | .e5m2 => 2 | _ => 0
def fBias : Ty → Nat
  | .f16 => 15 | .bf16 => 127 | .f32 => 127 | .f64 => 1023 | .e4m3 => 7 | .e5m2 => 15 | _ => 0

/-- The canonical NaN (Table 5.2). -/
def canonNan : Ty → Nat
  | .f16 => 0x7E00 | .bf16 => 0x7FC0 | .f32 => 0x7FC00000 | .f64 => 0x7FF8000000000000 | .e4m3 => 0x7F | .e5m2 => 0x7E
  | _ => 0

/-- The pattern of the largest finite value (Table 5.2). -/
def maxFinite (t : Ty) : Nat :=
  match t with
  | .e4m3 => 0x7E
  | _ => (2 ^ (eBits t) - 1) * 2 ^ (fBits t) - 1

/-- The sign bit as a pattern. -/
def signBit (t : Ty) (neg : Bool) : Nat := if neg then 2 ^ (t.bits - 1) else 0

/-- Whether a pattern is subnormal: E = 0 and F ≠ 0 (R94). -/
def isSubnormal (t : Ty) (bits : Nat) : Bool :=
  let m := bits % 2 ^ (t.bits - 1)
  decide (0 < m ∧ m < 2 ^ (fBits t))

/-- The types that flush (R108). -/
def flushes : Ty → Bool
  | .f16 | .bf16 | .f32 | .f64 => true
  | _ => false

/-- A pattern with a subnormal made a zero of its sign, where `on` (R108). -/
def flushBits (on : Bool) (t : Ty) (bits : Nat) : Nat :=
  if on && flushes t && isSubnormal t bits then signBit t (decide (2 ^ (t.bits - 1) ≤ bits)) else bits

/-- The exact value of a pattern (R94, R95). -/
def fpOf (t : Ty) (bits : Nat) : Fp :=
  let b := bits % 2 ^ t.bits
  let neg := decide (2 ^ (t.bits - 1) ≤ b)
  let m := b % 2 ^ (t.bits - 1)
  let e := m / 2 ^ (fBits t)
  let f := m % 2 ^ (fBits t)
  let top := decide (e = 2 ^ (eBits t) - 1)
  if t = .e4m3 ∧ m = 0x7F then .nan
  else if top && t != .e4m3 then (if f = 0 then .inf neg else .nan)
  else if e = 0 then .fin neg f (1 - (fBias t : Int) - fBits t)
  else .fin neg (2 ^ (fBits t) + f) ((e : Int) - fBias t - fBits t)

/-- Whether `Round` moves away from zero a value whose kept part is `sig`, with `r` parts of 2^sh cut off, under a mode and a
random word (R102, R107). -/
def roundsUp (mode : Mode) (neg : Bool) (rnd sig r sh : Nat) : Bool :=
  match mode with
  | .rne | .ctl => decide (2 ^ sh < 2 * r ∨ (2 * r = 2 ^ sh ∧ sig % 2 = 1))
  | .rtz => false
  | .rup => !neg && decide (r ≠ 0)
  | .rdn => neg && decide (r ≠ 0)
  | .rna => decide (2 ^ sh ≤ 2 * r)
  | .sto => decide (r ≠ 0 ∧ 0xFFFF < r * 2 ^ 16 / 2 ^ sh + rnd)

/-- Overflow by R103: whether the result is the largest finite value. -/
def overflowsToLargest (t : Ty) (mode : Mode) (neg : Bool) : Bool :=
  match t with
  | .e4m3 => true
  | _ =>
    match mode with
    | .rtz => true
    | .rup => neg
    | .rdn => !neg
    | _ => false

/-- The pattern of an infinity, ±448 in `e4m3` (R103). -/
def infBits (t : Ty) (neg : Bool) : Nat :=
  signBit t neg + (match t with | .e4m3 => 0x7E | _ => maxFinite t + 1)

/-- `Round` of a nonzero finite magnitude (R102, R103): the kept part and what is cut off follow from the exponent, and the
pattern grows with the magnitude, so a carry and an overflow need no case of their own. -/
def roundFin (t : Ty) (mode : Mode) (rnd : Nat) (neg : Bool) (man : Nat) (exp : Int) : Nat :=
  let e : Int := (Nat.log2 man : Int) + exp
  let emin : Int := 1 - (fBias t : Int)
  let q : Int := (if e < emin then emin else e) - fBits t
  let sh : Int := q - exp
  let sig := if sh ≤ 0 then man * 2 ^ (-sh).toNat else man / 2 ^ sh.toNat
  let r := if sh ≤ 0 then 0 else man % 2 ^ sh.toNat
  let sig' := sig + (if roundsUp mode neg rnd sig r sh.toNat then 1 else 0)
  let mag := ((q + fBits t + fBias t - 1) * 2 ^ (fBits t)).toNat + sig'
  if mag ≤ maxFinite t then signBit t neg + mag
  else if overflowsToLargest t mode neg then signBit t neg + maxFinite t
  else infBits t neg

/-- `Round` (R102, R103). -/
def roundFp (t : Ty) (mode : Mode) (rnd : Nat) (x : Fp) : Nat :=
  match x with
  | .nan => canonNan t
  | .inf neg => infBits t neg
  | .fin neg 0 _ => signBit t neg
  | .fin neg man exp => roundFin t mode rnd neg man exp

/-- A finite value rounded to an integer (R104, R105). -/
def roundToInt (mode : Mode) (rnd : Nat) (neg : Bool) (man : Nat) (exp : Int) : Int :=
  let sh := (-exp).toNat
  let sig := if 0 ≤ exp then man * 2 ^ exp.toNat else man / 2 ^ sh
  let r := if 0 ≤ exp then 0 else man % 2 ^ sh
  let v := sig + (if roundsUp mode neg rnd sig r sh then 1 else 0)
  if neg then -(v : Int) else v

/-- A floating value converted to an integer type: rounded, then saturated; NaN gives 0 (R104). -/
def fpToInt (t : Ty) (mode : Mode) (rnd : Nat) (x : Fp) : Int :=
  match x with
  | .nan => 0
  | .inf neg => if neg then intMin t else intMax t
  | .fin neg man exp => clampInt t (roundToInt mode rnd neg man exp)

/-- An integer as an exact value. -/
def fpOfInt (v : Int) : Fp := .fin (decide (v < 0)) v.natAbs 0

/-- The sign inverted. -/
def Fp.neg : Fp → Fp
  | .nan => .nan
  | .inf s => .inf (!s)
  | .fin s m e => .fin (!s) m e

/-- The sign cleared. -/
def Fp.abs : Fp → Fp
  | .nan => .nan
  | .inf _ => .inf false
  | .fin _ m e => .fin false m e

/-- The signed mantissas of two finite values at their common exponent. -/
def alignPair (n1 : Bool) (m1 : Nat) (e1 : Int) (n2 : Bool) (m2 : Nat) (e2 : Int) : Int × Int × Int :=
  let e := if e1 ≤ e2 then e1 else e2
  let a : Int := (m1 * 2 ^ (e1 - e).toNat : Nat)
  let b : Int := (m2 * 2 ^ (e2 - e).toNat : Nat)
  (if n1 then -a else a, if n2 then -b else b, e)

/-- The exact sum (R96, R97): an exact zero sum of opposite signs is +0, under RDN −0. -/
def fpAdd (rdn : Bool) (x y : Fp) : Fp :=
  match x, y with
  | .nan, _ => .nan
  | _, .nan => .nan
  | .inf a, .inf b => if a = b then .inf a else .nan
  | .inf a, _ => .inf a
  | _, .inf b => .inf b
  | .fin n1 m1 e1, .fin n2 m2 e2 =>
    let (a, b, e) := alignPair n1 m1 e1 n2 m2 e2
    let s := a + b
    if s = 0 then .fin (if n1 = n2 then n1 else rdn) 0 0 else .fin (decide (s < 0)) s.natAbs e

/-- The exact difference. -/
def fpSub (rdn : Bool) (x y : Fp) : Fp := fpAdd rdn x y.neg

/-- The exact product (R96). -/
def fpMul (x y : Fp) : Fp :=
  match x, y with
  | .nan, _ => .nan
  | _, .nan => .nan
  | .inf a, .inf b => .inf (a != b)
  | .inf a, .fin n m _ => if m = 0 then .nan else .inf (a != n)
  | .fin n m _, .inf a => if m = 0 then .nan else .inf (a != n)
  | .fin n1 m1 e1, .fin n2 m2 e2 => .fin (n1 != n2) (m1 * m2) (e1 + e2)

/-- The quotient, kept to 200 bits with a last bit that is set when the quotient is inexact: every rounding of a format of
Table 5.2 reads the same result from it as from the exact quotient. -/
def fpDiv (x y : Fp) : Fp :=
  match x, y with
  | .nan, _ => .nan
  | _, .nan => .nan
  | .inf _, .inf _ => .nan
  | .inf a, .fin n _ _ => .inf (a != n)
  | .fin n _ _, .inf a => .fin (n != a) 0 0
  | .fin n1 m1 e1, .fin n2 m2 e2 =>
    if m2 = 0 then (if m1 = 0 then .nan else .inf (n1 != n2))
    else if m1 = 0 then .fin (n1 != n2) 0 0
    else
      let k := 200 + Nat.log2 m2
      let q := m1 * 2 ^ k / m2
      let r := m1 * 2 ^ k % m2
      .fin (n1 != n2) (2 * q + (if r = 0 then 0 else 1)) (e1 - e2 - k - 1)

/-- The square root, kept in the same way (R96: NaN below −0). -/
def fpSqrt (x : Fp) : Fp :=
  match x with
  | .nan => .nan
  | .inf neg => if neg then .nan else .inf false
  | .fin neg man exp =>
    if man = 0 then .fin neg 0 0
    else if neg then .nan
    else
      let odd := decide (exp % 2 ≠ 0)
      let m := (if odd then 2 * man else man) * 2 ^ 400
      let e : Int := (if odd then exp - 1 else exp) - 400
      let r := Nat.sqrt m
      .fin false (2 * r + (if r * r = m then 0 else 1)) (e / 2 - 1)

/-- The order of two values that are not NaN, with −0 below +0 where `zeros` (Table 7.4). -/
def fpLe (zeros : Bool) (x y : Fp) : Bool :=
  match x, y with
  | .nan, _ => false
  | _, .nan => false
  | .inf true, _ => true
  | _, .inf false => true
  | .inf false, _ => false
  | _, .inf true => false
  | .fin n1 m1 e1, .fin n2 m2 e2 =>
    let (a, b, _) := alignPair n1 m1 e1 n2 m2 e2
    if zeros && decide (a = 0 ∧ b = 0) then n1 || !n2 else decide (a ≤ b)

/-- Equality of floating values: −0 = +0, NaN equals nothing. -/
def fpEq (x y : Fp) : Bool := fpLe false x y && fpLe false y x

/-- Whether x is less than y. -/
def fpLt (x y : Fp) : Bool := fpLe false x y && !fpLe false y x

/-- Lesser and greater: NaN if either is NaN (Table 7.4). -/
def fpMin (x y : Fp) : Fp :=
  match x, y with
  | .nan, _ => .nan
  | _, .nan => .nan
  | _, _ => if fpLe true x y then x else y
def fpMax (x y : Fp) : Fp :=
  match x, y with
  | .nan, _ => .nan
  | _, .nan => .nan
  | _, _ => if fpLe true x y then y else x

/-- `Hash` (R109). -/
def hashStep (k h : Half) : Half :=
  let a := h * 0x2C1B3C6D
  (a ^^^ (a >>> 12)) + k
def hash (c k : Half) : Half := hashStep k (hashStep k (hashStep k (c ^^^ k)))

/-- The numeric state an instruction rounds under: `NCTL`, `SRSEED` and the rounding counter K (R83, R106). -/
structure NumCtx where
  nctl : BitVec 10
  seed : Half
  k : Half
  deriving DecidableEq, Repr

/-- The fields of `NCTL` (Table 4.5). -/
def nbvOf (n : BitVec 10) : Nat := (n.extractLsb' 8 2).toNat
def lamOf (n : BitVec 10) : Bool := n.getLsbD 6
def satOf (n : BitVec 10) : Bool := n.getLsbD 5
def ftzOf (n : BitVec 10) : Bool := n.getLsbD 4
def steOf (n : BitVec 10) : Bool := n.getLsbD 3
def rmOf (n : BitVec 10) : Mode :=
  match (n.extractLsb' 0 3).toNat with
  | 0 => .rne | 1 => .rtz | 2 => .rup | 3 => .rdn | 4 => .rna | _ => .sto

/-- The mode in force for a target type: the instruction's own, else `NCTL.RM`; STO is RNE while STE = 0; under NBV 2 a
rounding to `bf16` is RTZ (R102, Table 5.8). -/
def modeFor (c : NumCtx) (m : Mode) (t : Ty) : Mode :=
  let m1 := match m with | .ctl => rmOf c.nctl | _ => m
  let m2 := match m1 with | .sto => if steOf c.nctl then Mode.sto else .rne | _ => m1
  if t = .bf16 ∧ nbvOf c.nctl = 2 then .rtz else m2

/-- The random word of element counter `e` (R106). -/
def randWord (c : NumCtx) (e : Nat) : Nat := ((hash (BitVec.ofNat 32 e) (c.seed ^^^ c.k)).extractLsb' 16 16).toNat

/-- Whether results are flushed (R108, Table 5.8). -/
def flushOut (c : NumCtx) : Bool := ftzOf c.nctl || decide (nbvOf c.nctl ≠ 0)

/-- A floating operand, flushed under `NCTL.FTZ` (R108). -/
def fpIn (c : NumCtx) (t : Ty) (bits : Nat) : Fp := fpOf t (flushBits (ftzOf c.nctl) t (bits % 2 ^ t.bits))

/-- A result rounded under the mode in force and flushed (R102 to R108). -/
def fpOut (c : NumCtx) (m : Mode) (e : Nat) (t : Ty) (x : Fp) : Nat :=
  flushBits (flushOut c) t (roundFp t (modeFor c m t) (randWord c e) x)

/-- Whether the mode in force is RDN, for the sign of an exact zero sum (R97). -/
def rdnFor (c : NumCtx) (m : Mode) (t : Ty) : Bool := modeFor c m t == .rdn

/-- Sum, difference, product, quotient and root of two patterns of one type (R97). -/
def faddBits (c : NumCtx) (m : Mode) (e : Nat) (t : Ty) (a b : Nat) : Nat :=
  fpOut c m e t (fpAdd (rdnFor c m t) (fpIn c t a) (fpIn c t b))
def fsubBits (c : NumCtx) (m : Mode) (e : Nat) (t : Ty) (a b : Nat) : Nat :=
  fpOut c m e t (fpSub (rdnFor c m t) (fpIn c t a) (fpIn c t b))
def fmulBits (c : NumCtx) (m : Mode) (e : Nat) (t : Ty) (a b : Nat) : Nat :=
  fpOut c m e t (fpMul (fpIn c t a) (fpIn c t b))
def fdivBits (c : NumCtx) (m : Mode) (e : Nat) (t : Ty) (a b : Nat) : Nat :=
  fpOut c m e t (fpDiv (fpIn c t a) (fpIn c t b))
def fsqrtBits (c : NumCtx) (m : Mode) (e : Nat) (t : Ty) (a : Nat) : Nat :=
  fpOut c m e t (fpSqrt (fpIn c t a))

/-- x × y + z for operands of type `u` and a result of type `t`: fused, or unfused under NBV 1 and 2 for results of `f32` or
narrower (Table 5.8). -/
def fmaBits (c : NumCtx) (m : Mode) (e : Nat) (t u : Ty) (a b z : Nat) : Nat :=
  let p := fpMul (fpIn c u a) (fpIn c u b)
  let p' := if nbvOf c.nctl = 0 ∨ t = .f64 then p else fpOf t (fpOut c m e t p)
  fpOut c m e t (fpAdd (rdnFor c m t) p' (fpIn c t z))

/-- Minimum and maximum: no rounding, flushed as a result (R108). -/
def fminBits (c : NumCtx) (t : Ty) (a b : Nat) : Nat := fpOut c .rne 0 t (fpMin (fpIn c t a) (fpIn c t b))
def fmaxBits (c : NumCtx) (t : Ty) (a b : Nat) : Nat := fpOut c .rne 0 t (fpMax (fpIn c t a) (fpIn c t b))
/-- Sign inverted or cleared, flushed as a result (R108). -/
def fnegBits (c : NumCtx) (t : Ty) (a : Nat) : Nat := fpOut c .rne 0 t (fpIn c t a).neg
def fabsBits (c : NumCtx) (t : Ty) (a : Nat) : Nat := fpOut c .rne 0 t (fpIn c t a).abs

/-- A conversion from `u` to `t` (R104, R184): between integers by R92, every other way through `Round`. DESIGN CHOICE: a value that
a target integer of equal or greater width cannot hold is fitted as a narrowing one is (log entry 74). -/
def convBits (c : NumCtx) (m : Mode) (e : Nat) (t u : Ty) (v : Nat) : Nat :=
  if u.isInt then
    (if t.isInt then fitInt (satOf c.nctl) t (intOf u v) else fpOut c m e t (fpOfInt (intOf u v)))
  else if t.isInt then wrapInt t (fpToInt t (modeFor c m t) (randWord c e) (fpIn c u v))
  else fpOut c m e t (fpIn c u v)

/-- A conversion that copies bits when the types agree (R210). -/
def convOrCopy (c : NumCtx) (m : Mode) (e : Nat) (t u : Ty) (v : Nat) : Nat :=
  if t = u then v % 2 ^ t.bits else convBits c m e t u v

/-- A `bf16` immediate as an operand of floating type `t` (R129): rounded under RNE, the largest value beyond it. -/
def immFloat (t : Ty) (imm : BitVec 16) : Nat :=
  match fpOf .bf16 imm.toNat with
  | .nan => canonNan t
  | .inf neg => infBits t neg
  | .fin neg man exp =>
    let r := roundFp t .rne 0 (.fin neg man exp)
    if r = infBits t neg then signBit t neg + maxFinite t else r

/-- An immediate as an operand of type `t` for arithmetic and comparison (R129). -/
def immArith (t : Ty) (imm : BitVec 16) : Nat :=
  if t.isInt then (imm.signExtend 64).toNat % 2 ^ t.bits else immFloat t imm

/-- The mask of a q4 magnitude, in halves of the scale (Table 5.3). -/
def q4Mag (ty k : Nat) : Nat :=
  match ty, k with
  | 0, k => 2 * k
  | 1, 0 => 0 | 1, 1 => 1 | 1, 2 => 2 | 1, 3 => 3 | 1, 4 => 4 | 1, 5 => 6 | 1, 6 => 8 | 1, _ => 12
  | 2, 0 => 0 | 2, k => 2 ^ k
  | _, 0 => 0 | _, 1 => 2 | _, 2 => 4 | _, 3 => 6 | _, 4 => 8 | _, 5 => 12 | _, 6 => 16 | _, _ => 24

/-- The value of a q4 code under a scale byte (R98). -/
def q4Value (scale code : Nat) : Fp :=
  let x := scale % 64
  let ty := scale / 64 % 4
  let e : Int := (x : Int) - 33
  if x = 0 then .fin false 0 0
  else if x = 63 then .nan
  else if ty = 0 then
    (if code < 8 then .fin false (2 * code) e else .fin true (2 * (16 - code)) e)
  else
    let k := code % 8
    .fin (decide (8 ≤ code) && !(ty == 2 && k == 0)) (q4Mag ty k) e

/-- A magnitude scaled to a natural number, 2^−200 to the unit: exact for every `f16`, `bf16` and `f32` value. -/
def scaled (x : Fp) : Nat :=
  match x with
  | .fin _ m e => m * 2 ^ (e + 200).toNat
  | _ => 0

/-- The greatest magnitude of a block type in halves (Table 5.3). -/
def q4Top : Nat → Nat
  | 0 => 14 | 1 => 12 | 2 => 128 | _ => 24

/-- The scale of a magnitude in halves under exponent X, in the units of `scaled`. -/
def q4Unit (x : Nat) : Nat := 2 ^ (x + 167)

/-- The least X from 1 to 62 that reaches A, else 62 (R100). -/
def q4Exp (ty a : Nat) : Nat :=
  match (upFrom 1 62).find? (fun x => decide (a ≤ q4Top ty * q4Unit x)) with
  | some x => x
  | none => 62

/-- The distance of two naturals. -/
def distNat (a b : Nat) : Nat := (a - b) + (b - a)

/-- The magnitude code nearest to a magnitude, a tie to the even code (R100). -/
def q4Nearest (ty x m : Nat) : Nat :=
  (upFrom 1 7).foldl (fun best k =>
    let db := distNat m (q4Mag ty best * q4Unit x)
    let dk := distNat m (q4Mag ty k * q4Unit x)
    if dk < db ∨ (dk = db ∧ k % 2 = 0) then k else best) 0

/-- The code of one value (R100). -/
def q4Code (ty x : Nat) (v : Fp) : Nat :=
  let k := q4Nearest ty x (scaled v)
  let neg := match v with | .fin n _ _ => n | .inf n => n | .nan => false
  if k = 0 then 0 else if neg then (if ty = 0 then 16 - k else 8 + k) else k

/-- Whether a value is NaN or infinite. -/
def notFinite : Fp → Bool
  | .fin _ _ _ => false
  | _ => true

/-- `Quantise` (R100): the scale byte and the codes. -/
def quantise (ty : Nat) (xs : List Fp) : Nat × List Nat :=
  if xs.any notFinite then (64 * ty + 63, xs.map fun _ => 0)
  else
    let a := xs.foldl (fun m v => max m (scaled v)) 0
    if a = 0 then (64 * ty, xs.map fun _ => 0)
    else
      let x := q4Exp ty a
      (64 * ty + x, xs.map (q4Code ty x))

/-- The squared error of a quantised block, exactly (R101). -/
def q4Error (xs : List Fp) (r : Nat × List Nat) : Nat :=
  (xs.zip r.2).foldl (fun s p =>
    let d := q4Value r.1 p.2
    let sg (v : Fp) : Int := match v with | .fin true _ _ => -(scaled v : Int) | _ => scaled v
    s + (sg p.1 - sg d).natAbs ^ 2) 0

/-- Automatic choice (R101): the type of least error, the lower of equals. -/
def autoChoice (xs : List Fp) : Nat × List Nat :=
  if xs.any notFinite || xs.all (fun v => scaled v == 0) then quantise 0 xs
  else
    let r0 := quantise 0 xs
    [1, 2, 3].foldl (fun best ty =>
      let r := quantise ty xs
      if q4Error xs r < q4Error xs best then r else best) r0

/-- One stage of `Tree` (R111): adjacent positions added. -/
def pairUp {β : Type} (add : β → β → β) : List (Option β) → List (Option β)
  | a :: b :: t =>
    (match a, b with
      | some x, some y => some (add x y)
      | some x, none => some x
      | none, y => y) :: pairUp add t
  | l => l

/-- `Tree` over 2^k positions (R111). -/
def treeSum {β : Type} (add : β → β → β) : Nat → List (Option β) → Option β
  | 0, l => l.head?.join
  | k + 1, l => treeSum add k (pairUp add l)

/-- Two positions added (R110). -/
def addPos {β : Type} (add : β → β → β) (a b : Option β) : Option β :=
  match a, b with
  | some x, some y => some (add x y)
  | some x, none => some x
  | none, y => y

/-- The positions `lo` to `lo + n − 1`, those at or above `vl` holes. -/
def posRange {β : Type} (p : Nat → Option β) (vl lo n : Nat) : List (Option β) :=
  (upFrom lo n).map fun e => if e < vl then p e else none

/-- The sum of positions 0 to `vl − 1` in the order in force (Table 5.7), for elements of `w` bits, from the initial S. -/
def sumOrder {β : Type} (nctl : BitVec 10) (w vl : Nat) (add : β → β → β) (s : Option β) (p : Nat → Option β) : Option β :=
  if nbvOf nctl ≠ 0 then (upFrom 0 vl).foldl (fun acc e => addPos add acc (p e)) s
  else if lamOf nctl then
    (upFrom 0 ((vl + 31) / 32)).foldl (fun acc b => addPos add acc (treeSum add 5 (posRange p vl (32 * b) 32))) s
  else
    let g := 512 / w
    let k := Nat.log2 g
    let groups := (vl + 64 * g - 1) / (64 * g)
    let lane (l : Nat) : Option β :=
      (upFrom 0 groups).foldl (fun acc gr =>
        let lo := 64 * g * gr + g * l
        if vl ≤ lo then acc else addPos add acc (treeSum add k (posRange p vl lo g))) none
    addPos add s (treeSum add 6 ((upFrom 0 64).map lane))

end Sys2Proof.Machine
end

