-- ==== Sys2Proof/Machine/Ops.lean ====
section
/-!
DEFINITION. The named operations over the state: the core whose turn it is, its registers by level (R69, R370), trap entry and
return (R371, R375, R45, R428), the ways a meaning ends, and the plain writes of device memory with what they wake (R222,
R338, R439).
-/

namespace Sys2Proof.Machine

/-- What a meaning answers. -/
abbrev Out := Host.Outcome State Fault Refusal

/-- The core whose turn it is. -/
def State.core (s : State) : Core := s.dev.cores.get s.cur
def State.setCore (s : State) (c : Core) : State :=
  { s with dev := { s.dev with cores := s.dev.cores.set s.cur.val c s.cur.isLt } }
/-- Its thread. -/
def State.thr (s : State) : Thread := s.core.thr
def State.setThr (s : State) (t : Thread) : State := s.setCore { s.core with thr := t }

/-- The core the sources are read from: a low slot reads the core as it stood before its word (R39). -/
def State.srcCore (s : State) : Core := s.ctx.src.getD s.core

/-- The x registers of the level (R370). -/
def Core.bank (c : Core) : Vector Word 64 :=
  if c.pl = 0 then c.thr.x else if c.pl = 1 then c.x1 else c.x2
def Core.setBank (c : Core) (b : Vector Word 64) : Core :=
  if c.pl = 0 then { c with thr := { c.thr with x := b } } else if c.pl = 1 then { c with x1 := b } else { c with x2 := b }

/-- `x0` reads as zero (R69). -/
def Core.getX (c : Core) (r : XReg) : Word := if r = 0 then 0 else c.bank.get r
/-- A write to `x0` is discarded (R69). -/
def Core.setX (c : Core) (r : XReg) (v : Word) : Core := if r = 0 then c else c.setBank (c.bank.set r.val v r.isLt)

/-- An x register as a source of the instruction that runs. -/
def State.rx (s : State) (r : XReg) : Word := s.srcCore.getX r
/-- An x register written. -/
def State.wx (s : State) (r : XReg) (v : Word) : State := s.setCore (s.core.setX r v)

/-- The trap registers of a level, 1 or 2 (R370). -/
def Core.trapRegs (c : Core) (l : BitVec 2) : TrapRegs := if l = 1 then c.t1 else c.t2
def Core.setTrapRegs (c : Core) (l : BitVec 2) (t : TrapRegs) : Core := if l = 1 then { c with t1 := t } else { c with t2 := t }

/-- What is left of the convoy at the core's pc, where its first words stand for good and words are left. -/
def Core.splitHere (c : Core) : Option Rest :=
  match c.split.get (Fin.ofNat 4 c.pl.toNat) with
  | some p => if p.pc = c.pc ∧ p.rest.words ≠ [] then some p.rest else none
  | none => none
/-- The same set, or cleared. -/
def Core.setSplit (c : Core) (r : Option Rest) : Core :=
  let i := Fin.ofNat 4 c.pl.toNat
  { c with split := c.split.set i.val (r.map fun r => { pc := c.pc, rest := r }) i.isLt }

/-- The cause codes of Table 22.1. -/
def cIllegal : BitVec 8 := 0x01
def cInstrAddr : BitVec 8 := 0x02
def cAddress : BitVec 8 := 0x03
def cFormat : BitVec 8 := 0x04
def cOperand : BitVec 8 := 0x05
def cAccum : BitVec 8 := 0x06
def cDuplicate : BitVec 8 := 0x07
def cUnsorted : BitVec 8 := 0x08
def cSvc : BitVec 8 := 0x09
def cBrk : BitVec 8 := 0x0A
def cMemErr : BitVec 8 := 0x0B
def cData : BitVec 8 := 0x10
def cFetch : BitVec 8 := 0x18

/-- `TCAUSE` as a trap writes it (Table 19.2). -/
def tcauseWord (code : BitVec 8) (int vp : Bool) (vpn : BitVec 10) (ppl : BitVec 2) (pie : Bool) : Word :=
  0#41 ++ BitVec.ofBool pie ++ ppl ++ vpn ++ BitVec.ofBool vp ++ BitVec.ofBool int ++ code

/-- The level a trap at level `l` enters (R371). -/
def trapLevel (l : BitVec 2) : BitVec 2 := if l = 0 then 1 else 2

/-- An address with its low three bits clear: `TEPC` and `TVEC` hold 8-byte units (Table 19.3). -/
def align8 (a : Word) : Word := a &&& ~~~ 7#64

/-- Taking a trap or an interrupt (R371): the saved registers of the new level, then `PSTAT`, then the vector. -/
def Core.enterTrap (c : Core) (code : BitVec 8) (int vp : Bool) (vpn : BitVec 10) (tval tepc : Word) : Core :=
  let l := trapLevel c.pl
  let old := c.trapRegs l
  let c1 := c.setTrapRegs l
    { old with tepc := align8 tepc, tval := tval, tcause := tcauseWord code int vp vpn c.pl c.ie }
  { c1 with ie := false, pl := l, pc := align8 old.tvec }

/-- A convoy is over: nothing of it runs any more. -/
def State.endConvoy (s : State) : State :=
  { s with ctx := { s.ctx with
      active := false, words := [], checked := false, low := false, high := false, src := none, vp := none, vpSrc := none
      stage := none, stop := none, sent := false, idled := false, pin := [], blocked := false, queued := none } }

/-- A synchronous trap of the control thread: the convoy is discarded whole and the trap is taken with `TEPC` at its first
word (R45, R371); `vs` is what a vector memory fault leaves in `VSTART` (R84). -/
def State.trapThread (s : State) (code : BitVec 8) (tval : Word) (vs : Option Nat) : State :=
  let s1 := { s with dev := s.base }
  let c := s1.core
  let t := match vs with
    | some e => { c.thr with
        vstart := { word := s.ctx.wordIdx, elem := BitVec.ofNat 14 e }, vstartPc := c.pc, vstartPl := c.pl }
    | none => c.thr
  let s2 := (s1.setCore { (c.enterTrap code false false 0 tval c.pc) with thr := t, wait := none }).endConvoy
  { s2 with ctx := { s2.ctx with trapped := true } }

/-- Whether a VP keeps the vector unit in thread mode (R56). -/
def Thread.vpsGoOn (t : Thread) : Bool := t.vps.any fun p => p.runnable || p.held

/-- VP `v` of a thread replaced. -/
def Thread.setVp (t : Thread) (v : Nat) (p : Vp) : Thread := { t with vps := t.vps.set v p }

/-- A trap of a VP: its AIB is discarded and the trap is pending for it (R62, R428). -/
def State.trapVp (s : State) (r : VpRun) (code : BitVec 8) (tval : Word) : State :=
  let s1 := { s with dev := s.base }
  let t := s1.thr
  let p := t.vps.getD r.vp {}
  (s1.setThr { (t.setVp r.vp { p with trap := some (code, tval), runnable := false, held := true }) with
    aib := t.aib.set s.ctx.lane.val none s.ctx.lane.isLt }).endConvoy

/-- A synchronous trap of what runs, with the element a vector memory fault records. -/
def State.trapAt (s : State) (code : BitVec 8) (tval : Word) (vs : Option Nat) : State :=
  match s.ctx.vp with
  | some r => s.trapVp r code tval
  | none => s.trapThread code tval vs

/-- A synchronous trap of what runs. -/
def State.trap (s : State) (code : BitVec 8) (tval : Word) : State := s.trapAt code tval none

/-- The illegal-instruction trap: `TVAL` holds the word (Table 22.1). -/
def illegal (s : State) : Out := .next (s.trap cIllegal s.ctx.word)
/-- The operand trap: `TVAL` holds the word (Table 22.1). -/
def operand (s : State) : Out := .next (s.trap cOperand s.ctx.word)
/-- The format trap of a register: its number and its whole tag (Table 22.1). -/
def formatTval (n : Nat) (span : BitVec 3) (t : BitVec 5) : Word := BitVec.ofNat 64 (n + 256 * (t.toNat + 32 * span.toNat))

/-- The level of the accesses of what runs: a VP has that of its `vfetch`, whatever the core runs meanwhile. -/
def State.level (s : State) : BitVec 2 := if s.ctx.vp.isSome then s.thr.vpLevel else s.core.pl

/-- The words of the convoy from the one that runs on, and those after it. -/
def State.restHere (s : State) : Rest :=
  { words := s.ctx.words, idx := s.ctx.wordIdx.toNat, stage := s.ctx.stage, pin := s.ctx.pin, sent := s.ctx.sent }
def State.restAfter (s : State) : Rest := { s.restHere with words := s.ctx.words.drop 1, idx := s.ctx.wordIdx.toNat + 1 }
/-- The convoy is to stop at the instruction that runs (R42). -/
def State.stopAt (s : State) (why : StopWhy) (r : Rest) : State :=
  { s with ctx := { s.ctx with stop := some { why := why, dev := s.dev, rest := r } } }

/-- How a core that was in a wait waits once its convoy made no progress: a waiting instruction goes on waiting (R219). -/
def Wait.orElse (old : Option Wait) (w : Wait) : Wait :=
  match old with
  | some (.waiting c) => .waiting c
  | _ => w

/-- The convoy makes no progress: it is tried again at the core's next turn, from the device it began with. An AIB is discarded, and
its VP's turn comes again. -/
def State.stallFor (s : State) (w : Wait) : State :=
  let s1 := { s with dev := s.base }
  match s.ctx.vp with
  | some _ => s1.endConvoy
  | none => (s1.setCore { s1.core with wait := some (Wait.orElse s1.core.wait w) }).endConvoy
/-- What commits before any interrupt is not squashed while it waits (R381, R427). -/
def stall (s : State) : Out := .next (s.stallFor (if s.ctx.sent || s.ctx.idled then .firm else .retry))

/-- An instruction that only the control thread may execute (R136, R167, R257, R268, R289, R374). -/
def onThread (s : State) (k : Out) : Out :=
  match s.ctx.vp with
  | some _ => illegal s
  | none => k

/-- An instruction that only a VP may execute (R136). -/
def onVp (s : State) (k : VpRun → Out) : Out :=
  match s.ctx.vp with
  | some r => k r
  | none => illegal s

/-- A privileged instruction below its level (R374). -/
def needLevel (s : State) (l : Nat) (k : Out) : Out :=
  if s.core.pl.toNat < l then illegal s else k

/-- A vector-unit instruction of the control thread begins only when thread mode has ended (R56). -/
def onVector (s : State) (k : Out) : Out := onThread s (if s.thr.threadMode then stall s else k)

/-- An instruction of the vector queue, where that is one that waits (R47, R51). -/
def Late.vec (e : Late) : Bool := (info e.instr).vec
/-- What waits for instructions of the queue that are of a kind (R50, R63, R216, R217). -/
def onLate (p : Late → Bool) (s : State) (k : Out) : Out := if s.core.late.any p then stall s else k
/-- What waits for the vector queue to drain (R50, R63). -/
def onDrained (s : State) (k : Out) : Out := onLate Late.vec s k
/-- What a release orders comes first, the scalar loads that still wait among it (R216, R302, R328). -/
def onReleased (s : State) (k : Out) : Out := onLate (fun e => !e.vec) s k
/-- Whether a drain of loads, or of stores, waits for an instruction of the queue: one that has such accesses still to perform, and a scalar
load, which stands before every vector access after the drain (R217, R328). -/
def Late.loads (e : Late) : Bool := !e.vec || e.touches.any fun t => !t.write
def Late.stores (e : Late) : Bool := !e.vec || e.touches.any Touch.write

/-- The outcome of a part of a meaning: a value and the state it leaves, or the end of the meaning. -/
inductive Acc (α : Type)
  | ok (a : α) (s : State)
  | stop (o : Out)

/-- The rest of a meaning after a part of it. -/
def Acc.bind {α β : Type} (r : Acc α) (f : α → State → Acc β) : Acc β :=
  match r with
  | .ok a s => f a s
  | .stop o => .stop o

/-- The end of a meaning after a part of it. -/
def Acc.out {α : Type} (r : Acc α) (f : α → State → Out) : Out :=
  match r with
  | .ok a s => f a s
  | .stop o => o

/-- A part of a meaning for each member of a list, in order. -/
def Acc.each {α : Type} (f : α → State → Acc Unit) : List α → State → Acc Unit
  | [], s => .ok () s
  | a :: t, s => (f a s).bind fun _ s' => Acc.each f t s'

/-- A part of a meaning for each member of a list, its values collected in order. -/
def Acc.collect {α β : Type} (f : α → State → Acc β) : List α → State → Acc (List β)
  | [], s => .ok [] s
  | a :: t, s => (f a s).bind fun b s' => (Acc.collect f t s').bind fun l s'' => .ok (b :: l) s''

/-- A trap as the outcome of a part. -/
def Acc.trap {α : Type} (s : State) (code : BitVec 8) (tval : Word) : Acc α := .stop (.next (s.trap code tval))

/-- The numeric state of the instruction that runs: of the thread, or what the VP took at its `vfetch` (R80, R106). -/
def State.num (s : State) : NumCtx :=
  let k := BitVec.ofNat 32 (2 * (s.ctx.wordAddr.toNat / 8) + (if s.ctx.high then 1 else 0))
  match s.ctx.vp with
  | some r => ⟨r.st.nctl, r.st.seed, k⟩
  | none => ⟨s.thr.nctl, s.thr.srseed, k⟩

/-- The home slice of a physical address (R19). -/
def sliceOf (pa : Nat) : Nat := pa / 4096 % 128

/-- The granules of `g` bytes that `n` bytes from `a` touch. -/
def granules (g a n : Nat) : List Nat := upFrom (a / g) ((a + n + g - 1) / g - a / g)

/-- Whether `n` bytes from `a` touch a poisoned granule (R439). -/
def poisoned (g : Nat) (l : List Nat) (a n : Nat) : Bool := (granules g a n).any fun x => l.contains x

/-- The poison left after one write of `n` bytes from `a`: a granule written whole is clear (R439). -/
def unpoison (g : Nat) (l : List Nat) (a n : Nat) : List Nat :=
  l.filter fun x => !(decide (a ≤ g * x) && decide (g * x + g ≤ a + n))

/-- The watches of a thread that a write to `n` bytes from `a` fires (R222). -/
def fireWatches (a n : Nat) (ws : List Watch) : List Watch :=
  ws.map fun w => if decide (w.addr < a + n) && decide (a < w.addr + 8) then { w with fired := true } else w

/-- Every core's watches after a write by an agent; `own` is the core whose control thread writes (R222). -/
def fireAll (cs : Vector Core 192) (own : Option CoreNo) (a n : Nat) : Vector Core 192 :=
  cs.mapFinIdx fun i c _ =>
    if (match own with | some o => o.val == i | none => false) || c.thr.watches.isEmpty then c
    else { c with thr := { c.thr with watches := fireWatches a n c.thr.watches } }

/-- A waiter of a barrier word after a write to `n` bytes from `a` that left memory `m`: it is woken when the write meets the
word, and completes BROKEN when GEN has moved (R226). -/
def wakeWaiter (m : Memory) (a n : Nat) (c : Core) : Core :=
  match c.wait with
  | some (.waiting (.gsyncW addr gen none)) =>
    if decide (addr < a + n) && decide (a < addr + 16) && decide (memLoad m (addr + 8) 4 ≠ gen.toNat) then
      { c with wait := some (.waiting (.gsyncW addr gen (some 2))) }
    else c
  | _ => c

/-- Bytes written to global memory at a physical address by an agent (R338, R439, R222, R226). -/
def Device.put (d : Device) (own : Option CoreNo) (pa : Nat) (bs : List Byte) : Device :=
  let m := memPut d.mem pa bs
  { d with
    mem := m
    poison := unpoison 64 d.poison pa bs.length
    cores := (fireAll d.cores own pa bs.length).map (wakeWaiter m pa bs.length) }

/-- The release part of a fence (R216, R338): every slice and every local buffer has acknowledged the thread's writes. -/
def Core.released (c : Core) : Core := { c with touched := 0, touchedBufs := 0 }
def State.released (s : State) : State := s.setCore s.core.released
/-- A buffer that an access of the thread writes (R338). -/
def Core.touchBuf (c : Core) (o : CoreNo) : Core := { c with touchedBufs := c.touchedBufs ||| (1#192 <<< o.val) }

/-- The touched-slice mask with the slice of an address set (13 R338). -/
def Core.touch (c : Core) (pa : Nat) : Core := { c with touched := c.touched ||| (1#128 <<< sliceOf pa) }

/-- A core changed by number. -/
def Device.onCore (d : Device) (c : CoreNo) (f : Core → Core) : Device :=
  { d with cores := d.cores.set c.val (f (d.cores.get c)) c.isLt }

/-- The element-group operations of an instruction enter the lanes' queue (R47); the values of a lane never depend on when
it runs them (R49). -/
def Core.queueOps (c : Core) (n : Nat) : Core := { c with opSlips := c.opSlips ++ List.replicate n c.thr.slip }
/-- The lanes complete every operation queued (R50, R63). -/
def Core.drainLanes (c : Core) : Core :=
  let total := c.opBase + c.opSlips.length
  { c with opBase := total, opSlips := [], laneDone := Vector.replicate 64 total }

/-- The groups an instruction gives every lane: ⌈VL × w ÷ 32,768⌉ (R47). -/
def groupsOf (vl w : Nat) : Nat := (vl * w + 32767) / 32768

/-- A thread's registers written by a vector-unit instruction that gives `n` operations a lane. -/
def State.finish (s : State) (n : Nat) (t : Thread) : State :=
  let s1 := s.setThr t
  s1.setCore (s1.core.queueOps n)
/-- The same of an implicit lane barrier: the lanes have caught up (R50). -/
def State.finishBarrier (s : State) (n : Nat) (t : Thread) : State :=
  let s1 := s.finish n t
  s1.setCore s1.core.drainLanes

/-- Device page and error-log addresses (Table 21.1, R441). -/
def partMapBase : Nat := 0xFE0000
def queueTabBase : Nat := 0xFF0000
def devRegBase : Nat := 0x1000000
def hbmBase : Nat := 0x1000000000
def engineBase : Nat := 0x6FC0000000
def errLogBase : Nat := 0x6FC0000000
def windowTabBase : Nat := 0x6FC1000000
def routeTabBase : Nat := 0x6FC2000000
def stageBase : Nat := 0x6FC3000000
def memEnd : Nat := 0x7000000000
def remoteBase : Nat := 0x80000000000000

/-- Global memory proper: slice memory or HBM (Table 21.1). -/
def isMem (pa : Nat) : Bool := decide (pa < devRegBase) || (decide (hbmBase ≤ pa) && decide (pa < memEnd))
/-- The device-register pages (Table 21.1). -/
def isDevReg (pa : Nat) : Bool := decide (devRegBase ≤ pa) && decide (pa < 0x2000000)
/-- The remote window (Table 21.1). -/
def isRemote (pa : Nat) : Bool := decide (remoteBase ≤ pa) && decide (pa < 0x100000000000000)

/-- A record for the host: written to the event ring of a partition channel when there is space, else kept until there is
(R453); GEN is written last. -/
def Device.postEvent (d : Device) (p : PartNo) (e : Event) : Device :=
  let ch := d.chans.get p
  let size := ch.esize.toNat
  let ok := decide (size ∈ [16, 32, 64, 128, 256, 512, 1024, 2048, 4096])
  if ok && decide ((ch.ewrite - ch.eread).toNat < size) && ch.waiting.isEmpty then
    let w := ch.ewrite.toNat
    let rec_ := [BitVec.ofNat 8 e.ty, BitVec.ofNat 8 p.val] ++ valBytes e.core 2 ++ valBytes e.tag 4 ++
      (e.payload ++ List.replicate 55 0).take 55 ++ [BitVec.ofNat 8 (w / size % 255 + 1)]
    let d1 := d.put none (ch.ebase.toNat + 64 * (w % size)) rec_
    { d1 with
      chans := d1.chans.set p.val { ch with ewrite := ch.ewrite + 1 } p.isLt
      msix := d1.msix ++ [p.val] }
  else { d with chans := d.chans.set p.val { ch with waiting := ch.waiting ++ [e] } p.isLt }

/-- A question to the host, under a fresh tag (R454). -/
def Device.ask (d : Device) (p : PartNo) (ty core : Nat) (payload : List Byte) (a : Ask) : Device :=
  let tag := d.nextTag
  let ch := d.chans.get p
  let d1 := { d with
    nextTag := tag + 1
    chans := d.chans.set p.val { ch with asks := ch.asks ++ [(tag, a)] } p.isLt }
  d1.postEvent p { ty := ty, core := core, tag := tag, payload := payload }

/-- The partition of a core as a channel number. -/
def partNo (b : BitVec 8) : PartNo := Fin.ofNat 4 b.toNat

/-- A correctable error is counted in the log header, and reported nowhere (R438, R441). -/
def Device.countCorrected (d : Device) : Device :=
  d.put none (errLogBase + 12) (valBytes (memLoad d.mem (errLogBase + 12) 4 + 1) 4)

/-- An error record (R384, R441, R404): into the log in engine-owned HBM, or to the host while `DUTY`.ERR = 1. A record that
finds the log full is counted as lost. -/
def Device.logError (d : Device) (p : PartNo) (code : BitVec 16) (core : Nat) (v : Word) : Device :=
  let rec_ := valBytes d.time 8 ++ valBytes code.toNat 2 ++ [BitVec.ofNat 8 core] ++ List.replicate 5 0 ++
    valBytes v.toNat 8 ++ List.replicate 8 0
  if d.duty.getLsbD 3 then d.postEvent p { ty := 5, core := if core = 0xFF then 0xFFFF else core, tag := 0, payload := rec_ }
  else
    let w := memLoad d.mem errLogBase 4
    let r := memLoad d.mem (errLogBase + 4) 4
    if (w + 2 ^ 32 - r) % 2 ^ 32 = 32768 then
      d.put none (errLogBase + 8) (valBytes (memLoad d.mem (errLogBase + 8) 4 + 1) 4)
    else
      let d1 := d.put none (errLogBase + 0x1000 + 32 * (w % 32768)) rec_
      let d2 := d1.put none errLogBase (valBytes (w + 1) 4)
      { d2 with msix := d2.msix ++ [196] }

/-- Whether a change of the device leaves a record of a type to wait for space in the ring of a channel (R453). -/
def Device.needsSpace (d e : Device) (ty : Nat) : Bool :=
  (List.finRange 4).any fun p =>
    let n (x : Device) : Nat := ((x.chans.get p).waiting.filter fun r => r.ty == ty).length
    decide (n d < n e)

end Sys2Proof.Machine
end

