-- ==== Sys2Proof/Machine/Flags.lean ====
section
/-!
DEFINITION. The control and status registers by number (R79 to R85, R372): the words their maps give, and what a write does.
The D4 has no condition flags; the fields of `NCTL`, `VSTART`, `PSTAT` and `TCAUSE` stand in their place.
-/

namespace Sys2Proof.Machine

/-- `EW`, `VL` and `MVL` of the thread. -/
def State.ew (s : State) : Nat := s.thr.ew.bits
def State.mvl (s : State) : Nat := s.thr.ew.mvl

/-- `VL` ← Min(v, `MVL`) (R143, R152, R153). -/
def Thread.setVl (t : Thread) (v : Nat) : Thread := { t with vl := min v t.ew.mvl }
/-- `EW` ← ew, `VL` ← Min(`VL`, new `MVL`) (R81). -/
def Thread.setEw (t : Thread) (e : Ew) : Thread := { t with ew := e, vl := min t.vl e.mvl }

/-- The element width a field of six bits names (R153). -/
def ewOf (n : Nat) : Option Ew :=
  match n with
  | 8 => some .w8
  | 16 => some .w16
  | 32 => some .w32
  | _ => none

/-- `DMODE`.MODE (Table 4.4). -/
def dmodeCode : Option DForm → Nat
  | none => 0
  | some .elem => 1
  | some .pack => 2

/-- `VSTART` as a word (Table 4.6). -/
def vstartWord (v : VStart) : Word := 0#46 ++ v.word ++ 0#2 ++ v.elem
/-- `NCTL` as a word: bit 7 is reserved (Table 4.5). -/
def nctlWord (n : BitVec 10) : Word := (n &&& 0x37F).setWidth 64
/-- `LWk` as a word (R77). -/
def linkWord (l : LinkReg) : Word := BitVec.ofBool l.en ++ l.mark
/-- `PSTAT` as a word (Table 19.2). -/
def pstatWord (c : Core) (dstate : BitVec 2) : Word := 0#54 ++ dstate ++ 0#5 ++ BitVec.ofBool c.ie ++ c.pl
/-- `PART` as a word (Table 19.2). -/
def partWord (p : PartReg) (core : CoreNo) : Word :=
  0#36 ++ BitVec.ofNat 8 core.val ++ p.ncore ++ p.qmask ++ p.pid

/-- A user control and status register of a thread, by number (Table 4.3). -/
def userCsr (t : Thread) (n : Nat) : Option Word :=
  if n = 0x000 then some (BitVec.ofNat 64 t.vl)
  else if n = 0x001 then some (BitVec.ofNat 64 t.ew.bits)
  else if n = 0x002 then some (BitVec.ofNat 64 t.ew.mvl)
  else if n = 0x003 then some (t.slip.setWidth 64)
  else if n = 0x004 then some (BitVec.ofNat 64 t.vps.length)
  else if n = 0x005 then some (BitVec.ofNat 64 t.dl)
  else if n = 0x006 then some (BitVec.ofNat 64 (dmodeCode t.dmode))
  else if n = 0x007 then some (t.mn.setWidth 64)
  else if n = 0x008 then some (nctlWord t.nctl)
  else if n = 0x009 then some (t.srseed.setWidth 64)
  else if n = 0x00A then some (vstartWord t.vstart)
  else if n = 0x00B then some (t.tid.setWidth 64)
  else if n = 0x00C then some (t.lnch.setWidth 64)
  else if n = 0x00D then some (t.gmem.setWidth 64)
  else if 0x040 ≤ n ∧ n ≤ 0x04F then some (t.wm.get (Fin.ofNat 16 n))
  else if 0x050 ≤ n ∧ n ≤ 0x057 then some (linkWord (t.lw.get (Fin.ofNat 8 n)))
  else none

/-- `PWIN` as the core reads it: the window of the first quarter of its partition (R373 writes all of them alike). -/
def pwinOf (d : Device) (c : Core) : BitVec 4 :=
  match (upFrom 0 4).find? fun q => c.part.qmask.getLsbD q with
  | some q => d.pwin.get (Fin.ofNat 4 q)
  | none => d.pwin.get 0

/-- A privileged register as the current level reads it (Table 19.1). -/
def privCsr (s : State) (n : Nat) : Option Word :=
  let c := s.core
  let t := c.trapRegs c.pl
  if c.pl = 0 then none
  else if n = 0x100 then some (pstatWord c s.dev.dstate)
  else if n = 0x101 then some t.tvec
  else if n = 0x102 then some t.tcause
  else if n = 0x103 then some t.tval
  else if n = 0x104 then some t.tepc
  else if n = 0x105 then some c.ptbr
  else if n = 0x106 then some (c.asid.setWidth 64)
  else if n = 0x107 then some ((pwinOf s.dev c).setWidth 64)
  else if n = 0x108 then some (partWord c.part s.cur)
  else if n = 0x180 ∧ c.pl = 2 then some (s.dev.duty.setWidth 64)
  else none

/-- What `csrr` reads; nothing for a number that traps (R79, R372). -/
def csrRead (s : State) (n : BitVec 12) : Option Word :=
  if n.toNat < 0x100 then userCsr s.thr n.toNat else privCsr s n.toNat

/-- What a `csrw` does. -/
inductive CsrWrite
  | done (s : State)
  | illegal
  | operand

/-- A write of a user register (R153). -/
def userCsrWrite (s : State) (n : Nat) (v : Word) : CsrWrite :=
  let t := s.thr
  match userCsr t n with
  | none => .illegal
  | some _ =>
    if n = 0x000 then .done (s.setThr (t.setVl v.toNat))
    else if n = 0x001 then
      (match ewOf (v.extractLsb' 0 6).toNat with
        | some e => .done (s.setThr (t.setEw e))
        | none => .operand)
    else if n = 0x003 then .done (s.setThr { t with slip := v.setWidth 4 })
    else if n = 0x007 then .done (s.setThr { t with mn := v.setWidth 16 })
    else if n = 0x008 then
      (if v.extractLsb' 8 2 = 3 ∨ 6 ≤ (v.extractLsb' 0 3).toNat then .operand
      else .done (s.setThr { t with nctl := v.setWidth 10 &&& 0x37F }))
    else if n = 0x009 then .done (s.setThr { t with srseed := v.setWidth 32 })
    else .done s

/-- The quarters of the core's partition take a pairing window (R373). -/
def Device.setPwin (d : Device) (c : Core) (w : BitVec 4) : Device :=
  { d with pwin := d.pwin.mapFinIdx fun i o _ => if c.part.qmask.getLsbD i then w else o }

/-- A write of a privileged register at the current level (Tables 19.2, 19.3). -/
def privCsrWrite (s : State) (n : Nat) (v : Word) : CsrWrite :=
  let c := s.core
  let t := c.trapRegs c.pl
  match privCsr s n with
  | none => .illegal
  | some _ =>
    if n = 0x100 then .done (s.setCore { c with ie := v.getLsbD 2 })
    else if n = 0x101 then .done (s.setCore (c.setTrapRegs c.pl { t with tvec := align8 v }))
    else if n = 0x102 then .done (s.setCore (c.setTrapRegs c.pl { t with tcause := v &&& 0x7FFFFF }))
    else if n = 0x103 then .done (s.setCore (c.setTrapRegs c.pl { t with tval := v }))
    else if n = 0x104 then .done (s.setCore (c.setTrapRegs c.pl { t with tepc := align8 v }))
    else if n = 0x105 then .done (s.setCore { c with ptbr := v &&& 0x00FFFFFFFFFFF000 })
    else if n = 0x106 then .done (s.setCore { c with asid := v.setWidth 16 })
    else if n = 0x107 then .done { s with dev := s.dev.setPwin c (v.setWidth 4) }
    else .done s

/-- A write by `csrw` (R153, R372). -/
def csrWrite (s : State) (n : BitVec 12) (v : Word) : CsrWrite :=
  if n.toNat < 0x100 then userCsrWrite s n.toNat v else privCsrWrite s n.toNat v

end Sys2Proof.Machine
end

