-- ==== Sys2Proof/Machine/Operands.lean ====
section
/-!
DEFINITION. Operands: scalar operands at their width (R138, R144), vector and mask registers as sources, the checks before an
element is written (R168), the active elements (R169), and the writes of elements, tags, dirty bits and high-water marks (R70,
R71, R89).
-/

namespace Sys2Proof.Machine

/-- The low bits of an x register as a pattern of type `t` (R138, R144). -/
def xbits (t : Ty) (v : Word) : Nat := v.toNat % 2 ^ t.bits
/-- An integer operand (R138). -/
def xint (t : Ty) (v : Word) : Int := intOf t v.toNat
/-- A result of integer type `t` as the whole x register: extended by the sign of the type (R138). -/
def xext (t : Ty) (v : Int) : Word := BitVec.ofInt 64 (intOf t (wrapInt t v))
/-- A pattern extended to the whole x register by the sign of its type. -/
def xextBits (t : Ty) (b : Nat) : Word := BitVec.ofInt 64 (intOf t b)
/-- 1 or 0. -/
def boolWord (b : Bool) : Word := if b then 1 else 0

/-- A vector register as a source. -/
def State.rv (s : State) (r : VReg) : VecReg := s.srcCore.thr.v.get r
/-- A vector register written. -/
def Thread.setV (t : Thread) (r : VReg) (v : VecReg) : Thread := { t with v := t.v.set r.val v r.isLt }
/-- Bit `e` of a mask: `m0` is all ones (R73). -/
def Thread.maskBit (t : Thread) (m : MReg) (e : Nat) : Bool := decide (m = 0) || (t.m.get m).getLsbD e
/-- `VL` as a source. -/
def State.vl (s : State) : Nat := s.srcCore.thr.vl

/-- The elements below `VL` that a mask enables (R169). -/
def State.active (s : State) (m : MReg) : List Nat := (upFrom 0 s.vl).filter (s.srcCore.thr.maskBit m)

/-- The elements of a register of type `t` as patterns. -/
def VecReg.elem (v : VecReg) (t : Ty) (e : Nat) : Nat := elemGet v.data t.bits e

/-- The bytes of element order up to the end of the highest element written (R89). -/
def hwmOf (w : Nat) (es : List Nat) : Nat := es.foldl (fun h e => max h (((e + 1) * w + 7) / 8)) 0

/-- Elements of type `t` written: numbers and patterns, with the tag whole (R70, R71, R89). -/
def VecReg.write (v : VecReg) (t : Ty) (l : List (Nat × Nat)) : VecReg :=
  { v with
    data := l.foldl (fun d p => elemSet d t.bits p.1 p.2) v.data
    ty := t
    span := 0
    dirty := v.dirty || !l.isEmpty
    hwm := max v.hwm (hwmOf t.bits (l.map Prod.fst)) }

/-- A format trap of a vector register (R168, Table 22.1). -/
def State.formatTrap (s : State) (r : VReg) : State :=
  let v := s.rv r
  s.trap cFormat (formatTval r.val v.span v.ty.code)

/-- The tags of sources, checked in order (R168, check 1). -/
def needTags (s : State) : List (VReg × Ty) → Out → Out
  | [], k => k
  | (r, t) :: rest, k => if (s.rv r).ty = t then needTags s rest k else .next (s.formatTrap r)

/-- The width against `EW` (R168, check 2). -/
def needEw (s : State) (w : Nat) (k : Out) : Out := if s.srcCore.thr.ew.bits = w then k else operand s

/-- An operand limit (R168, check 3). -/
def needOperand (s : State) (b : Bool) (k : Out) : Out := if b then k else operand s

/-- The common form of an element-wise instruction: results of type `t` at the active elements of `d`, from sources of the tags
named, at width `w` (R168, R169). -/
def elementwise (s : State) (tags : List (VReg × Ty)) (w : Nat) (t : Ty) (m : MReg) (d : VReg) (f : Nat → Nat) : Out :=
  onVector s <| needTags s tags <| needEw s w <|
    let l := (s.active m).map fun e => (e, f e)
    .next (s.finish (groupsOf s.vl w) (s.thr.setV d ((s.thr.v.get d).write t l)))

/-- A mask written at some bits (R70, R177, R196). -/
def Thread.setMask (t : Thread) (d : MReg) (l : List (Nat × Bool)) : Thread :=
  let old := t.m.get d
  { t with m := t.m.set d.val (l.foldl (fun b p => elemSet b 1 p.1 (if p.2 then 1 else 0)) old) d.isLt }

end Sys2Proof.Machine
end

