-- ==== Sys2Proof/Machine/Translate.lean ====
section
/-!
DEFINITION. Address translation (chapter 21): the walk (R407 to R409), attribute entries (R411), page kinds (R410), the TLB
(R414, R416), the translation server (R429, R430), and what a page's bytes are for a reader (R309, R310, R412).
-/

namespace Sys2Proof.Machine

/-- The fault kinds in the order of Table 22.1. -/
def kNomap : Nat := 0
def kRange : Nat := 1
def kPermission : Nat := 2
def kAttribute : Nat := 3
def kCompressed : Nat := 4

/-- Where a table, a leaf or an attribute address may lie: in slice memory outside the partition map or in HBM outside the
engine-owned range (R405, R406, R408). -/
def mappable (a n : Nat) : Bool :=
  (decide (a + n ≤ devRegBase) && !(decide (a < queueTabBase) && decide (partMapBase < a + n)))
    || (decide (hbmBase ≤ a) && decide (a + n ≤ engineBase))

/-- Whether `n` bytes from `a` lie in one of the partition's RANGES (R422). -/
def inRanges (d : Device) (c : Core) (a n : Nat) : Bool :=
  let p := d.parts.get (partNo c.part.pid)
  p.valid && p.ranges.any fun r => decide (r.1 ≤ a) && decide (a + n ≤ r.2)

/-- A place a table may lie in (R408). -/
def tableOk (d : Device) (c : Core) (a n : Nat) : Bool := mappable a n && inRanges d c a n

/-- The first bit above the offset of a page, or of the index, at a level (Table 21.2). -/
def levelShift : Nat → Nat
  | 0 => 16 | 1 => 21 | 2 => 30 | 3 => 39 | _ => 48
/-- The index width at a level (Table 21.2). -/
def levelBits : Nat → Nat
  | 0 => 5 | _ => 9

/-- What a lookup finds. -/
inductive Tr
  | ok (pa : Nat) (leaf : Option Leaf)
  | fault (kind lvl entry : Nat)

/-- Bits of a page-table entry (Table 21.3). -/
def pteBit (e n : Nat) : Bool := decide (e / 2 ^ n % 2 = 1)
def pteKind (e : Nat) : Nat := e / 64 % 8
def ptePidx (e : Nat) : Nat := e / 2 ^ 56 % 256
def pteAddr (e : Nat) : Nat := e / 4096 % 2 ^ 44 * 4096

/-- The checks of R406 and R409 on a leaf entry at a level; the fault kind, or nothing. -/
def leafFault (d : Device) (c : Core) (e lvl : Nat) : Option Nat :=
  let kind := pteKind e
  let size := 2 ^ levelShift lvl
  let a := pteAddr e
  if e / 512 % 8 ≠ 0 ∨ 2 < lvl ∨ 6 ≤ kind then some kAttribute
  else if a % size ≠ 0 then some kAttribute
  else if ptePidx e ≠ 0 ∧ ¬(1 ≤ kind ∧ kind ≤ 3) then some kAttribute
  else if (1 ≤ kind ∧ kind ≤ 3) ∧ (pteBit e 2 = true ∨ pteBit e 3 = true) then some kAttribute
  else if kind = 4 ∧ pteBit e 2 = true then some kAttribute
  else if kind = 5 ∧ (pteBit e 4 = true ∨ pteBit e 3 = true) then some kAttribute
  else if (kind = 2 ∨ kind = 3) then (if a = 0 then none else some kAttribute)
  else if isRemote a then
    (if kind ≠ 0 ∨ pteBit e 3 = true then some kAttribute else if inRanges d c a size then none else some kRange)
  else if (mappable a size || (isDevReg a && isDevReg (a + size - 1))) && inRanges d c a size then none
  else some kRange

/-- The leaf of an entry, before its attribute entry is read. -/
def leafOf (e lvl va : Nat) : Leaf :=
  { va := va / 2 ^ levelShift lvl * 2 ^ levelShift lvl, lvl := lvl, pa := pteAddr e, w := pteBit e 2, x := pteBit e 3,
    u := pteBit e 4, g := pteBit e 5, kind := pteKind e }

/-- The attribute entry of a leaf of kind 1 to 3 (R411, Table 21.5); the leaf with its parameters, or the fault kind. -/
def attrOf (d : Device) (c : Core) (l : Leaf) (pidx : Nat) : Except Nat Leaf :=
  let base := (c.ptbr.toNat / 4096 % 2 ^ 44) * 4096 + 4096 + 32 * pidx
  let w0 := memLoad d.mem base 8
  let d1 := memLoad d.mem (base + 8) 8
  let d2 := memLoad d.mem (base + 16) 8
  let d3 := memLoad d.mem (base + 24) 8
  let p := w0 / 256 % 256
  let vb := w0 / 65536 % 2 ^ 41 * 65536
  let rows := d1 % 2 ^ 32
  let cols := d1 / 2 ^ 32
  let vlen := if l.kind = 3 then rows * cols * 2 ^ p else d1
  let fieldsOk :=
    match l.kind with
    | 1 => decide (p = 0 ∧ d2 % 16 = 0 ∧ d3 = 0)
    | 2 => decide ((p = 8 ∨ p = 9 ∨ p = 10) ∧ d2 % 16 = 0)
    | _ => decide (p ≤ 2 ∧ 1 ≤ rows ∧ 1 ≤ cols ∧ d2 % 2 ^ p = 0 ∧ d3 % 2 ^ p = 0)
  let placeOk := tableOk d c d2 1 && (l.kind != 2 || tableOk d c d3 1)
  if !tableOk d c base 32 then .error kRange
  else if w0 % 256 ≠ l.kind ∨ w0 / 2 ^ 57 ≠ 0 ∨ fieldsOk = false ∨ l.va < vb ∨ vb + vlen ≤ l.va then .error kAttribute
  else if !placeOk then .error kRange
  else .ok { l with p := p, vbase := vb, d1 := BitVec.ofNat 64 d1, d2 := BitVec.ofNat 64 d2, d3 := BitVec.ofNat 64 d3 }

/-- The walk from the table of level `lvl` (R408): the leaf, or the fault kind with the level and the entry where it stopped. -/
def walkFrom (d : Device) (c : Core) (va : Nat) : Nat → Nat → Except (Nat × Nat × Nat) Leaf
  | lvl, table =>
    let ea := table + 8 * (va / 2 ^ levelShift lvl % 2 ^ levelBits lvl)
    let e := memLoad d.mem ea 8
    if !tableOk d c table 4096 then .error (kRange, lvl, ea)
    else if !pteBit e 0 then .error (kNomap, lvl, ea)
    else if pteBit e 1 then
      match leafFault d c e lvl with
      | some k => .error (k, lvl, ea)
      | none =>
        let l := leafOf e lvl va
        if 1 ≤ l.kind ∧ l.kind ≤ 3 then
          match attrOf d c l (ptePidx e) with
          | .ok l' => .ok l'
          | .error k => .error (k, lvl, ea)
        else .ok l
    else if e / 512 % 8 ≠ 0 ∨ pteBit e 5 = true ∨ pteKind e ≠ 0 ∨ ptePidx e ≠ 0 then .error (kAttribute, lvl, ea)
    else
      match lvl with
      | 0 => .error (kAttribute, lvl, ea)
      | n + 1 => walkFrom d c va n (pteAddr e)

/-- The whole walk of a virtual address (R407, R408). -/
def walk (d : Device) (c : Core) (va : Nat) : Except (Nat × Nat × Nat) Leaf :=
  if 2 ^ 57 ≤ va then .error (kRange, 4, 0)
  else walkFrom d c va 4 (c.ptbr.toNat / 4096 % 2 ^ 44 * 4096)

/-- Whether the address is in the page of an entry and the entry's address space is the core's (R414). -/
def tlbMatch (c : Core) (va : Nat) (e : TlbEntry) : Bool :=
  decide (va / 2 ^ levelShift e.leaf.lvl * 2 ^ levelShift e.leaf.lvl = e.leaf.va) && (e.leaf.g || e.asid == c.asid)

/-- The access checks on a leaf (R410, Table 21.4, R458): the fault kind, or nothing. -/
def accessFault (pl : BitVec 2) (acc : AccKind) (l : Leaf) : Option Nat :=
  let isWrite := acc == .store || acc == .vecStore || acc == .rmw || acc == .cpeDst
  let isCpe := acc == .cpeSrc || acc == .cpeSrcGlob || acc == .cpeDst
  if pl = 0 ∧ l.u = false then some kPermission
  else if l.kind = 1 then (if acc = .cpeSrc then none else some kCompressed)
  else if l.kind = 2 ∨ l.kind = 3 then
    (if acc = .cpeSrc ∨ acc = .cpeSrcGlob ∨ acc = .vecRead then none else some kAttribute)
  else if l.kind = 5 ∧ ¬(acc = .load ∨ acc = .waitLoad ∨ acc = .store) then some kAttribute
  else if isRemote l.pa && !isCpe then some kAttribute
  else if isWrite && !l.w then some kPermission
  else if acc = .fetch ∧ l.x = false then some kPermission
  else none

/-- The physical address of an address in the page of a leaf. -/
def leafPa (l : Leaf) (va : Nat) : Nat := l.pa + va % 2 ^ levelShift l.lvl

/-- A lookup at level 0 or 1: a TLB entry that matches, else a walk (R414, R416). -/
def lookupVirt (d : Device) (c : Core) (pl : BitVec 2) (acc : AccKind) (va : Nat) : Tr :=
  match c.tlb.find? (tlbMatch c va) with
  | some e =>
    match accessFault pl acc e.leaf with
    | some k => .fault k 0 0
    | none => .ok (leafPa e.leaf va) (some e.leaf)
  | none =>
    match walk d c va with
    | .error (k, lvl, ea) => .fault k lvl ea
    | .ok l =>
      match accessFault pl acc l with
      | some k => .fault k 0 0
      | none => .ok (leafPa l va) (some l)

/-- A physical address at level 2 (R406); an address outside the map is refused as a walk refuses it (log entry 14). -/
def lookupPhys (acc : AccKind) (a : Nat) : Tr :=
  if 2 ^ 56 ≤ a then .fault kRange 4 0
  else if isMem a then .ok a none
  else if isDevReg a then
    (if acc = .fetch ∨ acc = .cpeSrc ∨ acc = .cpeSrcGlob ∨ acc = .cpeDst then .fault kAttribute 4 0 else .ok a none)
  else if isRemote a then
    (if acc = .cpeSrc ∨ acc = .cpeSrcGlob ∨ acc = .cpeDst then .ok a none else .fault kAttribute 4 0)
  else .fault kRange 4 0

/-- A lookup at a level. -/
def lookup (d : Device) (c : Core) (pl : BitVec 2) (acc : AccKind) (a : Word) : Tr :=
  if pl = 2 then lookupPhys acc a.toNat else lookupVirt d c pl acc a.toNat

/-- The TLB with a leaf entered, if it holds none for the address (R414). -/
def Core.fill (c : Core) (va : Nat) (l : Option Leaf) : Core :=
  match l with
  | none => c
  | some lf => if (c.tlb.find? (tlbMatch c va)).isSome then c else { c with tlb := c.tlb ++ [{ asid := c.asid, leaf := lf }] }

/-- The pending-map entry that serves a NOMAP fault (R429): the leaf value to write. -/
def serverLeaf (d : Device) (c : Core) (va lvl : Nat) : Option Nat :=
  let desc := c.ptbr.toNat / 4096 % 2 ^ 44 * 4096 + 12288
  let tbl := memLoad d.mem desc 8
  let n := memLoad d.mem (desc + 8) 4
  let bytes := memBytes d.mem desc 64
  let size := 2 ^ levelShift lvl
  if !tableOk d c desc 64 || !zeroAt bytes 12 52 || decide (4096 < n) || decide (tbl % 16 ≠ 0)
      || !tableOk d c tbl (16 * n) then none
  else
    (upFrom 0 n).findSome? fun j =>
      let pva := memLoad d.mem (tbl + 16 * j) 8
      let leaf := memLoad d.mem (tbl + 16 * j + 8) 8
      if pva % size = 0 ∧ pva ≤ va ∧ va < pva + size ∧ pteBit leaf 0 = true ∧ pteBit leaf 1 = true
          ∧ leafFault d c leaf lvl = none then some leaf else none

/-- What a translation fault of a core meets: the leaf the server wrote, or nothing (R429). -/
def Device.serve (d : Device) (c : Core) (va lvl entry : Nat) : Option Device :=
  match serverLeaf d c va lvl with
  | none => none
  | some leaf =>
    if pteBit (memLoad d.mem entry 8) 0 then some d
    else some (d.put none entry (valBytes leaf 8))

/-- Whether translation-fault service is in hardware mode (R404). -/
def hwXlt (d : Device) : Bool := !d.duty.getLsbD 1

/-- The fault record of R430: address, ASID, core. -/
def faultPayload (c : Core) (core : Nat) (va : Word) : List Byte :=
  valBytes va.toNat 8 ++ valBytes c.asid.toNat 2 ++ valBytes core 2

/-- The fault goes to the host: the convoy, or the AIB, is held until the answer (R430). -/
def State.holdFault (s : State) (code : BitVec 8) (va : Word) (vs : Option Nat) : State :=
  let d := s.base
  let c := d.cores.get s.cur
  let p := partNo c.part.pid
  let tag := d.nextTag
  match s.ctx.vp with
  | some r =>
    let d1 := d.ask p 3 s.cur.val (faultPayload c s.cur.val va) (.faultVp s.cur r.vp code va)
    let s1 := { s with dev := d1 }
    let t := s1.thr
    (s1.setThr { (t.setVp r.vp { (t.vps.getD r.vp {}) with runnable := false, held := true, asked := some tag }) with
      aib := t.aib.set s.ctx.lane.val none s.ctx.lane.isLt }).endConvoy
  | none =>
    let vec := vs.map fun e => { word := s.ctx.wordIdx, elem := BitVec.ofNat 14 e : VStart }
    let d1 := d.ask p 3 s.cur.val (faultPayload c s.cur.val va) (.faultCore s.cur code va vec)
    let s1 := { s with dev := d1 }
    let s2 := (s1.setCore { s1.core with wait := some (.host tag) }).endConvoy
    { s2 with ctx := { s2.ctx with trapped := true } }

/-- A translation fault as what runs takes it, with the element recorded in `VSTART` (R417, R425, R429, R430). -/
def State.xlatFault (s : State) (base : BitVec 8) (kind : Nat) (va : Word) (vs : Option Nat) : Out :=
  let code := base + BitVec.ofNat 8 kind
  if kind = kNomap ∧ s.level ≠ 2 ∧ hwXlt s.dev = false then .next (s.holdFault code va vs)
  else .next (s.trapAt code va vs)

/-- The core as what runs translates: with the translations that the checks of its convoy made (R42). -/
def State.viewer (s : State) : Core := { s.core with tlb := s.ctx.pin ++ s.core.tlb }

/-- The TLB after a translation (R414); one that the convoy holds already enters nothing. -/
def State.filled (s : State) (va : Word) (leaf : Option Leaf) : State :=
  if s.ctx.pin.any (tlbMatch s.core va.toNat) then s else s.setCore (s.core.fill va.toNat leaf)

/-- A leaf that the server has written stands whatever becomes of the convoy (R429). -/
def State.withServed (s : State) (d b : Device) (va lvl entry : Nat) : State :=
  { s with
    dev := d, base := b
    ctx := { s.ctx with stop := s.ctx.stop.map fun x => { x with dev := (x.dev.serve s.core va lvl entry).getD x.dev } } }

/-- An address translated for what runs: the TLB is filled, a NOMAP fault is offered to the server (R414, R429). -/
def State.translate (s : State) (acc : AccKind) (va : Word) (vs : Option Nat) : Acc Phys :=
  let code := match acc with | .fetch => cFetch | _ => cData
  match lookup s.dev s.viewer s.level acc va with
  | .ok pa leaf => .ok ⟨pa, leaf⟩ (s.filled va leaf)
  | .fault kind lvl entry =>
    if kind = kNomap ∧ s.level ≠ 2 ∧ hwXlt s.dev = true then
      match s.dev.serve s.core va.toNat lvl entry, s.base.serve s.core va.toNat lvl entry with
      | some d, some b =>
        let s1 := s.withServed d b va.toNat lvl entry
        (match lookup s1.dev s1.viewer s1.level acc va with
          | .ok pa leaf => .ok ⟨pa, leaf⟩ (s1.filled va leaf)
          | .fault k _ _ => .stop (s1.xlatFault code k va vs))
      | _, _ => .stop (s.xlatFault code kind va vs)
    else .stop (s.xlatFault code kind va vs)

/-- The physical bytes that byte `va` of a page is formed from: one for a plain page, the source bytes of a view's element
(R412), and the byte's place in them. -/
def viewSrc (l : Leaf) (va : Nat) : List Nat :=
  let o := va - l.vbase
  match l.kind with
  | 2 =>
    let e := if l.p = 10 then 4 else 2
    let i := o / e
    [l.d2.toNat + i / 2, l.d3.toNat + i / 32]
  | _ =>
    let e := 2 ^ l.p
    let rows := l.d1.toNat % 2 ^ 32
    let i := o / e
    [l.d2.toNat + i % rows * l.d3.toNat + i / rows * e + o % e]

/-- The length of a view in bytes (R411). -/
def viewLen (l : Leaf) : Nat :=
  if l.kind = 3 then l.d1.toNat % 2 ^ 32 * (l.d1.toNat / 2 ^ 32) * 2 ^ l.p else l.d1.toNat

/-- Byte `va` of a view (R412). -/
def viewByte (m : Memory) (l : Leaf) (va : Nat) : Byte :=
  let o := va - l.vbase
  if viewLen l ≤ o then 0
  else
    match l.kind, viewSrc l va with
    | 2, [ca, sa] =>
      let t := if l.p = 8 then Ty.f16 else if l.p = 9 then .bf16 else .f32
      let i := o / t.size
      let b := (memRead m ca).toNat
      let code := if i % 2 = 0 then b % 16 else b / 16
      let v := roundFp t .rne 0 (q4Value (memRead m sa).toNat code)
      BitVec.ofNat 8 (v / 2 ^ (8 * (o % t.size)))
    | _, a :: _ => memRead m a
    | _, [] => 0

/-- The metadata of the block of a compressed page that holds byte `va` (R309, R412). -/
def blockMeta (l : Leaf) (va : Nat) : Nat := l.d2.toNat + 16 * ((va - l.vbase) / 4096)

/-- Where byte `va` of a compressed page is stored, within the block at the leaf's address; a byte of a word the metadata leaves out
is stored nowhere (R309, R412). -/
def compressedSrc (m : Memory) (l : Leaf) (va pa : Nat) : Option Nat :=
  let meta_ := memLoad m (blockMeta l va) 16
  let w := va % 4096 / 32
  if viewLen l ≤ va - l.vbase ∨ meta_ / 2 ^ w % 2 = 0 then none
  else some (pa / 4096 * 4096 + 32 * popNat w meta_ + va % 32)

/-- Byte `va` of a compressed page (R309, R412). -/
def compressedByte (m : Memory) (l : Leaf) (va pa : Nat) : Byte :=
  match compressedSrc m l va pa with
  | some a => memRead m a
  | none => 0

/-- `n` bytes that a reader of a translated place obtains (R410, R412, R413). -/
def physBytes (m : Memory) (ph : Phys) (va n : Nat) : List Byte :=
  match ph.leaf with
  | none => memBytes m ph.pa n
  | some l =>
    if l.kind = 1 then (upFrom 0 n).map fun i => compressedByte m l (va + i) (ph.pa + i)
    else if l.kind = 2 ∨ l.kind = 3 then (upFrom 0 n).map fun i => viewByte m l (va + i)
    else memBytes m ph.pa n

/-- Whether any byte such a reader reads is poisoned (R439). -/
def physPoisoned (d : Device) (ph : Phys) (va n : Nat) : Bool :=
  match ph.leaf with
  | some l =>
    if l.kind = 2 ∨ l.kind = 3 then
      (upFrom 0 n).any fun i => decide (va + i - l.vbase < viewLen l) &&
        (viewSrc l (va + i)).any fun a => poisoned 64 d.poison a 1
    else if l.kind = 1 then
      (upFrom 0 n).any fun i => decide (va + i - l.vbase < viewLen l) &&
        (poisoned 64 d.poison (blockMeta l (va + i)) 16 ||
          (compressedSrc d.mem l (va + i) (ph.pa + i)).any fun a => poisoned 64 d.poison a 1)
    else poisoned 64 d.poison ph.pa n
  | none => poisoned 64 d.poison ph.pa n

end Sys2Proof.Machine
end

