-- ==== Sys2Proof/Machine/Buffers.lean ====
section
/-!
DEFINITION. Local buffers (02_device R16, 09_isa_memory R198, R199): addresses of AB and WB, the groups that make a sibling's AB
reachable (R33), reads and writes of buffers with their poison (22 R439), stamps and swizzles (12 R307, R308), and arrival words
(09 R239).
-/

namespace Sys2Proof.Machine

/-- Buffer sizes (Table 2.1). -/
def abSize : Nat := 0x80000
def wbSize : Nat := 0x100000
def mdSize : Nat := 0x10000

/-- The launch whose thread is on a core. -/
def Device.launchOn (d : Device) (c : CoreNo) : Option Launch :=
  match (d.cores.get c).launch with
  | none => none
  | some id => d.launches.find? fun l => l.id == id

/-- The core that holds thread `t` of the launch on core `c`. -/
def Device.sibling (d : Device) (c : CoreNo) (t : Nat) : Option CoreNo :=
  match d.launchOn c with
  | some l => l.cores[t]?
  | none => none

/-- A group that is in use (R30). -/
def Group.used (g : Group) : Bool := g.members != 0

/-- Whether a thread is a member of a group. -/
def Group.has (g : Group) (t : Nat) : Bool := g.members.getLsbD t

/-- Whether threads `t` and `u` of the launch on core `c` share a group (R33). -/
def Device.shares (d : Device) (c : CoreNo) (t u : Nat) : Bool :=
  match d.launchOn c with
  | some l => l.groups.any fun g => g.has t && g.has u
  | none => false

/-- Whether a core is retired: its local buffers are unreachable (R23). -/
def Device.isRetired (d : Device) (c : CoreNo) : Bool := d.parts.toList.any fun m => m.valid && m.retired.getLsbD c.val

/-- The place a local-buffer address of `n` bytes names for the thread on core `c`, under the conditions of R199. -/
def Device.placeOf (d : Device) (c : CoreNo) (sp : Space) (a : Word) (n : Nat) : Option Local :=
  let v := a.toNat
  match sp with
  | .glob => none
  | .wb => if v + n ≤ wbSize then some ⟨c, true, v⟩ else none
  | .ab =>
    let off := v % 0x80000
    let rem := v / 0x80000 % 2
    let t := v / 0x100000 % 256
    let thr := (d.cores.get c).thr
    if 2 ^ 28 ≤ v ∨ abSize < off + n then none
    else if rem = 0 then (if t = 0 then some ⟨c, false, off⟩ else none)
    else if thr.nthr ≤ t then none
    else if t = thr.tid.toNat then some ⟨c, false, off⟩
    else if d.shares c thr.tid.toNat t then
      (match d.sibling c t with
        | some o => some ⟨o, false, off⟩
        | none => none)
    else none

/-- That place, where it can be reached. DESIGN CHOICE: R23 says of a retired core's buffers that they are unreachable, and R199 lists no such
case; an address that names one, the core's own with the rest, is treated as one R199 refuses: an address fault, and for a transfer a launch
refused or the end FAULTED (log entry 86). -/
def Device.locate (d : Device) (c : CoreNo) (sp : Space) (a : Word) (n : Nat) : Option Local :=
  (d.placeOf c sp a n).filter fun l => !d.isRetired l.core

/-- The bytes of a buffer. -/
def Core.buf (c : Core) (wb : Bool) : Memory := if wb then c.wb else c.ab

/-- `n` bytes read at a place. -/
def Device.localBytes (d : Device) (l : Local) (n : Nat) : List Byte := memBytes ((d.cores.get l.core).buf l.wb) l.off n

/-- Whether a read of `n` bytes at a place meets a poisoned granule (R439). -/
def Device.localPoisoned (d : Device) (l : Local) (n : Nat) : Bool :=
  let c := d.cores.get l.core
  poisoned 128 (if l.wb then c.wbPoison else c.abPoison) l.off n

/-- Bytes written into a buffer by one write: a granule covered whole is no longer poisoned (R439). -/
def Core.bufPut (c : Core) (wb : Bool) (off : Nat) (bs : List Byte) : Core :=
  if wb then { c with wb := memPut c.wb off bs, wbPoison := unpoison 128 c.wbPoison off bs.length }
  else { c with ab := memPut c.ab off bs, abPoison := unpoison 128 c.abPoison off bs.length }

/-- Bytes written at a place. -/
def Device.localPut (d : Device) (l : Local) (bs : List Byte) : Device := d.onCore l.core fun c => c.bufPut l.wb l.off bs

/-- `Swz` (R307). -/
def swz (o s : Nat) : Nat := o ^^^ (o / 2 ^ (4 + s) % 2 ^ s * 16)

/-- The stamp of the KiB of a buffer that holds an offset. -/
def Core.stamp (c : Core) (wb : Bool) (off : Nat) : BitVec 3 :=
  if wb then c.wbStamp.get (Fin.ofNat 1024 (off / 1024)) else c.abStamp.get (Fin.ofNat 512 (off / 1024))

/-- A stamp set (R308). -/
def Core.setStamp (c : Core) (wb : Bool) (off : Nat) (s : BitVec 3) : Core :=
  let i := off / 1024
  if wb then { c with wbStamp := c.wbStamp.set (Fin.ofNat 1024 i).val s (Fin.ofNat 1024 i).isLt }
  else { c with abStamp := c.abStamp.set (Fin.ofNat 512 i).val s (Fin.ofNat 512 i).isLt }

/-- The bytes of one write at logical offset `off`, each placed by `Swz`; a KiB the transfer has not written before is stamped
(R308). -/
def Core.swzBytes (c : Core) (wb : Bool) (s : BitVec 3) (old : List Nat) : Nat → List Byte → Core
  | _, [] => c
  | off, b :: t =>
    let p := swz off s.toNat
    let c1 := if wb then { c with wb := memWrite c.wb p b } else { c with ab := memWrite c.ab p b }
    (if old.contains (p / 1024) then c1 else c1.setStamp wb p s).swzBytes wb s old (off + 1) t

/-- One write of the copy engine into a buffer; `old` are the KiBs its transfer has written before. A write of an aligned 128-byte
element covers one granule whole, wherever the swizzle puts it (R439). -/
def Core.swzPut (c : Core) (wb : Bool) (off : Nat) (s : BitVec 3) (old : List Nat) (bs : List Byte) : Core :=
  let c1 := c.swzBytes wb s old off bs
  let g := swz off s.toNat / 128 * 128
  if bs.length = 128 then
    (if wb then { c1 with wbPoison := unpoison 128 c1.wbPoison g 128 }
    else { c1 with abPoison := unpoison 128 c1.abPoison g 128 })
  else c1

/-- The step of an arrival word that counts `n` bytes (R239). DESIGN CHOICE: COUNT + n is compared with TOTAL before it wraps to 32 bits, and
wraps while TOTAL is 0, for the spec gives the sum no width (log entry 89). -/
def countArrival (m : Memory) (a n : Nat) : Memory :=
  let total := memLoad m a 4
  let c := memLoad m (a + 4) 4 + n
  if total = 0 then memStore m (a + 4) c 4
  else memStore (memStore m (a + 4) (c % total) 4) (a + 8) (memLoad m (a + 8) 4 + c / total) 4

/-- The arrival word at a place counts `n` bytes (R239). DESIGN CHOICE: it counts on in a granule that is poisoned, as if its bytes were sound
(R439; log entry 83). -/
def Device.arrive (d : Device) (l : Local) (n : Nat) : Device :=
  d.onCore l.core fun c => { c with ab := countArrival c.ab l.off n }

end Sys2Proof.Machine
end

