-- ==== Sys2Proof/Machine/Transfer.lean ====
section
/-!
DEFINITION. Transfers of the copy engine (chapter 12): the shape of R295, hulls (R298), launch checks (Table 12.2), one element
(R295, R308 to R311, R458 to R461), watermarks (R301), completion (R300), and the order of a transfer against the accesses and
transfers of its thread (R302 to R304).
-/

namespace Sys2Proof.Machine

/-- A shadow register by number (R312). -/
def regOf (r : Vector Word 29) (n : Nat) : Nat := (r.get (Fin.ofNat 29 n)).toNat
/-- A field of a shadow register. -/
def fieldOf (r : Vector Word 29) (n lo w : Nat) : Nat := regOf r n / 2 ^ lo % 2 ^ w

/-- `CPY_SRC` and `CPY_DST` (R290). -/
def spaceOf (v : Nat) : Space := match v / 2 ^ 57 % 4 with | 1 => .ab | 2 => .wb | _ => .glob
def srcSpace (r : Vector Word 29) : Space := spaceOf (regOf r 0)
def dstSpace (r : Vector Word 29) : Space := spaceOf (regOf r 1)
def srcBase (r : Vector Word 29) : Nat := fieldOf r 0 0 57
def dstBase (r : Vector Word 29) : Nat := fieldOf r 1 0 57
/-- `CPY_EXTd`, `CPY_SSTRd`, `CPY_DSTRd`, the dimension at a nest level (R291). -/
def extOf (r : Vector Word 29) (d : Nat) : Nat := regOf r (2 + d)
def sstrOf (r : Vector Word 29) (d : Nat) : Word := r.get (Fin.ofNat 29 (9 + d))
def dstrOf (r : Vector Word 29) (d : Nat) : Word := r.get (Fin.ofNat 29 (16 + d))
def dimAt (r : Vector Word 29) (i : Nat) : Nat := fieldOf r 23 (3 * i) 3
/-- `CPY_XF` (R292). -/
def xfCvt (r : Vector Word 29) : Bool := decide (fieldOf r 26 3 1 = 1)
def xfU (r : Vector Word 29) : Nat := fieldOf r 26 4 5
def xfT (r : Vector Word 29) : Nat := fieldOf r 26 9 5
def xfRm (r : Vector Word 29) : Nat := fieldOf r 26 14 3
def tyU (r : Vector Word 29) : Ty := Ty.ofCode (BitVec.ofNat 5 (xfU r))
def tyT (r : Vector Word 29) : Ty := Ty.ofCode (BitVec.ofNat 5 (xfT r))
def esOf (r : Vector Word 29) : Nat := if xfCvt r then (tyU r).size else 2 ^ fieldOf r 26 0 3
def edOf (r : Vector Word 29) : Nat := if xfCvt r then (tyT r).size else 2 ^ fieldOf r 26 0 3
/-- `CPY_BND` (R293). -/
def senOf (r : Vector Word 29) : Bool := decide (fieldOf r 25 63 1 = 1)
def denOf (r : Vector Word 29) : Bool := decide (fieldOf r 25 62 1 = 1)
def inWin (r : Vector Word 29) (a n base : Nat) : Bool :=
  decide (base + fieldOf r 25 0 31 ≤ a) && decide (a + n ≤ base + fieldOf r 25 0 31 + fieldOf r 25 31 31)
/-- `CPY_SWZ` and `CPY_SYNC` (R291, R294). -/
def swzSpan (r : Vector Word 29) : BitVec 3 := BitVec.ofNat 3 (fieldOf r 27 0 3)
def syncOn (r : Vector Word 29) : Bool := decide (fieldOf r 28 0 1 = 1)
def syncAddr (r : Vector Word 29) : Word := BitVec.ofNat 64 (fieldOf r 28 4 24 * 16)

/-- The number of elements. -/
def totalOf (r : Vector Word 29) : Nat := (upFrom 0 7).foldl (fun n d => n * extOf r d) 1

/-- The index vector of element `n` in nest order, as pairs of dimension and index. -/
def nestIndex (r : Vector Word 29) (n : Nat) : List (Nat × Nat) :=
  ((upFrom 0 7).foldl (fun (acc : Nat × List (Nat × Nat)) i =>
    let d := dimAt r i
    (acc.1 / extOf r d, (d, acc.1 % extOf r d) :: acc.2)) (n, [])).2

/-- The source and destination address of element `n` (R295). -/
def srcAt (r : Vector Word 29) (n : Nat) : Word :=
  (nestIndex r n).foldl (fun a p => a + BitVec.ofNat 64 p.2 * sstrOf r p.1) (BitVec.ofNat 64 (srcBase r))
def dstAt (r : Vector Word 29) (n : Nat) : Word :=
  (nestIndex r n).foldl (fun a p => a + BitVec.ofNat 64 p.2 * dstrOf r p.1) (BitVec.ofNat 64 (dstBase r))

/-- Whether the window admits element `n` on each side (R295). -/
def srcAdmitted (r : Vector Word 29) (n : Nat) : Bool := !senOf r || inWin r (srcAt r n).toNat (esOf r) (srcBase r)
def dstAdmitted (r : Vector Word 29) (n : Nat) : Bool := !denOf r || inWin r (dstAt r n).toNat (edOf r) (dstBase r)

/-- The number of a buffer in a hull (R298). -/
def Local.bufNo (l : Local) : Nat := if l.wb then 200 + l.core.val else 1 + l.core.val
/-- The `n` bytes of an access as the transfers of the thread name them (R298, R304). -/
def Spot.named (p : Spot) (a : Word) (n : Nat) : Hull :=
  match p with
  | .glob _ => ⟨0, a.toNat, a.toNat + n⟩
  | .loc l => ⟨l.bufNo, l.off, l.off + n⟩

/-- The range of one element of a side: its buffer, first byte and end. -/
def elemRange (d : Device) (c : CoreNo) (sp : Space) (a : Word) (n : Nat) : Option Hull :=
  match sp with
  | .glob => some ⟨0, a.toNat, a.toNat + n⟩
  | _ => (d.locate c sp a n).map fun l => ⟨l.bufNo, l.off, l.off + n⟩

/-- A range joined to the hull of its buffer (R298). -/
def addHull (h : Hull) : List Hull → List Hull
  | [] => [h]
  | g :: t => if g.buf = h.buf then ⟨g.buf, min g.lo h.lo, max g.hi h.hi⟩ :: t else g :: addHull h t

/-- The hulls of the elements of a side. -/
def hullsOf (rs : List (Option Hull)) : List Hull := (rs.filterMap id).foldl (fun hs h => addHull h hs) []

/-- The ranges of the admitted elements of each side. -/
def srcRanges (d : Device) (c : CoreNo) (r : Vector Word 29) : List (Option Hull) :=
  ((upFrom 0 (totalOf r)).filter (srcAdmitted r)).map fun n => elemRange d c (srcSpace r) (srcAt r n) (esOf r)
def dstRanges (d : Device) (c : CoreNo) (r : Vector Word 29) : List (Option Hull) :=
  ((upFrom 0 (totalOf r)).filter (dstAdmitted r)).map fun n => elemRange d c (dstSpace r) (dstAt r n) (edOf r)

/-- Whether two ranges of one buffer share a byte (R298). -/
def Hull.meets (a b : Hull) : Bool := a.buf == b.buf && decide (a.lo < b.hi) && decide (b.lo < a.hi)
def hullsMeet (a b : List Hull) : Bool := a.any fun x => b.any x.meets

/-- Type codes that convert (R297). -/
def convCode (n : Nat) : Bool := decide (n ≤ 5 ∨ (8 ≤ n ∧ n ≤ 10) ∨ n = 12 ∨ n = 13)

/-- Whether `CPY_PERM` is a permutation, and the identity (R291, R295). -/
def permOk (r : Vector Word 29) : Bool := (upFrom 0 7).all fun d => (upFrom 0 7).any fun i => dimAt r i == d
def permuting (r : Vector Word 29) : Bool := (upFrom 0 7).any fun i => dimAt r i != i

/-- The check that refuses a launch, in the order of Table 12.2. -/
def launchRefusal (d : Device) (c : CoreNo) (t : Thread) (k : Chan) : Option Nat :=
  let r := t.shadow.get k
  let es := esOf r
  let ed := edOf r
  let badXf := if xfCvt r then !convCode (xfU r) || !convCode (xfT r) || xfU r == xfT r || xfRm r == 6
    else xfU r != 0 || xfT r != 0 || xfRm r != 0
  if (t.transfers.get k).isSome then some 0x03
  else if badXf then some 0x04
  else if !permOk r || ((upFrom 0 7).any fun i => decide (2 ^ 32 < extOf r i)) || decide (2 ^ 40 < es * totalOf r)
      || srcBase r % es != 0 || dstBase r % ed != 0
      || (upFrom 0 7).any (fun i => (sstrOf r i).toNat % es != 0 || (dstrOf r i).toNat % ed != 0) then some 0x02
  else if (srcRanges d c r).any Option.isNone || (dstRanges d c r).any Option.isNone then some 0x05
  else if syncOn r && (d.locate c .ab (syncAddr r) 16).isNone then some 0x06
  else if permuting r && hullsMeet (hullsOf (srcRanges d c r)) (hullsOf (dstRanges d c r)) then some 0x01
  else none

/-- A destination address in the form of R301. -/
def wmForm (r : Vector Word 29) (a : Nat) : Nat :=
  match dstSpace r with
  | .glob => a
  | .ab => a % 0x80000
  | .wb => a % 0x100000

/-- The lowest low end and the highest end of the destination hulls (R299, R300); none: `DST.ADDR` in that form. -/
def wmLow (r : Vector Word 29) (hs : List Hull) : Nat :=
  match hs with
  | [] => wmForm r (dstBase r)
  | h :: t => t.foldl (fun m g => min m g.lo) h.lo
def wmHigh (r : Vector Word 29) (hs : List Hull) : Nat :=
  match hs with
  | [] => wmForm r (dstBase r)
  | h :: t => t.foldl (fun m g => max m g.hi) h.hi

/-- The elements of a transfer not yet performed: not reached, held, spilled, or without their acknowledgement. -/
def Transfer.pending (t : Transfer) : List Nat :=
  upFrom t.cursor (t.total - t.cursor) ++ t.held ++ t.spilled.map Prod.fst ++ t.unacked.map Prod.fst

/-- `WMk` while a transfer is in flight: the lowest destination byte of a write still to come, at most the highest end, and never
less than before (R301). -/
def Transfer.mark (t : Transfer) (old : Nat) : Nat :=
  let r := t.regs
  let low := (t.pending.filter (dstAdmitted r)).foldl (fun m n => min m (wmForm r (dstAt r n).toNat)) (wmHigh r t.dstH)
  max old low

/-- Where an element's bytes are read or written. -/
inductive Place
  | glob (ph : Phys) (va : Nat)
  | remote (key : Nat) (host : Bool)
  | buf (l : Local)
  deriving DecidableEq, Repr

/-- What the copy engine finds at an address. -/
inductive Look
  | ok (p : Place)
  | nomap (lvl entry : Nat)
  | bad
  deriving DecidableEq, Repr

/-- The core as the transfer's translations see it (R416). -/
def Transfer.view (t : Transfer) (c : Core) : Core := { c with ptbr := t.ptbr, asid := t.asid, pl := t.pl }

/-- A remote address under the checks of R459: the place in the memory of the other side. -/
def remotePlace (d : Device) (c : Core) (pa : Nat) (write : Bool) : Option Place :=
  let w := pa / 2 ^ 39 % 65536
  let off := pa % 2 ^ 39
  let e := windowTabBase + 0x100000 * (partNo c.part.pid).val + 16 * w
  let w0 := memLoad d.mem e 4
  let fid := w0 % 2 ^ 20
  let target := w0 / 2 ^ 20 % 4
  let base := memLoad d.mem (e + 8) 8
  let zeros := decide (w0 / 2 ^ 23 = 0 ∧ memLoad d.mem (e + 4) 4 = 0)
  let allowed := !write || decide (w0 / 2 ^ 22 % 2 = 1)
  let open_ := decide (off < 0xFE0000) || (decide (hbmBase ≤ off) && decide (off < engineBase))
  if !zeros || !allowed || decide (2 ^ 19 ≤ fid) then none
  else if target = 1 then
    (if base != 0 || !open_ then none
    else if fid = d.fid.toNat then some (.glob ⟨off, none⟩ off)
    else if memLoad d.mem (routeTabBase + 2 * fid) 2 &&& d.portUp.toNat = 0 then none
    else some (.remote (fid * 2 ^ 39 + off) false))
  else if target = 2 then (if base % 2 ^ 39 = 0 then some (.remote (2 ^ 64 + base + off) true) else none)
  else none

/-- The place of an element of a side (R295, R410, R458). -/
def Transfer.look (t : Transfer) (d : Device) (c : CoreNo) (sp : Space) (acc : AccKind) (a : Word) (n : Nat) : Look :=
  let core := t.view (d.cores.get c)
  match sp with
  | .glob =>
    (match lookup d core core.pl acc a with
      | .fault k lvl e => if k = kNomap ∧ core.pl ≠ 2 then .nomap lvl e else .bad
      | .ok pa leaf =>
        if isRemote pa then
          (match remotePlace d core pa (acc == .cpeDst) with
            | some p => .ok p
            | none => .bad)
        else .ok (.glob ⟨pa, leaf⟩ a.toNat))
  | _ =>
    match d.locate c sp a n with
    | some l => .ok (.buf l)
    | none => .bad

/-- The bytes at a place, or nothing where one of them is poisoned (R439). -/
def Place.bytes (p : Place) (d : Device) (n : Nat) : Option (List Byte) :=
  match p with
  | .glob ph va => if physPoisoned d ph va n then none else some (physBytes d.mem ph va n)
  | .remote k _ => some (memBytes d.remote k n)
  | .buf l => if d.localPoisoned l n then none else some (d.localBytes l n)

/-- The bytes of an element from its source's (R295, R297): filled outside the window, converted under the launch's numeric
state. -/
def fillBytes (r : Vector Word 29) (n : Nat) : List Byte :=
  (upFrom 0 n).map fun b => BitVec.ofNat 8 (regOf r 24 / 2 ^ (8 * (b % 8)))
def Transfer.convert (t : Transfer) (n : Nat) (bs : List Byte) : List Byte :=
  if xfCvt t.regs then
    let v := convBits ⟨t.nctl, t.seed, t.ctr⟩ (Mode.ofCode (BitVec.ofNat 3 (xfRm t.regs))) (n % 2 ^ 32)
      (tyT t.regs) (tyU t.regs) (bytesVal bs)
    valBytes v (edOf t.regs)
  else bs

/-- Channel `k` of a core after a change to its transfer. -/
def Device.setTransfer (d : Device) (c : CoreNo) (k : Chan) (t : Option Transfer) : Device :=
  d.onCore c fun o => { o with thr := { o.thr with transfers := o.thr.transfers.set k.val t k.isLt } }
/-- The status of a channel's last transfer (R316). -/
def Device.setStatus (d : Device) (c : CoreNo) (k : Chan) (st : BitVec 2) : Device :=
  d.onCore c fun o => { o with thr := { o.thr with cpStatus := o.thr.cpStatus.set k.val st k.isLt } }
def Device.setWm (d : Device) (c : CoreNo) (k : Chan) (v : Nat) : Device :=
  d.onCore c fun o => { o with thr := { o.thr with wm := o.thr.wm.set k.val (BitVec.ofNat 64 v) k.isLt } }

/-- The id of a transfer (R299). -/
def xferId (k : Chan) (q : BitVec 24) : Word := 0#36 ++ BitVec.ofNat 4 k.val ++ q

/-- The end of a transfer, FAULTED (R311, Table 22.4) or CANCELLED (R318): its entry is freed and its watermark kept. -/
def Device.endTransfer (d : Device) (c : CoreNo) (k : Chan) (st : BitVec 2) : Device :=
  (d.setTransfer c k none).setStatus c k st
/-- FAULTED, once there is space for its record; until then the transfer stays in its channel (R453). -/
def Device.faultTransfer (d : Device) (c : CoreNo) (k : Chan) (t : Transfer) : Device :=
  let e := (d.endTransfer c k 2).logError (partNo (d.cores.get c).part.pid) 0x0031 c.val (xferId k t.q)
  if d.needsSpace e 5 then d.setTransfer c k (some { t with failing := true }) else e

/-- Bytes of an element counted into the bound arrival word (R306). -/
def Device.countSync (d : Device) (c : CoreNo) (r : Vector Word 29) (n : Nat) : Device :=
  if syncOn r then
    (match d.locate c .ab (syncAddr r) 16 with
      | some l => d.arrive l n
      | none => d)
  else d

/-- The KiBs of its buffer that a write of `n` bytes at a place of the transfer touches (R308). -/
def Transfer.kibs (t : Transfer) (p : Place) (n : Nat) : List (Nat × Nat) :=
  match p with
  | .buf l => ((upFrom l.off n).map fun o => (l.bufNo, swz o (swzSpan t.regs).toNat / 1024)).eraseDups
  | _ => []
/-- They are stamped once by the transfer. -/
def Transfer.stamp (t : Transfer) (p : Place) (n : Nat) : Transfer :=
  { t with stamped := t.stamped ++ (t.kibs p n).filter fun k => !t.stamped.contains k }

/-- One write of an element (R295, R308). -/
def Device.copyWrite (d : Device) (t : Transfer) (p : Place) (bs : List Byte) : Device :=
  match p with
  | .glob ph _ => d.put none ph.pa bs
  | .remote k _ => { d with remote := memPut d.remote k bs }
  | .buf l => d.onCore l.core fun c =>
      c.swzPut l.wb l.off (swzSpan t.regs) ((t.stamped.filter fun k => k.1 == l.bufNo).map Prod.snd) bs

/-- The state of channel `k` after its transfer has advanced: the watermark follows, and a transfer with nothing left is
complete (R300, R301). -/
def Device.advance (d : Device) (c : CoreNo) (k : Chan) (t : Transfer) : Device :=
  if t.pending.isEmpty && !t.failing then ((d.setTransfer c k none).setStatus c k 0).setWm c k (wmHigh t.regs t.dstH)
  else (d.setTransfer c k (some t)).setWm c k (t.mark ((d.cores.get c).thr.wm.get k).toNat)

/-- Whether the write of element `n` must wait behind elements held or spilled before it: theirs come first in nest order
(R296, R311). -/
def Transfer.blocked (t : Transfer) (d : Device) (c : CoreNo) (n : Nat) : Bool :=
  let r := t.regs
  let src (m : Nat) := elemRange d c (srcSpace r) (srcAt r m) (esOf r)
  let dst (m : Nat) := elemRange d c (dstSpace r) (dstAt r m) (edOf r)
  let meets (a b : Option Hull) : Bool := match a, b with | some x, some y => x.meets y | _, _ => false
  (t.held.any fun m => decide (m < n) && (meets (dst n) (src m) || meets (dst n) (dst m) || meets (src n) (dst m)))
    || (t.spilled.any fun p => decide (p.1 < n) && (meets (dst n) (dst p.1) || meets (src n) (dst p.1)))

/-- The host is asked about a fault of an element (R430), and told of a spill whose replay is its duty (R404), one of each at a
time. -/
def Device.askFault (d : Device) (c : CoreNo) (k : Chan) (t : Transfer) (va : Word) : Device × Transfer :=
  match t.tag with
  | some _ => (d, t)
  | none =>
    (d.ask (partNo (d.cores.get c).part.pid) 3 c.val (faultPayload (t.view (d.cores.get c)) c.val va) (.faultElem c k),
      { t with tag := some d.nextTag })
def Device.askSpill (d : Device) (c : CoreNo) (k : Chan) (t : Transfer) : Device × Transfer :=
  match t.spillTag with
  | some _ => (d, t)
  | none =>
    (d.ask (partNo (d.cores.get c).part.pid) 4 c.val (valBytes (xferId k t.q).toNat 8) (.spill c k),
      { t with spillTag := some d.nextTag })

/-- The page of every spilled write has been served: the hardware may replay them, or the host is told (R311, R404), but where their replay
has begun. -/
def Device.spillServed (d : Device) (c : CoreNo) (k : Chan) (t : Transfer) : Device × Transfer :=
  if t.spilled.isEmpty || t.served then (d, t)
  else if d.duty.getLsbD 2 then d.askSpill c k t
  else (d, { t with served := true })

/-- The write of element `n` is performed, or diverted to the spill buffer (R311): `t` is the transfer with the element taken
from its pending work. -/
def Device.writeElem (d : Device) (c : CoreNo) (k : Chan) (t : Transfer) (n : Nat) (bs : List Byte) : Device :=
  let r := t.regs
  let a := dstAt r n
  match t.look d c (dstSpace r) .cpeDst a (edOf r) with
  | .ok p =>
    let d1 := d.copyWrite t p bs
    let t1 := t.stamp p bs.length
    (match p with
      | .remote _ host => d1.advance c k { t1 with unacked := t1.unacked ++ [(n, host)] }
      | _ => (d1.countSync c r (edOf r)).advance c k t1)
  | .bad => d.faultTransfer c k t
  | .nomap lvl e =>
    let spilled := { t with spilled := t.spilled ++ [(n, { addr := a, bytes := bs })], served := false }
    if hwXlt d then
      (match d.serve (t.view (d.cores.get c)) a.toNat lvl e with
        | none => d.faultTransfer c k t
        | some d1 =>
          let (d2, t2) := d1.spillServed c k spilled
          d2.advance c k t2)
    else
      let (d1, t1) := d.askFault c k spilled a
      d1.advance c k t1

/-- The fabric id of the window entry a remote address selects (R457, R458). -/
def windowFid (d : Device) (c : Core) (pa : Nat) : Nat :=
  memLoad d.mem (windowTabBase + 0x100000 * (partNo c.part.pid).val + 16 * (pa / 2 ^ 39 % 65536)) 4 % 2 ^ 20

/-- Whether element `n` has a remote side, and the fabric id its window names (R458, R460): by its address alone, whatever the checks
of R459 will say. -/
def Transfer.remoteFid (t : Transfer) (d : Device) (c : CoreNo) (n : Nat) : Option Nat :=
  let r := t.regs
  let core := t.view (d.cores.get c)
  let side (sp : Space) (acc : AccKind) (a : Word) : Option Nat :=
    match sp, lookup d core core.pl acc a with
    | .glob, .ok pa _ => if isRemote pa then some (windowFid d core pa) else none
    | _, _ => none
  (if srcAdmitted r n then side (srcSpace r) .cpeSrc (srcAt r n) else none).or
    (if dstAdmitted r n then side (dstSpace r) .cpeDst (dstAt r n) else none)

/-- A transfer held until the host lets it proceed (R454, R460). -/
def Device.holdRemote (d : Device) (c : CoreNo) (k : Chan) (t : Transfer) (fid : Nat) : Device :=
  let d1 := d.ask (partNo (d.cores.get c).part.pid) 6 c.val (valBytes (xferId k t.q).toNat 8 ++ valBytes fid 4) (.remote c k)
  d1.setTransfer c k (some { t with waits := true, hostTag := some d.nextTag })

/-- The fabric id for which a transfer must be held before its elements of a list: one whose remote side was not mapped at its launch
is held when it is met (R460). -/
def Transfer.mustHold (t : Transfer) (d : Device) (c : CoreNo) (ns : List Nat) : Option Nat :=
  if d.duty.getLsbD 4 && !t.cleared then ns.findSome? (t.remoteFid d c) else none

/-- Element `n` is read, converted and written (R295): `t` is the transfer with the element taken from its pending
work. One whose source is found to be remote once its page is served is held (R460). -/
def Device.runElem (d : Device) (c : CoreNo) (k : Chan) (t : Transfer) (n : Nat) : Device :=
  let r := t.regs
  let acc := if dstSpace r = .glob then AccKind.cpeSrcGlob else .cpeSrc
  let write (d : Device) (bs : List Byte) : Device :=
    if dstAdmitted r n then d.writeElem c k t n (t.convert n bs)
    else (d.countSync c r (edOf r)).advance c k t
  if !srcAdmitted r n then write d (fillBytes r (esOf r))
  else
    match t.look d c (srcSpace r) acc (srcAt r n) (esOf r) with
    | .bad => d.faultTransfer c k t
    | .ok p =>
      (match p.bytes d (esOf r) with
        | some bs => write d bs
        | none => d.faultTransfer c k t)
    | .nomap lvl e =>
      if hwXlt d then
        (match d.serve (t.view (d.cores.get c)) (srcAt r n).toNat lvl e with
          | none => d.faultTransfer c k t
          | some d1 =>
            match t.mustHold d1 c [n], t.look d1 c (srcSpace r) acc (srcAt r n) (esOf r) with
            | some fid, _ => d1.holdRemote c k { t with held := t.held ++ [n] } fid
            | none, .ok p =>
              (match p.bytes d1 (esOf r) with
                | some bs => write d1 bs
                | none => d1.faultTransfer c k t)
            | none, _ => d1.faultTransfer c k t)
      else
        let (d1, t1) := d.askFault c k { t with held := t.held ++ [n] } (srcAt r n)
        d1.advance c k t1

/-- The destination hulls in physical offsets: the aligned rows that hold their logical ones (R302, R307). -/
def Transfer.dstP (t : Transfer) : List Hull :=
  let r := 16 * 2 ^ (swzSpan t.regs).toNat
  t.dstH.map fun h => if h.buf = 0 then h else ⟨h.buf, h.lo / r * r, (h.hi + r - 1) / r * r⟩

/-- Whether an earlier transfer of the thread must come first: its writes meet the later one's bytes, or its reads the later
one's writes (R304). -/
def Transfer.before (e t : Transfer) : Bool :=
  decide (e.ord < t.ord) && (hullsMeet e.dstP t.srcH || hullsMeet e.dstP t.dstP || hullsMeet e.srcH t.dstP)

/-- The channel whose transfer is to advance when channel `k` would: the earliest that must come first. -/
def firstToRun (thr : Thread) : Nat → Chan → Chan
  | 0, k => k
  | f + 1, k =>
    match thr.transfers.get k with
    | none => k
    | some t =>
      match (List.finRange 16).find? fun j =>
        match thr.transfers.get j with | some e => e.before t | none => false with
      | some j => firstToRun thr f j
      | none => k

/-- The first spilled write of channel `k` replayed (R311): its byte's earlier writes came first. -/
def Device.replayOne (d : Device) (c : CoreNo) (k : Chan) (t : Transfer) : Device :=
  match t.spilled with
  | [] => d
  | (n, w) :: rest =>
    match t.mustHold d c [n] with
    | some fid => d.holdRemote c k t fid
    | none => d.writeElem c k { t with spilled := rest } n w.bytes

/-- Whether an instruction of the queue stands before a transfer: one that was launched after it touches the bytes the transfer writes, or
writes those it reads (R304). -/
def Core.lateBefore (c : Core) (t : Transfer) : Bool :=
  c.late.any fun e => decide (e.no < t.lateNo) && e.pl == t.pl &&
    e.touches.any fun u =>
      let h := u.spot.named u.addr u.n
      t.dstP.any h.meets || (u.write && t.srcH.any h.meets)

/-- Channel `k` advances by one element (R295, R304), or by the replay of one served spill; nothing where the transfer waits. -/
def Device.stepChannel (d : Device) (c : CoreNo) (k : Chan) : Device :=
  let j := firstToRun (d.cores.get c).thr 16 k
  match (d.cores.get c).thr.transfers.get j with
  | none => d
  | some t =>
    if t.waits || (d.cores.get c).lateBefore t then d
    else if t.failing then d.faultTransfer c j t
    else if t.served && !t.spilled.isEmpty then d.replayOne c j t
    else if t.paused || decide (t.total ≤ t.cursor) || t.blocked d c t.cursor then d
    else
      match t.mustHold d c [t.cursor] with
      | some fid => d.holdRemote c j t fid
      | none => d.runElem c j { t with cursor := t.cursor + 1 } t.cursor

/-- Channel `k` run for up to `f` steps. -/
def Device.runChannel (c : CoreNo) (k : Chan) : Nat → Device → Device
  | 0, d => d
  | f + 1, d => Device.runChannel c k f (d.stepChannel c k)

/-- A bound on the steps left on the channels of a core: an element may be written, spill and be replayed. -/
def workLeft (thr : Thread) : Nat :=
  (List.finRange 16).foldl (fun n k =>
    match thr.transfers.get k with
    | some t => n + 2 * (t.total - t.cursor) + t.spilled.length + 1
    | none => n) 0

/-- Channel `k` run as far as it goes. -/
def Device.drainChannel (d : Device) (c : CoreNo) (k : Chan) : Device :=
  Device.runChannel c k (workLeft (d.cores.get c).thr) d

/-- Whether a read of a range meets bytes at or above the watermark of a transfer in flight, which is measured in logical offsets where the
destination is a buffer (R301, R302). -/
def Transfer.above (t : Transfer) (wm : Nat) (h : Hull) : Bool :=
  t.dstH.any fun g => g.buf == h.buf && (upFrom h.lo (h.hi - h.lo)).any fun p =>
    let o := if h.buf = 0 then p else swz p (swzSpan t.regs).toNat
    decide (wm ≤ o) && decide (g.lo ≤ o) && decide (o < g.hi)

/-- Whether an access of the thread to a range meets a transfer in flight: a read its writes still to come, a write its reads and writes
(R302, R304). -/
def Transfer.meets (t : Transfer) (wm : Nat) (write : Bool) (h : Hull) : Bool :=
  if write then t.dstP.any h.meets || t.srcH.any h.meets else t.above wm h

/-- The channels whose transfers an access meets; `no` is the place of an access of the vector queue, which none launched after it meets. -/
def meetingChannels (thr : Thread) (no : Option Nat) (write : Bool) (h : Hull) : List Chan :=
  (List.finRange 16).filter fun k =>
    match thr.transfers.get k with
    | some t => (no.all fun n => decide (t.lateNo ≤ n)) && t.meets (thr.wm.get k).toNat write h
    | none => false

/-- Whether an access stands at a higher level than the launch of the transfer in a channel: a handler's access is not one of the
thread that issued it (R302). -/
def Core.above (c : Core) (level : BitVec 2) (k : Chan) : Bool :=
  match c.thr.transfers.get k with
  | some t => decide (t.pl.toNat < level.toNat)
  | none => true

/-- The transfers that meet a range run as far as they go. -/
def Device.runMeeting (d : Device) (c : CoreNo) (no : Option Nat) (write : Bool) (h : Hull) : Device :=
  (meetingChannels (d.cores.get c).thr no write h).foldl (fun e k => e.drainChannel c k) d

/-- The transfers an own access stands after have passed its bytes: they run to completion first, which the watermark rule
allows at any moment (R302, R304). Nothing when one of them waits for the host. -/
def Device.settle (d : Device) (c : CoreNo) (level : BitVec 2) (no : Option Nat) (write : Bool) (h : Hull) : Option Device :=
  let d1 := d.runMeeting c no write h
  if (meetingChannels (d1.cores.get c).thr no write h).all ((d1.cores.get c).above level) then some d1 else none

/-- The place in the vector queue of what runs. -/
def State.lateNo (s : State) : Option Nat := s.ctx.queued.map LateRun.no

/-- The same inside a meaning, and whether every one has passed: what the transfers have done stays done whatever becomes of the convoy. -/
def State.settled (s : State) (write : Bool) (h : Hull) : Bool × State :=
  let s1 : State := if meetingChannels s.thr s.lateNo write h = [] then s else { s with base := s.base.runMeeting s.cur s.lateNo write h }
  match s.dev.settle s.cur s.level s.lateNo write h with
  | some d => (true, { s1 with dev := d })
  | none => (false, s1)

/-- A part of a meaning that makes no progress where one must wait. -/
def State.settle (s : State) (write : Bool) (h : Hull) : Acc Unit :=
  match s.settled write h with
  | (true, s1) => .ok () s1
  | (false, s1) => .stop (stall s1)

/-- A transfer that has not begun enters its channel: one with a remote side waits for the host where collective progress is its
duty (R460). -/
def Device.beginTransfer (d : Device) (c : CoreNo) (k : Chan) (t : Transfer) : Device :=
  if d.duty.getLsbD 4 then
    match (upFrom 0 t.total).findSome? (t.remoteFid d c) with
    | some fid => d.holdRemote c k t fid
    | none => d.advance c k t
  else d.advance c k { t with cleared := true }

/-- A launch that `cplaunch` accepts (R299): the registers latched, the sequence number advanced, the watermark at the lowest low
end. -/
def Device.startTransfer (d : Device) (c : CoreNo) (k : Chan) (num : NumCtx) : Device × BitVec 24 :=
  let core := d.cores.get c
  let thr := core.thr
  let r := thr.shadow.get k
  let q := BitVec.ofNat 24 ((thr.seqNo.get k).toNat % (2 ^ 24 - 1) + 1)
  let ord := (List.finRange 16).foldl (fun n j => match thr.transfers.get j with | some t => max n (t.ord + 1) | none => n) 0
  let t : Transfer :=
    { regs := r, q := q, nctl := num.nctl, seed := num.seed, ctr := num.k
      srcH := hullsOf (srcRanges d c r), dstH := hullsOf (dstRanges d c r), total := totalOf r
      ord := ord, lateNo := core.lateNo, pl := core.pl, ptbr := core.ptbr, asid := core.asid }
  let d1 := (d.onCore c fun o => { o with thr := { o.thr with seqNo := o.thr.seqNo.set k.val q k.isLt } }).setWm c k
    (wmLow r t.dstH)
  (d1.beginTransfer c k t, q)

/-- The first element of another device whose acknowledgement is outstanding is acknowledged (R461), over a port that is up (R455). -/
def Device.ackElem (d : Device) (c : CoreNo) (k : Chan) (t : Transfer) : Device :=
  match t.unacked.find? fun p => !p.2 with
  | some p => if d.portUp = 0 then d else (d.countSync c t.regs (edOf t.regs)).advance c k { t with unacked := t.unacked.erase p }
  | none => d

/-- An acknowledgement of remote elements of channel `k` (R461): that of the first outstanding one; elements of the host once the last write
has gone, all together, by the read the engine sends after it, whatever the ports. No write goes after those of a paused transfer (R433). -/
def Device.acknowledge (d : Device) (c : CoreNo) (k : Chan) : Device :=
  match (d.cores.get c).thr.transfers.get k with
  | none => d
  | some t =>
    let hosts := (t.unacked.filter Prod.snd).length
    let gone := decide (t.total ≤ t.cursor ∨ t.paused = true) && t.held.isEmpty && t.spilled.isEmpty
    if gone && decide (0 < hosts) && ((t.unacked.headD (0, false)).2 || d.portUp == 0) then
      (d.countSync c t.regs (edOf t.regs * hosts)).advance c k { t with unacked := t.unacked.filter fun p => !p.2 }
    else d.ackElem c k t

/-- The transfer of channel `k`, where there is one, put through a change. -/
def Device.onTransfer (d : Device) (c : CoreNo) (k : Chan) (f : Device → Transfer → Device) : Device :=
  match (d.cores.get c).thr.transfers.get k with
  | none => d
  | some t => f d t

/-- The host has answered a fault of channel `k`: held reads are read, a fault that remains is met again, and spilled writes
are served (R311, R430); where the transfer is held meanwhile, once it proceeds (R460). -/
def Device.resumeElems (d : Device) (c : CoreNo) (k : Chan) : Device :=
  d.onTransfer c k fun d t =>
    if t.waits then d.setTransfer c k (some { t with tag := none })
    else
    match t.mustHold d c t.held with
    | some fid => d.holdRemote c k { t with tag := none } fid
    | none =>
      let d1 := d.setTransfer c k (some { t with tag := none })
      let d2 := t.held.foldl (fun e n => e.onTransfer c k fun e u => if u.waits || u.failing then e else
        e.runElem c k { u with held := u.held.filter (· != n) } n) d1
      d2.onTransfer c k fun e u =>
        let (e1, u1) := e.spillServed c k u
        e1.advance c k u1

/-- The host lets a held transfer proceed (R460): it begins, and elements held before are read. -/
def Device.proceedTransfer (d : Device) (c : CoreNo) (k : Chan) : Device :=
  d.onTransfer c k fun d t =>
    let d1 := d.setTransfer c k (some { t with waits := false, cleared := true, hostTag := none })
    if t.tag.isNone && !(t.held.isEmpty && t.spilled.isEmpty) then d1.resumeElems c k else d1

/-- Every spilled write of channel `k` replayed, in nest order (R311); where the transfer is held meanwhile, the rest goes on after it. -/
def Device.replaySpills (d : Device) (c : CoreNo) (k : Chan) : Device :=
  d.onTransfer c k fun d t =>
    t.spilled.foldl (fun e _ => e.onTransfer c k fun e u => if u.waits || u.failing then e else e.replayOne c k u)
      (d.setTransfer c k (some { t with spillTag := none, served := true }))

/-- Every transfer of a core cancelled (R318, R437). -/
def Device.cancelAll (d : Device) (c : CoreNo) : Device :=
  (List.finRange 16).foldl (fun e k =>
    if ((e.cores.get c).thr.transfers.get k).isSome then e.endTransfer c k 1 else e) d

end Sys2Proof.Machine
end

