-- ==== Sys2Proof/Machine/Cmp.lean ====
section
/-!
DEFINITION. The command processor (chapter 20): queue entries and slots (R387 to R389), launch descriptors and their checks
(R390 to R395), link channels (R394), dispatch and its order (R396 to R398), pre-emption (R399, R431, R436), graphs (R401, R402),
completion (R403); groups and barriers (R30, R225); and the end of a thread (R35, R66, R437, R440).
-/

namespace Sys2Proof.Machine

/-! ### Queues -/

/-- An entry of the queue table (Table 20.1). -/
def Device.queue (d : Device) (q : QueueNo) : QEntry :=
  let l := memBytes d.mem (queueTabBase + 64 * q.val) 64
  { ring := fieldAt l 0 8, comp := fieldAt l 8 8, size := fieldAt l 16 2, cls := fieldAt l 18 1 % 4
    en := decide (fieldAt l 19 1 % 2 = 1), pid := fieldAt l 20 1, asid := BitVec.ofNat 16 (fieldAt l 24 2)
    root := BitVec.ofNat 64 (fieldAt l 32 8), head := fieldAt l 40 4, tail := fieldAt l 44 4
    ok := decide (fieldAt l 18 1 < 4 ∧ fieldAt l 19 1 < 2) && zeroAt l 21 3 && zeroAt l 26 6 && zeroAt l 48 16 &&
      decide (fieldAt l 16 2 ∈ [16, 32, 64, 128, 256, 512, 1024, 2048, 4096]) }

/-- Whether an entry names a valid partition (R388). -/
def Device.validPart (d : Device) (e : QEntry) : Bool := decide (e.pid < 4) && (d.parts.get (Fin.ofNat 4 e.pid)).valid
/-- Whether a queue takes slots (R388, R449). -/
def Device.usable (d : Device) (e : QEntry) : Bool := e.en && e.ok && d.validPart e
/-- The partition of an entry. -/
def QEntry.part (e : QEntry) : PartNo := Fin.ofNat 4 e.pid
/-- The slots a queue holds (R388). -/
def QEntry.count (e : QEntry) : Nat := (e.tail + 2 ^ 32 - e.head) % 2 ^ 32
/-- The generation byte of a position (R389). -/
def QEntry.gen (e : QEntry) (pos : Half) : Byte := BitVec.ofNat 8 (pos.toNat / e.size % 255 + 1)

def Device.setTail (d : Device) (q : QueueNo) (t : Nat) : Device := d.put none (queueTabBase + 64 * q.val + 44) (valBytes t 4)
def Device.setHead (d : Device) (q : QueueNo) (h : Nat) : Device := d.put none (queueTabBase + 64 * q.val + 40) (valBytes h 4)

/-- A doorbell write (R449). -/
def Device.doorbell (d : Device) (q : QueueNo) (u : Half) : Device :=
  let e := d.queue q
  let t := e.count
  let c := (u.toNat + 2 ^ 32 - e.head) % 2 ^ 32
  if !d.usable e || decide (e.size < c) || decide (c < t) then d.logError e.part 0x0020 0xFF (BitVec.ofNat 64 q.val)
  else d.setTail q u.toNat

/-- A core as the command processor's accesses in a queue's address space see it. DESIGN CHOICE: they are made at level 1 (R389; log entry
107). -/
def QEntry.view (e : QEntry) : Core :=
  { Core.atReset with pl := 1, ptbr := e.root, asid := e.asid, part := { pid := BitVec.ofNat 8 e.pid } }

/-- The physical address of a byte in a queue's address space, where the access is one plain memory allows (R389, R395). -/
def Device.qplace (d : Device) (e : QEntry) (acc : AccKind) (a : Nat) : Option Nat :=
  match lookupVirt d e.view 1 acc a with
  | .ok pa _ => if isMem pa then some pa else none
  | .fault .. => none

/-- The bytes of a list of places, or nothing where one is missing. -/
def allSome {α : Type} : List (Option α) → Option (List α)
  | [] => some []
  | none :: _ => none
  | some a :: t => (allSome t).map (a :: ·)

/-- `n` bytes read in a queue's address space; nothing where one cannot be translated or is not permitted. DESIGN CHOICE: nor where one is
poisoned (R439; log entry 108). -/
def Device.qread (d : Device) (e : QEntry) (a n : Nat) : Option (List Byte) :=
  allSome ((upFrom a n).map fun b =>
    match d.qplace e .block b with
    | some pa => if poisoned 64 d.poison pa 1 then none else some (memRead d.mem pa)
    | none => none)

/-- Bytes written in a queue's address space at places found before. -/
def Device.putAll (d : Device) : List (Nat × Byte) → Device
  | [] => d
  | (pa, b) :: t => (d.put none pa [b]).putAll t

/-- Bytes written in a queue's address space: all of them, or none. -/
def Device.qwrite (d : Device) (e : QEntry) (a : Nat) (bs : List Byte) : Option Device :=
  (allSome ((upFrom a bs.length).map (d.qplace e .vecStore))).map fun l => d.putAll (l.zip bs)

/-! ### Launches -/

/-- A launch changed, by its arrival number. -/
def Device.onLaunch (d : Device) (n : Nat) (f : Launch → Launch) : Device :=
  { d with launches := d.launches.map fun l => if l.arrival = n then f l else l }
def Device.launchNo (d : Device) (n : Nat) : Option Launch := d.launches.find? fun l => l.arrival == n

/-- A part of the device put through a change for each member of a list. -/
def Device.forEach {α : Type} (l : List α) (f : α → Device → Device) (d : Device) : Device := l.foldl (fun e a => f a e) d

/-- The quarter of a core (R14). -/
def quarterOf (c : CoreNo) : Nat := c.val / 48

/-- The unretired cores of a partition (R23, R424). -/
def Device.partCores (d : Device) (p : PartNo) : List CoreNo :=
  let m := d.parts.get p
  if m.valid then (List.finRange 192).filter fun c => m.qmask.getLsbD (quarterOf c) && !m.retired.getLsbD c.val else []

/-- The cores of a partition a launch can be placed on: not one that another thread of its launch may still reach (R33, R34). -/
def Device.freeCores (d : Device) (p : PartNo) : List CoreNo :=
  (d.partCores p).filter fun c =>
    let o := d.cores.get c
    o.mode == .free && o.launch.isNone && o.irq.spill.isNone && o.irq.resume.isNone &&
      !(d.launches.any fun l => (l.st == .resident || l.st == .preempting) && l.cores.contains c)

/-- The completion record (R403): byte 7 last; a record that cannot be written whole is dropped and logged. -/
def Device.writeRecord (d : Device) (q : QueueNo) (e : QEntry) (pos : Half) (id : Half) (status reason : Nat) (late : Bool)
    (start : Nat) : Device :=
  let body := valBytes id.toNat 4 ++ [BitVec.ofNat 8 status, BitVec.ofNat 8 reason, if late then 1 else 0, e.gen pos] ++
    valBytes start 8 ++ valBytes d.time 8 ++ List.replicate 8 0
  let a := e.comp + 32 * (pos.toNat % e.size)
  let d1 := if d.duty.getLsbD 0 then d.postEvent e.part { ty := 2, core := 0xFFFF, tag := 0, payload := body } else d
  match allSome ((upFrom a 32).map (d1.qplace e .vecStore)) with
  | none => d1.logError e.part 0x0024 0xFF (BitVec.ofNat 64 q.val)
  | some l =>
    let ps := l.zip body
    d1.putAll (ps.take 7 ++ ps.drop 8 ++ (ps.drop 7).take 1)

/-! ### Groups, barriers and the end of a thread -/

/-- Waiters of a generation of a group complete with a status (R225). -/
def completeWaiters (cs : List CoreNo) (g : Nat) (gen : Half) (st : Nat) (d : Device) : Device :=
  d.forEach cs fun c e => e.onCore c fun o =>
    match o.wait with
    | some (.waiting (.gsync g' gen' none)) =>
      if g' = g ∧ gen' = gen then { o with wait := some (.waiting (.gsync g gen (some st))) } else o
    | _ => o

/-- The test of a group entry (R225). -/
def Device.groupTest (d : Device) (n g : Nat) : Device :=
  match d.launchNo n with
  | none => d
  | some l =>
    match l.groups.find? fun e => e.num == g with
    | none => d
    | some e =>
      let finish (st : Nat) : Device :=
        completeWaiters l.cores g e.gen st (d.onLaunch n fun l => { l with
          groups := l.groups.map fun h => if h.num = g then { h with arrived := 0, gen := h.gen + 1 } else h })
      if e.count ≤ e.arrived then finish 0
      else if 1 ≤ e.arrived ∧ e.count ≤ e.arrived + e.departed then finish 1
      else d

/-- A group entry changed and tested. -/
def Device.groupStep (d : Device) (n g : Nat) (f : Group → Group) : Device :=
  (d.onLaunch n fun l => { l with groups := l.groups.map fun h => if h.num = g then f h else h }).groupTest n g

/-- An arrival, a withdrawal and a departure (R225, R35). -/
def Device.groupArrive (d : Device) (n g : Nat) : Device := d.groupStep n g fun h => { h with arrived := h.arrived + 1 }
def Device.groupWithdraw (d : Device) (n g : Nat) : Device := d.groupStep n g fun h => { h with arrived := h.arrived - 1 }
def Device.depart (d : Device) (l : Launch) (t : Nat) : Device :=
  d.forEach ((l.groups.filter (·.has t)).map Group.num) fun g e =>
    e.groupStep l.arrival g fun h => { h with departed := h.departed + 1 }

/-- The exchanges of a launch that name an ended thread fail, unless they have paired (R194). -/
def Device.failPeers (d : Device) (l : Launch) (t : Nat) : Device :=
  d.forEach l.cores fun c e => e.onCore c fun o =>
    match o.thr.xchg with
    | some x =>
      if o.launch == some l.id && x.peer == t && x.got.isNone then { o with thr := { o.thr with xchg := some { x with failed := true } } }
      else o
    | none => o

/-- A core without a thread to run: level 0 and interrupts enabled, so that the command processor can call it. -/
def Core.toFree (c : Core) : Core := { c with mode := .free, pl := 0, ie := true, idleBelow := false, wait := none }

/-- Whether thread `t` of a launch has ended. -/
def Device.hasEnded (d : Device) (l : Launch) (t : Nat) : Bool :=
  match d.launchNo l.arrival with
  | some l1 => l1.endedThreads.contains t
  | none => true

/-- The threads of a launch that have not ended and are on their cores run (R32). -/
def Device.runThreads (d : Device) (l : Launch) : Device :=
  d.forEach l.cores fun c e => e.onCore c fun o =>
    if o.launch == some l.id && !o.ended then { o with mode := .run, idleBelow := false } else o

/-- Thread `t` of a resumed launch is restored on its core, or has been killed; once all are, they go on together (R34, R398). -/
def Device.restored (d : Device) (n t : Nat) : Device :=
  match d.launchNo n with
  | none => d
  | some l =>
    if l.resuming.contains t then
      let left := l.resuming.filter (· != t)
      let d1 := d.onLaunch n fun l => { l with resuming := left }
      if left.isEmpty then d1.runThreads l else d1
    else d

/-- Thread `t` of a launch has ended (R35): counted in its groups once. -/
def Device.threadEnded (d : Device) (l : Launch) (t : Nat) : Device :=
  if d.hasEnded l t then d
  else (((d.onLaunch l.arrival fun l => { l with endedThreads := t :: l.endedThreads }).depart l t).failPeers l t).restored l.arrival t

/-- A withdrawal from a barrier word, by the thread on a core (R226). -/
def Device.withdrawWord (d : Device) (own : Option CoreNo) (pa : Nat) : Device :=
  d.put own (pa + 4) (valBytes (memLoad d.mem (pa + 4) 4 + 2 ^ 32 - 1) 4)

/-- A convoy that waits as `w` squashed, its arrival withdrawn; nothing where it commits first (R219, R225, R226, R427). -/
def Device.squashWait (d : Device) (c : CoreNo) (w : Option Wait) : Option Device :=
  match w with
  | some (.value ..) => none
  | some .firm => none
  | some .saving => none
  | some .ending => none
  | some (.dying _) => none
  | some (.waiting .irq) => none
  | some (.waiting (.gsync _ _ (some _))) => none
  | some (.waiting (.gsyncW _ _ (some _))) => none
  | some (.waiting (.gsync g _ none)) => some (match d.launchOn c with | some l => d.groupWithdraw l.arrival g | none => d)
  | some (.waiting (.gsyncW pa gen none)) =>
    if memLoad d.mem (pa + 8) 4 = gen.toNat then some (d.withdrawWord (some c) pa) else none
  | _ => some d

/-- The same of the convoy of a core. -/
def Device.squash (d : Device) (c : CoreNo) : Option Device := d.squashWait c (d.cores.get c).wait

/-- The thread on a core ends; its core returns to the command processor, its local buffers stay (R33, R65). DESIGN CHOICE: its watch entries
stay counted in their quarter until the core takes another thread (R222; log entry 80). -/
def Device.endThread (d : Device) (c : CoreNo) : Device :=
  let o := d.cores.get c
  let d1 := d.onCore c fun o => { o.drainLanes.released.toFree with ended := o.ended || o.launch.isSome }
  match d.launchOn c with
  | none => d1
  | some l => if o.ended then d1 else d1.threadEnded l o.thr.tid.toNat

/-- The instructions of the vector queue up to the last one that has stores: what a killed thread leaves to be performed (R66). -/
def lastStores (l : List Late) : List Late := (l.reverse.dropWhile fun e => !e.touches.any Touch.write).reverse

/-- What a killed thread leaves on its core (R66, R437): no watches, no exchange, no virtual processor that runs, and of the vector queue what
its committed stores need. -/
def Core.killed (o : Core) : Core :=
  { o with
    thr := { o.thr with
      watches := [], xchg := none, threadMode := false, modeDue := false, aib := Vector.replicate 64 none
      vps := o.thr.vps.map fun p => { p with runnable := false, held := false, trap := none } }
    irq := { o.irq with resume := none, kill := false }
    dmeta := [], late := lastStores o.late, split := Vector.replicate 4 none }

/-- A killed thread ends, and its record is written: `code` is that of the record. -/
def Device.endKilled (d : Device) (c : CoreNo) (code : BitVec 16) : Device :=
  match d.launchOn c with
  | none => d.onCore c Core.toFree
  | some l =>
    let v := if code = 0x0012 then l.id.setWidth 64 else l.id ++ BitVec.ofNat 32 (d.cores.get c).thr.tid.toNat
    (((d.onCore c fun o => { o with irq := { o.irq with kill := false } }).onLaunch l.arrival fun l =>
      let t := (d.cores.get c).thr.tid.toNat
      { l with killed := true, inFlight := l.inFlight.filter (· != t), cut := t :: l.cut }).endThread c).logError l.pid code c.val v

/-- The thread on a core is killed (R66, R437, R440): an arrival it waits on is withdrawn first (R219), and it ends once its committed stores
have been performed. DESIGN CHOICE: a core that has failed performs none (R440; log entry 110). -/
def Device.killThread (d : Device) (c : CoreNo) (code : BitVec 16) : Device :=
  let o := d.cores.get c
  if (d.launchOn c).isNone || o.ended then d.onCore c Core.toFree
  else
    let d1 := (((d.squash c).getD d).cancelAll c).onCore c Core.killed
    if code = 0x0012 then (d1.onCore c fun o => { o with late := [] }).endKilled c code
    else if (d1.cores.get c).late.isEmpty then d1.endKilled c code
    else d1.onCore c fun o => { o with mode := .run, wait := some (.dying code) }

/-- KILL is raised on the cores of a launch whose threads have not ended; its threads that are saved end at once, and their transfers are
cancelled (R437, R440). -/
def Device.killLaunch (d : Device) (l : Launch) : Device :=
  let d1 := d.onLaunch l.arrival fun l => { l with killed := true }
  let d2 := d1.forEach l.cores fun c e => e.onCore c fun o =>
    if o.launch == some l.id && !o.ended then { o with irq := { o.irq with kill := true } } else o
  let seated (t : Nat) : Bool := l.cores.any fun c => (d.cores.get c).launch == some l.id && (d.cores.get c).thr.tid.toNat == t
  let saved := (List.range l.nthr).filter fun t => (l.images.any fun p => p.1 == t) && !seated t && !l.endedThreads.contains t
  d2.forEach saved fun t e => (e.onLaunch l.arrival fun l => { l with inFlight := l.inFlight.filter (· != t), cut := t :: l.cut }).threadEnded l t

/-- A lasting fault of a core (R440). -/
def Device.coreFault (d : Device) (c : CoreNo) : Device :=
  match d.launchOn c with
  | none => d.logError (partNo (d.cores.get c).part.pid) 0x0012 c.val 0
  | some l =>
    let d1 := if (d.cores.get c).ended then d.logError l.pid 0x0012 c.val (l.id.setWidth 64) else d.killThread c 0x0012
    match d1.launchNo l.arrival with
    | some l1 => d1.killLaunch l1
    | none => d1

/-- `PART`.NCORE of every core of a partition follows the cores unretired (R423). -/
def Device.setNcore (d : Device) (p : PartNo) : Device :=
  let n := BitVec.ofNat 8 (d.partCores p).length
  { d with cores := d.cores.mapFinIdx fun i c _ =>
      let m := d.parts.get p
      if m.valid && m.qmask.getLsbD (i / 48) then { c with part := { c.part with ncore := n } } else c }

/-! ### The checks of a descriptor -/

/-- The rows of `n` bytes of a list. -/
def rowsOf (n : Nat) : Nat → List Byte → List (List Byte)
  | 0, _ => []
  | k + 1, l => l.take n :: rowsOf n k (l.drop n)

/-- The number of members of a group. -/
def membersOf (m : BitVec 192) : Nat := popNat 192 m.toNat

/-- A group entry (R391). -/
def parseGroup (r : List Byte) : Group :=
  let m := BitVec.ofNat 192 (fieldAt r 0 24)
  let c := fieldAt r 25 1
  { num := fieldAt r 24 1, members := m, count := if c = 0 then membersOf m else c }
/-- A preload entry (R392). -/
def parsePreload (r : List Byte) : Preload :=
  { src := BitVec.ofNat 64 (fieldAt r 0 8), dst := fieldAt r 8 4, space := fieldAt r 12 1, thread := fieldAt r 13 1
    span := BitVec.ofNat 3 (fieldAt r 14 1), len := fieldAt r 16 4 }
/-- A link entry (R393). -/
def parseLink (r : List Byte) : LinkEnt :=
  { role := fieldAt r 0 1, k := fieldAt r 1 1, thread := fieldAt r 2 1, chan := fieldAt r 4 2
    start := BitVec.ofNat 64 (fieldAt r 8 8), len := fieldAt r 16 8 }

/-- The current producer of a channel (R394). -/
def Device.producer (d : Device) (p : PartNo) (ch : Nat) : Option Producer :=
  d.producers.find? fun r => r.pid == p && r.chan == ch

/-- Whether a list repeats a member. -/
def repeats {α : Type} [BEq α] : List α → Bool
  | [] => false
  | a :: t => t.contains a || repeats t

/-- A launch descriptor with what it implies: the launch, its id, place and times still to be set. -/
def parseLaunch (q : QueueNo) (pos : Half) (e : QEntry) (h : List Byte) (gs ps ls : List (List Byte)) : Launch :=
  { queue := q, pos := pos, ent := e, pid := e.part, entry := BitVec.ofNat 64 (fieldAt h 0 8)
    param := BitVec.ofNat 64 (fieldAt h 8 8), nthr := fieldAt h 16 2
    groups := gs.map parseGroup, preloads := ps.map parsePreload, links := ls.map parseLink
    dropLate := decide (fieldAt h 21 1 % 2 = 1), deadline := BitVec.ofNat 32 (fieldAt h 24 4)
    wbtag := BitVec.ofNat 32 (fieldAt h 28 4), arrival := 0 }

/-- FORMAT (Table 20.4): a field out of its range, or a zero field that is not zero. -/
def formatBad (h : List Byte) (gs ps ls : List (List Byte)) : Bool :=
  fieldAt h 0 8 % 8 != 0 || fieldAt h 8 8 % 64 != 0 || decide (fieldAt h 16 2 = 0 ∨ 192 < fieldAt h 16 2)
    || decide (16 < fieldAt h 20 1) || decide (2 ≤ fieldAt h 21 1) || !zeroAt h 22 2 || !zeroAt h 32 32
    || gs.any (fun r => !zeroAt r 26 6)
    || ps.any (fun r => !(fieldAt r 12 1 == 1 || fieldAt r 12 1 == 2) || decide (8 ≤ fieldAt r 14 1) || !zeroAt r 15 1
        || !zeroAt r 20 12)
    || ls.any (fun r => !(fieldAt r 0 1 == 1 || fieldAt r 0 1 == 2) || decide (8 ≤ fieldAt r 1 1) || !zeroAt r 3 1
        || decide (4096 ≤ fieldAt r 4 2) || !zeroAt r 6 2 || !zeroAt r 24 8 || (fieldAt r 0 1 == 1 && !zeroAt r 8 16))

/-- GROUP and MEMBERS (Table 20.4). -/
def groupBad (l : Launch) : Bool :=
  repeats (l.groups.map Group.num) || l.groups.any fun g =>
    g.num == 255 || decide (2 ^ l.nthr ≤ g.members.toNat) || decide (membersOf g.members < g.count)
def membersBad (l : Launch) : Bool :=
  (List.range l.nthr).any fun t => decide (5 ≤ (l.groups.filter (·.has t)).length)

/-- PRELOAD (Table 20.4). -/
def preloadBad (l : Launch) : Bool :=
  l.preloads.any fun p => p.src.toNat % 128 != 0 || p.dst % 128 != 0 || p.len % 128 != 0
    || (p.thread != 255 && decide (l.nthr ≤ p.thread))
    || decide ((if p.space = 2 then wbSize else abSize) < p.dst + p.len)

/-- LINK (Table 20.4, R393, R394). -/
def linkBad (d : Device) (l : Launch) : Bool :=
  repeats (l.links.map fun k => (k.thread, k.k)) || l.links.any fun k => decide (l.nthr ≤ k.thread) ||
    (k.role == 2 && (match d.producer l.pid k.chan with | some r => r.entries != 1 | none => true))

/-- The bounds a graph sets for the parameter block of its launches (R401), and what it makes of it (R402): region, size, copy. -/
structure ParamMap where
  base : Nat
  size : Nat
  copy : Nat

/-- A descriptor read and checked (R390, R395): the launch, or the lowest reason that refuses it. -/
def Device.readLaunch (d : Device) (q : QueueNo) (pos : Half) (e : QEntry) (desc : Nat) (pm : Option ParamMap) :
    Except Nat Launch :=
  match d.qread e desc 64 with
  | none => .error 2
  | some h =>
    let ng := fieldAt h 18 1
    let np := fieldAt h 19 1
    let nl := fieldAt h 20 1
    match d.qread e (desc + 64) (32 * (ng + np + nl)) with
    | none => .error 2
    | some b =>
      let gs := rowsOf 32 ng b
      let ps := rowsOf 32 np (b.drop (32 * ng))
      let ls := rowsOf 32 nl (b.drop (32 * (ng + np)))
      let l := parseLaunch q pos e h gs ps ls
      let outside := match pm with
        | some m => decide (l.param.toNat < m.base) || decide (m.base + m.size < l.param.toNat + 64)
        | none => false
      if desc % 64 ≠ 0 then .error 2
      else if formatBad h gs ps ls then .error 3
      else if (d.partCores e.part).length < l.nthr then .error 4
      else if groupBad l then .error 5
      else if membersBad l then .error 6
      else if preloadBad l then .error 7
      else if linkBad d l then .error 8
      else if outside then .error 9
      else
        match pm with
        | some m => .ok { l with param := BitVec.ofNat 64 (l.param.toNat - m.base + m.copy) }
        | none => .ok l

/-! ### Arrival and readiness -/

/-- Whether a launch has been dispatched, or is gone (R394). -/
def Device.dispatchedNo (d : Device) (n : Nat) : Bool :=
  match d.launchNo n with
  | some l => l.st != .held && l.st != .ready
  | none => true

/-- Held launches whose producers have all been dispatched become ready (R394, R396). -/
def Device.release (d : Device) : Device :=
  { d with launches := d.launches.map fun l =>
      if l.st == .held && l.links.all (fun k => k.role != 2 || d.dispatchedNo k.feeds) then
        { l with st := .ready, readyAt := d.time }
      else l }

/-- A checked launch arrives (R394 to R396): its consumers bound to the current producers, its producers made current. -/
def Device.arriveLaunch (d : Device) (l : Launch) : Device :=
  let n := d.nextArrival
  let links := l.links.map fun k =>
    if k.role = 2 then
      match d.producer l.pid k.chan with
      | some r => { k with feeds := r.arrival, mark := r.mark }
      | none => k
    else k
  let made := (l.links.filter fun k => k.role == 1).map LinkEnt.chan
  let kept := d.producers.filter fun r => !(r.pid == l.pid && made.contains r.chan)
  let new := made.eraseDups.map fun ch =>
    { pid := l.pid, chan := ch, arrival := n, entries := (made.filter (· == ch)).length : Producer }
  ({ d with
    nextArrival := n + 1
    producers := kept ++ new
    launches := d.launches ++ [{ l with arrival := n, links := links, st := .held }] }).release

/-- The greater of two marks. -/
def maxMark (a b : BitVec 63) : BitVec 63 := if a.toNat < b.toNat then b else a

/-- A mark that producer `n` of channel `ch` published reaches the links of the thread on a core that feed from it (R394). -/
def Core.takeMark (o : Core) (l : Launch) (n ch : Nat) (m : BitVec 63) : Core :=
  let fed (i : Nat) : Bool := l.links.any fun k =>
    k.role == 2 && k.k == i && k.thread == o.thr.tid.toNat && k.feeds == n && k.chan == ch
  let lw := o.thr.lw.mapFinIdx fun i w _ => if fed i then { w with mark := maxMark w.mark m } else w
  { o with thr := { o.thr with lw := lw } }

/-- A published mark is delivered (R237, R394): to the channel's record, and to every launch that feeds from the producer. -/
def Device.deliverMark (d : Device) (l : Launch) (ch : Nat) (m : BitVec 63) : Device :=
  let up (o : BitVec 63) : BitVec 63 := maxMark o m
  let d1 : Device := { d with
    producers := d.producers.map fun r =>
      if r.pid == l.pid && r.chan == ch && r.arrival == l.arrival then { r with mark := up r.mark } else r
    launches := d.launches.map fun c => { c with links := c.links.map fun k =>
      if k.role = 2 ∧ k.feeds = l.arrival ∧ k.chan = ch ∧ c.pid = l.pid then { k with mark := up k.mark } else k } }
  { d1 with cores := d1.cores.map fun o =>
      match d1.launches.find? fun c => o.launch == some c.id with
      | none => o
      | some c => o.takeMark c l.arrival ch m }

/-! ### The end of a launch -/

/-- Whether a launch id is taken (R398): by a launch that has not completed, or as the owner of a slot. -/
def Device.idTaken (d : Device) (i : Half) : Bool :=
  i == 0 || d.launches.any (fun l => l.id == i) || d.cores.any fun c => c.am.any fun s => s.owner == some i

/-- A launch id that is not taken, from `i` on (R398). -/
def Device.freshId (d : Device) : Nat → Half → Half
  | 0, i => i
  | f + 1, i => if d.idTaken i then d.freshId f (i + 1) else i
/-- More ids than launches and slots can take. -/
def Device.idBound (d : Device) : Nat := d.launches.length + 192 * 512 + 2

/-- The slots a launch owns become free, and the pairing-table entries it alone held go (R74, R230). -/
def Device.freeOwned (d : Device) (id : Half) : Device :=
  { d with
    cores := d.cores.map fun c =>
      { c with am := c.am.map fun s => if s.owner == some id then { s with owner := none } else s }
    pairTab := d.pairTab.map fun t =>
      (t.map fun e => { e with holders := e.holders.filter (· != id) }).filter fun e => !e.holders.isEmpty }

/-- The cores of a launch are free (R29). -/
def Device.freeLaunchCores (d : Device) (id : Half) : Device :=
  { d with cores := d.cores.map fun c =>
      if c.launch == some id then
        { c with launch := none, ended := false, irq := { c.irq with preempt := none, resume := none, kill := false } }
      else c }

/-- A replay ends with its completion record (R402). -/
def Device.endReplay (d : Device) (r : Replay) (status reason : Nat) : Device :=
  let d1 : Device := { d with replays := d.replays.filter fun (x : Replay) => x.num != r.num }
  d1.writeRecord r.queue r.ent r.pos r.lastId status reason r.lastLate r.lastTime

/-- Launch `i` of a running replay (R402): read, checked, and made to arrive; a refusal ends the replay. -/
def Device.nextOfReplay (d : Device) (r : Replay) (i : Nat) : Device :=
  match r.descs[i]? with
  | none => d.endReplay r 0 0
  | some desc =>
    let pm : ParamMap := { base := r.pbbase, size := r.pbsize, copy := r.copies + r.copy.getD 0 * r.pbsize }
    match d.readLaunch r.queue r.pos r.ent desc (some pm) with
    | .error reason => d.endReplay r 1 reason
    | .ok l => d.arriveLaunch { l with
        deadline := BitVec.ofNat 32 (r.submitted + l.deadline.toNat), replay := some (r.num, i) }

/-- A launch ends (R403): its cores, id and slots are freed, its record is written, and its replay goes on or ends. -/
def Device.endLaunch (d : Device) (l : Launch) (status reason : Nat) : Device :=
  let d1 : Device := { d with launches := d.launches.filter fun x => x.arrival != l.arrival }
  let d2 : Device := if l.id = 0 then d1 else (d1.freeLaunchCores l.id).freeOwned l.id
  let d3 : Device := match l.replay with
    | none => d2.writeRecord l.queue l.ent l.pos l.id status reason l.late l.dispatchedAt
    | some (num, i) =>
      match d2.replays.find? fun r => r.num == num with
      | none => d2
      | some r =>
        let r1 := if l.id = 0 then r else { r with lastId := l.id, lastTime := l.dispatchedAt, lastLate := l.late }
        let d2' : Device := { d2 with replays := d2.replays.map fun x => if x.num = num then r1 else x }
        if status = 0 then d2'.nextOfReplay r1 (i + 1) else d2'.endReplay r1 status reason
  d3.release

/-- Whether a launch is complete (R29): the stores of its threads are performed as they commit, and a transfer saved with its thread is not
finished, but where that thread was killed (R437). -/
def Device.complete (d : Device) (l : Launch) : Bool :=
  decide (l.nthr ≤ l.endedThreads.length) && (l.st == .resident || l.st == .preempting || l.killed) && l.id != 0 &&
    l.inFlight.isEmpty &&
    l.cores.all fun c => (d.cores.get c).launch != some l.id ||
      ((d.cores.get c).thr.transfers.all Option.isNone && (d.cores.get c).dmeta.isEmpty)

/-! ### Retirement -/

/-- The RETIRED field of a map entry, for the cores of its partition (R422). -/
def Device.mapRetired (d : Device) (p : PartNo) (qmask : BitVec 4) : BitVec 192 :=
  let v := memLoad d.mem (partMapBase + 256 * p.val + 8) 24
  BitVec.ofNat 192 ((List.range 192).foldl (fun n c => if v / 2 ^ c % 2 = 1 ∧ qmask.getLsbD (c / 48) then n + 2 ^ c else n) 0)

/-- Changes made in order, each once there is space for its records; the first that lacks it waits, and those after it (R453). Whether all were
made. -/
def Device.stepwise : List (Device → Device) → Device → Device × Bool
  | [], d => (d, true)
  | f :: t, d =>
    let e := f d
    if [1, 2, 5].any (d.needsSpace e) then (d, false) else Device.stepwise t e

/-- A core is retired (R423, R424): a thread on it meets a lasting fault. -/
def Device.retire (p : PartNo) (c : CoreNo) (d : Device) : Device :=
  let m := d.parts.get p
  let d1 := ({ d with parts := d.parts.set p.val { m with retired := m.retired ||| (1#192 <<< c.val) } p.isLt } : Device).setNcore p
  if (d1.launchOn c).isSome then d1.coreFault c else d1

/-- A launch that needs more cores than its partition has is ended (R424). -/
def Device.endTooLarge (l : Launch) (d : Device) : Device :=
  match l.st with
  | .ready => d.endLaunch l 1 4
  | .preempted => d.endLaunch l 2 0
  | _ => d

/-- RETIRED bits read before a dispatch decision (R423, R424), as far as there is space for the records: a core newly retired faults, launches
too large are ended. -/
def Device.refreshRetired (d : Device) (p : PartNo) : Device × Bool :=
  let m := d.parts.get p
  if !m.valid then (d, true)
  else
    let seen := d.mapRetired p m.qmask
    let r := Device.stepwise (((List.finRange 192).filter fun c => seen.getLsbD c.val && !m.retired.getLsbD c.val).map (Device.retire p)) d
    if !r.2 then r
    else
      let n := (r.1.partCores p).length
      Device.stepwise ((r.1.launches.filter fun l => l.pid == p && decide (n < l.nthr)).map Device.endTooLarge) r.1

/-! ### The dispatch order -/

/-- `δ` of a deadline (R386). -/
def deltaOf (dl : Half) (time : Nat) : Int := (dl - BitVec.ofNat 32 time).toInt

/-- The place of a ready launch in R396: step, then time, then arrival. -/
def rankOf (time : Nat) (l : Launch) : Nat × Int × Nat :=
  match l.starving with
  | some t => (1, (t : Int), l.arrival)
  | none => ((if l.ent.cls = 0 then 0 else 1 + l.ent.cls), deltaOf l.deadline time, l.arrival)

/-- Whether one rank comes before another. -/
def rankLt (a b : Nat × Int × Nat) : Bool :=
  decide (a.1 < b.1) || (a.1 == b.1 && (decide (a.2.1 < b.2.1) || (a.2.1 == b.2.1 && decide (a.2.2 < b.2.2))))

/-- A launch put into a list in the order of a comparison. -/
def insertBy (lt : Launch → Launch → Bool) (l : Launch) : List Launch → List Launch
  | [] => [l]
  | h :: t => if lt l h then l :: h :: t else h :: insertBy lt l t
def sortBy (lt : Launch → Launch → Bool) (l : List Launch) : List Launch := l.foldl (fun acc x => insertBy lt x acc) []

/-- The ready launches of a partition in the order of R396. -/
def Device.readyList (d : Device) (p : PartNo) : List Launch :=
  sortBy (fun a b => rankLt (rankOf d.time a) (rankOf d.time b))
    (d.launches.filter fun l => l.pid == p && (l.st == .ready || l.st == .preempted))

/-- The launch the command processor dispatches on `free` cores (R397): while a launch of class 0 or a starving one waits, no
later one takes cores it could use. -/
def pickLaunch (free : Nat) : List Launch → Option Launch
  | [] => none
  | l :: t =>
    if l.nthr ≤ free then some l
    else if l.ent.cls = 0 ∨ l.starving.isSome then none
    else pickLaunch free t

/-- The waiting launch that may pre-empt (R399): the first one, of class 0 or starving. -/
def preemptor (l : List Launch) : Option Launch :=
  match l with
  | [] => none
  | h :: _ => if h.ent.cls = 0 ∨ h.starving.isSome then some h else none

/-- Victims in the order of R399: class 3 first, and within a class the latest deadline first. -/
def victimLt (time : Nat) (a b : Launch) : Bool :=
  let ca := a.ent.cls
  let cb := b.ent.cls
  decide (cb < ca) || (ca == cb && (decide (deltaOf b.deadline time < deltaOf a.deadline time)
    || (deltaOf b.deadline time == deltaOf a.deadline time && decide (b.arrival < a.arrival))))

/-- The shortest leading part of a list whose cores, with `have_` cores, are enough; nothing where all of it is not. -/
def takeVictims (need have_ : Nat) : List Launch → Option (List Launch)
  | [] => if need ≤ have_ then some [] else none
  | l :: t => if need ≤ have_ then some [] else (takeVictims need (have_ + l.nthr) t).map (l :: ·)

/-- PREEMPT is raised on every core of a launch (R431), with a save area the spec does not name (log entry 13). -/
def Device.preemptLaunch (d : Device) (l : Launch) : Device :=
  let d1 := d.onLaunch l.arrival fun l => { l with st := .preempting }
  d1.forEach l.cores fun c e =>
    let e1 := { e with nextTag := e.nextTag + 1 }
    e1.onCore c fun o =>
      if o.launch == some l.id then { o with irq := { o.irq with preempt := some (Config.freeWord e.nextTag 0) } } else o

/-- Pre-emption for the first waiting launch, where it may pre-empt (R399). -/
def Device.requestPreemption (d : Device) (p : PartNo) : Device :=
  match preemptor (d.readyList p) with
  | none => d
  | some w =>
    let going := (d.launches.filter fun l => l.pid == p && l.st == .preempting).foldl (fun n l => n + l.nthr) 0
    let may := d.launches.filter fun l => l.pid == p && l.st == .resident && decide (1 ≤ l.ent.cls) &&
      (w.ent.cls == 0 || decide (l.ent.cls ≤ 2))
    match takeVictims w.nthr ((d.freeCores p).length + going) (sortBy (victimLt d.time) may) with
    | none => d
    | some vs => d.forEach vs fun l e => e.preemptLaunch l

/-! ### Dispatch -/

/-- The membership word of a thread (R31). -/
def gmemOf (gs : List Group) (t : Nat) : Half :=
  let ns := ((List.range 255).filter fun n => gs.any fun g => g.num == n && g.has t)
  BitVec.ofNat 32 (bytesVal ((ns.map (BitVec.ofNat 8) ++ List.replicate 4 0xFF).take 4))

/-- The link registers a thread starts with (R77, R393, R394). -/
def linksOf (l : Launch) (t : Nat) : Vector LinkReg 8 :=
  Vector.ofFn fun k : Fin 8 =>
    match l.links.find? fun e => e.thread == t && e.k == k.val with
    | some e => { en := true, mark := e.mark, role := e.role, chan := e.chan, start := e.start, len := e.len }
    | none => {}

/-- Thread `t` of a launch at its first convoy (R27, Table 3.1). -/
def startThread (l : Launch) (t : Nat) : Thread :=
  let x (n : Nat) : Word := match n with
    | 1 => BitVec.ofNat 64 t
    | 2 => BitVec.ofNat 64 l.nthr
    | 3 => l.param
    | 4 => (gmemOf l.groups t).setWidth 64
    | 5 => l.id.setWidth 64
    | _ => 0
  { Thread.fresh with
    x := Vector.ofFn fun i : Fin 64 => x i.val
    tid := BitVec.ofNat 8 t, lnch := l.id, gmem := gmemOf l.groups t, nthr := l.nthr, lw := linksOf l t }

/-- The start of a core for a thread of a launch: the translations of its queue, nothing left of the thread before. -/
def Core.seat (c : Core) (l : Launch) : Core :=
  { c with
    pl := 0, ie := true, ptbr := l.ent.root, asid := l.ent.asid, launchTag := l.wbtag, launch := some l.id, ended := false
    idleBelow := false, vpsStopped := false, wait := none, split := c.split.set 0 none, late := [], touched := 0, touchedBufs := 0
    saved := none, dmeta := [], opBase := 0, opSlips := [], laneDone := Vector.replicate 64 0 }

/-- A core made ready for thread `t` of a launch, before its preloads (R27, R86, R87, R308). -/
def Core.start (c : Core) (l : Launch) (t : Nat) : Core :=
  let c1 := { c.seat l with
    pc := l.entry, thr := startThread l t
    ab := [], md := [], abStamp := Vector.replicate 512 0, abPoison := [] }
  if c.wbTag = l.wbtag then c1
  else { c1 with wb := [], wbPoison := [], wbStamp := Vector.replicate 1024 0, wbTag := l.wbtag }

/-- What applying preloads comes to. -/
inductive Fill
  | done (d : Device)
  | ask (d : Device) (va : Word)
  | failed (d : Device)

/-- The bytes a copy source has at a translated place, a remote one under the checks of R459; nothing where they cannot be read. -/
def Device.sourceBytes (d : Device) (v : Core) (ph : Phys) (va n : Nat) : Option (List Byte) :=
  if isRemote ph.pa then (remotePlace d v ph.pa false).bind fun p => p.bytes d n else Place.bytes (.glob ph va) d n

/-- One piece of 128 bytes of a preload for a list of threads' cores (R392): read as the source of a copy. -/
def Device.preloadPiece (d : Device) (l : Launch) (p : Preload) (cs : List CoreNo) (o : Nat) : Fill :=
  let va := p.src.toNat + o
  let v := { l.ent.view with pl := 0 }
  let put (d : Device) (ph : Phys) : Fill :=
    match d.sourceBytes v ph va 128 with
    | none => .failed d
    | some bs => .done (d.forEach cs fun c e => e.onCore c fun u => u.swzPut (p.space == 2) (p.dst + o) p.span [] bs)
  match lookupVirt d v 0 .cpeSrc va with
  | .ok pa lf => put d ⟨pa, lf⟩
  | .fault kind lvl entry =>
    if kind ≠ kNomap then .failed d
    else if hwXlt d then
      match d.serve v va lvl entry with
      | none => .failed d
      | some d1 =>
        match lookupVirt d1 v 0 .cpeSrc va with
        | .ok pa lf => put d1 ⟨pa, lf⟩
        | .fault .. => .failed d1
    else .ask d (BitVec.ofNat 64 va)

/-- Pieces in order, until one cannot be applied. -/
def runFill {α : Type} (f : α → Device → Fill) : List α → Device → Fill
  | [], d => .done d
  | a :: t, d =>
    match f a d with
    | .done d1 => runFill f t d1
    | r => r

/-- The preloads of a launch in entry order (R392). -/
def Device.preload (d : Device) (l : Launch) : Fill :=
  runFill (fun p e =>
    let cs := if p.thread = 255 then l.cores else (l.cores[p.thread]?).toList
    runFill (fun i e => e.preloadPiece l p cs (128 * i)) (List.range (p.len / 128)) e) l.preloads d

/-- The threads of a placed launch start together once their buffers hold their launch contents (R32); otherwise the launch is
ended by the fault (R395), or waits for the host (R430). -/
def Device.gang (d : Device) (l : Launch) : Device :=
  match d.preload l with
  | .done d1 =>
    (d1.onLaunch l.arrival fun l => { l with loading := .done }).runThreads l
  | .failed d1 => d1.onLaunch l.arrival fun l => { l with loading := .failed }
  | .ask d1 va =>
    let tag := d1.nextTag
    (d1.ask l.pid 3 0xFFFF (faultPayload l.ent.view 0xFFFF va) (.preload l.arrival)).onLaunch l.arrival
      fun l => { l with loading := .asked tag }

/-- The first dispatch of a launch (R398). -/
def Device.dispatchNew (d : Device) (l : Launch) : Device :=
  let id := d.freshId d.idBound d.nextId
  let cs := (d.freeCores l.pid).take l.nthr
  let l1 := { l with
    id := id, st := .resident, cores := cs, dispatchedAt := d.time, starving := none
    late := decide (deltaOf l.deadline d.time ≤ 0) }
  let d1 := ({ d with nextId := id + 1 }).onLaunch l.arrival fun _ => l1
  let d2 := d1.forEach cs.zipIdx fun p e => e.onCore p.1 fun c => c.start l1 p.2
  (d2.gang l1).release

/-- SPILL raised on a core, if none is pending there (R436). -/
def Device.raiseSpill (d : Device) (c : CoreNo) (img : Word) : Device :=
  d.onCore c fun o => if o.irq.spill.isNone then { o with irq := { o.irq with spill := some img } } else o

/-- RESUME raised on the core of thread `t` (R431, R435). -/
def Device.raiseResume (d : Device) (l : Launch) (t : Nat) : Device :=
  match l.cores[t]?, l.images.find? fun p => p.1 == t with
  | some c, some p => d.onCore c fun o => { o with irq := { o.irq with resume := some p.2 } }
  | _, _ => d

/-- A resumed launch is placed (R398, R436): on the cores it left where they are free, else on others, whose threads' slots the
cores left move first; a core left that is retired kills it. -/
def Device.dispatchAgain (d : Device) (l : Launch) : Device :=
  let free := d.freeCores l.pid
  if l.oldCores.any fun c => !(d.partCores l.pid).contains c then d.endLaunch l 2 0
  else
    let others := free.filter fun c => !l.oldCores.contains c
    let place := l.oldCores.foldl (fun (acc : List CoreNo × List CoreNo) c =>
      if free.contains c then (acc.1 ++ [c], acc.2)
      else match acc.2 with
        | o :: t => (acc.1 ++ [o], t)
        | [] => (acc.1 ++ [c], [])) ([], others)
    let cs := place.1
    let moving := ((l.oldCores.zip cs).zipIdx.filter fun p => p.1.1 != p.1.2).map fun p => (p.2, p.1.1)
    let l1 := { l with st := .resident, cores := cs, starving := none, moving := moving
                       resuming := (List.range l.nthr).filter fun t => l.images.any fun p => p.1 == t }
    let d1 := d.onLaunch l.arrival fun _ => l1
    let d2 := d1.forEach cs.zipIdx fun p e => e.onCore p.1 fun c =>
      { c.seat l1 with thr := { c.thr with tid := BitVec.ofNat 8 p.2 }, ended := l1.endedThreads.contains p.2 }
    let d3 := d2.forEach moving fun m e =>
      match l1.images.find? fun p => p.1 == m.1 with
      | some p => e.raiseSpill m.2 p.2
      | none => e
    d3.forEach (List.range l1.nthr) fun t e => if moving.any fun m => m.1 == t then e else e.raiseResume l1 t

/-- A launch dispatched, resumed, or expired at its first dispatch (R397). -/
def Device.dispatchLaunch (d : Device) (l : Launch) : Device :=
  if l.st == .preempted then d.dispatchAgain l
  else if l.dropLate && decide (deltaOf l.deadline d.time ≤ 0) then d.endLaunch l 3 0
  else d.dispatchNew l

/-- A dispatch decision of a partition in hardware mode (R397, R399, R404, R468, R382). -/
def Device.dispatchStep (d : Device) (p : PartNo) : Device :=
  if d.duty.getLsbD 0 || d.dstate != 0 then d
  else
    let r := d.refreshRetired p
    if !r.2 then r.1
    else
      (Device.stepwise [fun d1 =>
        match pickLaunch (d1.freeCores p).length (d1.readyList p) with
        | some l => d1.dispatchLaunch l
        | none => d1.requestPreemption p] r.1).1

/-- A class-3 launch that has been ready for 3 ms is starving (R396). -/
def Device.starve (d : Device) (n : Nat) : Device :=
  d.onLaunch n fun l =>
    if l.ent.cls = 3 ∧ (l.st = .ready ∨ l.st = .preempted) ∧ l.starving = none ∧ l.readyAt + 3000 ≤ d.time then
      { l with starving := some (l.readyAt + 3000) }
    else l

/-- Whether the dispatch of ready launches in their order (R397) comes to one that `free` cores are too few for and `more` beside them
enough: earlier ones take free cores, or expire. -/
def usesMore (time more : Nat) : Nat → Nat → List Launch → Bool
  | 0, _, _ => false
  | f + 1, free, ls =>
    match pickLaunch (free + more) ls with
    | none => false
    | some w =>
      let rest := ls.filter fun l => l.arrival != w.arrival
      if w.st != .preempted && w.dropLate && decide (deltaOf w.deadline time ≤ 0) then usesMore time more f free rest
      else if w.nthr ≤ free then usesMore time more f (free - w.nthr) rest
      else true

/-- Whether a `yield` of the launch on a core is granted (R399). -/
def Device.yieldGranted (d : Device) (l : Launch) : Bool :=
  let ls := d.readyList l.pid
  !d.duty.getLsbD 0 && d.dstate == 0 && l.st == .resident && usesMore d.time l.nthr ls.length (d.freeCores l.pid).length ls

/-- The pre-emption of a launch is complete when each of its threads is saved and its core handed back (R431). -/
def Device.preemptionDone (d : Device) (n : Nat) : Device :=
  d.onLaunch n fun l =>
    if (l.st = .preempting ∨ l.st = .resident) ∧ l.images ≠ [] ∧
        (l.cores.all fun c => (d.cores.get c).launch != some l.id) then
      { l with st := .preempted, readyAt := d.time, oldCores := l.cores, moving := [], resuming := [] }
    else l

/-- A handler hands its core back (R431, R436): after SPILL the slots have moved, and RESUME follows on the new core; otherwise
the thread on the core is saved at the image of the last successful `ctxsave`, unless a KILL that came meanwhile ends it (R440). Its exchange is
kept as it stands now: the peer may have come since the image was written (R194, R195). -/
def Device.handBack (d : Device) (c : CoreNo) (spill : Bool) (img : Word) : Device :=
  let o := d.cores.get c
  if spill then
    let leave (e : Device) : Device := if o.launch.isNone then e.onCore c Core.toFree else e
    match d.launches.find? fun l => l.moving.any fun m => m.2 == c && l.images.any fun p => p.1 == m.1 && p.2 == img with
    | none => leave d
    | some l =>
      let mine := l.moving.filter fun m => m.2 == c && l.images.any fun p => p.1 == m.1 && p.2 == img
      let d1 := d.onLaunch l.arrival fun l => { l with moving := l.moving.filter fun m => !mine.contains m }
      let d2 := d1.forEach mine fun m e => e.raiseResume l m.1
      leave (match d2.launches.findSome? fun l => (l.moving.find? fun m => m.2 == c).bind fun m =>
          l.images.find? fun p => p.1 == m.1 with
        | some p => d2.raiseSpill c p.2
        | none => d2)
  else
    if o.irq.kill && o.launch.isSome && !o.ended then d.killThread c 0x0030
    else
    let d1 := d.onCore c fun o => { o.toFree with
      launch := none, ended := false, thr := { Thread.fresh with tid := o.thr.tid, lnch := o.thr.lnch } }
    match d.launchOn c, o.saved with
    | some l, some a =>
      let t := o.thr.tid.toNat
      let going := o.thr.transfers.any Option.isSome || !o.dmeta.isEmpty
      ({ d1 with kept := d1.kept.map fun k => if k.lnch == l.id && k.tid == o.thr.tid then { k with xchg := o.thr.xchg } else k } : Device).onLaunch
        l.arrival fun l => { l with
          images := l.images.filter (fun p => p.1 != t) ++ [(t, a)]
          inFlight := l.inFlight.filter (· != t) ++ (if going then [t] else []) }
    | _, _ => d1

/-! ### Slots -/

/-- A patch read and checked (R401). -/
def Device.readPatch (d : Device) (e : QEntry) (a pbsize : Nat) : Except Nat (List (Nat × Nat × Nat)) :=
  if a = 0 then .ok []
  else if a % 8 ≠ 0 then .error 2
  else
    match d.qread e a 8 with
    | none => .error 2
    | some h =>
      let n := fieldAt h 0 4
      if 64 < n ∨ zeroAt h 4 4 = false then .error 9
      else
        match d.qread e (a + 8) (16 * n) with
        | none => .error 2
        | some b =>
          let rs := rowsOf 16 n b
          let bad (r : List Byte) : Bool :=
            let o := fieldAt r 0 4
            let s := fieldAt r 4 1
            !(s == 1 || s == 2 || s == 4 || s == 8) || !zeroAt r 5 3 || o % s != 0 || decide (pbsize < o + s)
          if rs.any bad then .error 9 else .ok (rs.map fun r => (fieldAt r 0 4, fieldAt r 4 1, fieldAt r 8 8))

/-- A graph object read and checked at its submission (R401, R402). -/
def Device.readGraph (d : Device) (q : QueueNo) (pos : Half) (e : QEntry) (obj patch : Nat) : Except Nat Replay :=
  match d.qread e obj 64 with
  | none => .error 2
  | some h =>
    let nl := fieldAt h 0 2
    match d.qread e (obj + 64) (8 * nl), d.readPatch e patch (fieldAt h 4 4) with
    | none, _ => .error 2
    | _, .error 2 => .error 2
    | some b, p =>
      if decide (nl = 0 ∨ 1024 < nl) || decide (2 ≤ fieldAt h 2 1) || decide (fieldAt h 3 1 = 0 ∨ 16 < fieldAt h 3 1)
          || fieldAt h 4 4 % 64 != 0 || decide (2 ^ 24 < fieldAt h 4 4) || fieldAt h 8 8 % 64 != 0
          || fieldAt h 16 8 % 64 != 0 || !zeroAt h 24 40 then .error 9
      else
        match p with
        | .error r => .error r
        | .ok l => .ok
          { num := d.nextArrival, queue := q, pos := pos, ent := e, obj := obj
            descs := (rowsOf 8 nl b).map fun r => fieldAt r 0 8
            overlap := decide (fieldAt h 2 1 = 1), ncopy := fieldAt h 3 1, pbsize := fieldAt h 4 4
            pbbase := fieldAt h 8 8, copies := fieldAt h 16 8, patch := l, submitted := d.time }

/-- A valid slot is taken (R389, R395): the queue moves on, and the slot's launch or replay arrives or is refused. -/
def Device.takeSlot (d : Device) (q : QueueNo) (e : QEntry) (pos : Half) (s : List Byte) : Device :=
  let w := fieldAt s 0 8
  let patch := fieldAt s 8 8
  let graph := decide (w % 2 = 1)
  let desc := w / 64 * 64
  let d0 : Device := { (d.setHead q (e.head + 1)) with stuck := d.stuck.filter fun x => x.1 != q }
  let d1 := if d.duty.getLsbD 0 then
      d0.postEvent e.part { ty := 1, core := 0xFFFF, tag := 0, payload := valBytes q.val 2 ++ valBytes pos.toNat 4 ++ valBytes w 8 }
    else d0
  let refuse (r : Nat) : Device := d1.writeRecord q e pos 0 1 r false 0
  if w % 64 / 2 ≠ 0 ∨ zeroAt s 16 7 = false ∨ (graph = false ∧ patch ≠ 0) then refuse 1
  else if graph then
    match d1.readGraph q pos e desc patch with
    | .error r => refuse r
    | .ok r => { d1 with replays := d1.replays ++ [r], nextArrival := d1.nextArrival + 1 }
  else
    match d1.readLaunch q pos e desc none with
    | .error r => refuse r
    | .ok l => d1.arriveLaunch l

/-- The read of the slot at the head of a queue (R389): taken when it can be read and its generation is right; a slot that
cannot be read is logged once. -/
def Device.readSlot (d : Device) (q : QueueNo) : Device :=
  let e := d.queue q
  let pos := BitVec.ofNat 32 e.head
  if !d.usable e || e.count == 0 then d
  else
    match d.qread e (e.ring + 32 * (e.head % e.size)) 32 with
    | none =>
      if d.stuck.contains (q, pos) then d
      else ({ d with stuck := d.stuck.filter (fun (x : QueueNo × Half) => x.1 != q) ++ [(q, pos)] } : Device).logError e.part 0x0023 0xFF
        (BitVec.ofNat 64 (q.val * 2 ^ 32 + e.head))
    | some s =>
      if s.getD 23 0 = e.gen pos then d.takeSlot q e pos s
      else d

/-- `qpost` (R383): the result, and the slot written and posted. DESIGN CHOICE: a queue that is disabled gives 3, whatever its partition (R388;
log entry 104); a slot that cannot be written is posted all the same, with none of its bytes written (log entry 105). -/
def Device.qpost (d : Device) (c : CoreNo) (q : QueueNo) (desc : Word) : Device × Nat :=
  let e := d.queue q
  let o := d.cores.get c
  if !e.en || !e.ok then (d, 3)
  else if !d.validPart e || e.pid != o.part.pid.toNat then (d, 2)
  else if e.size ≤ e.count then (d, 1)
  else
    let slot := valBytes desc.toNat 8 ++ List.replicate 15 0 ++ [e.gen (BitVec.ofNat 32 e.tail)]
    match d.qwrite e (e.ring + 32 * (e.tail % e.size)) (slot ++ List.replicate 8 0) with
    | some d1 => (d1.setTail q (e.tail + 1), 0)
    | none => (d.setTail q (e.tail + 1), 0)

/-! ### Replays -/

/-- The replays of one graph object. -/
def Replay.sameGraph (a b : Replay) : Bool := a.obj == b.obj && a.ent.asid == b.ent.asid && a.ent.root == b.ent.root

/-- A copy slot of a replay that no running replay of its object uses (R402). -/
def Device.copySlot (d : Device) (r : Replay) : Option Nat :=
  (List.range r.ncopy).find? fun j => !(d.replays.any fun x => x.sameGraph r && x.copy == some j)

/-- The patch entries written into a copy, in order (R402). -/
def patchBytes (bs : List Byte) (l : List (Nat × Nat × Nat)) : List Byte :=
  l.foldl (fun b p => b.take p.1 ++ valBytes p.2.2 p.2.1 ++ b.drop (p.1 + p.2.1)) bs

/-- A replay starts (R402). -/
def Device.startReplay (d : Device) (n : Nat) : Device :=
  match d.replays.find? fun r => r.num == n with
  | none => d
  | some r =>
    let earlier := d.replays.any fun x => x.sameGraph r && decide (x.num < r.num)
    if r.copy.isSome || (!r.overlap && earlier) then d
    else
      match d.copySlot r with
      | none => d
      | some j =>
        let r1 := { r with copy := some j }
        let d1 : Device := { d with replays := d.replays.map fun x => if x.num = n then r1 else x }
        match d1.qread r.ent r.pbbase r.pbsize with
        | none => d1.endReplay r1 1 2
        | some bs =>
          match d1.qwrite r.ent (r.copies + j * r.pbsize) (patchBytes bs r.patch) with
          | none => d1.endReplay r1 1 2
          | some d2 => d2.nextOfReplay r1 0

end Sys2Proof.Machine
end

