-- ==== Sys2Proof/Machine/Ed25519.lean ====
section
/-!
DEFINITION. Ed25519 (RFC 8032) as firmware verification and attestation use it (25_bringup R466, R470): arithmetic of the curve over Nat,
the encoding of points, signing and verification. Where the RFC allows two forms of the check, verification is the one with the cofactor
(log entry 12).
-/

namespace Sys2Proof.Machine

/-- The prime of the field, the order of the base point, and the constant of the curve. -/
def edP : Nat := 2 ^ 255 - 19
def edL : Nat := 2 ^ 252 + 27742317777372353535851937790883648493
def edD : Nat := 37095705934669439343138083508754565189542113879843219016388785533085940283555

/-- `a ^ n` modulo the prime, for an exponent of at most `f` bits. -/
def edPow : Nat → Nat → Nat → Nat
  | 0, _, _ => 1
  | f + 1, a, n => (if n % 2 = 1 then a else 1) * edPow f (a * a % edP) (n / 2) % edP

/-- A difference modulo the prime. -/
def edSub (a b : Nat) : Nat := (a + (edP - b % edP)) % edP

/-- A point in extended homogeneous coordinates. -/
structure EdPoint where
  x : Nat
  y : Nat
  z : Nat
  t : Nat

/-- The neutral point. -/
def edZero : EdPoint := ⟨0, 1, 1, 0⟩

/-- The sum of two points. -/
def edAdd (p q : EdPoint) : EdPoint :=
  let a := edSub p.y p.x * edSub q.y q.x % edP
  let b := (p.y + p.x) * (q.y + q.x) % edP
  let c := 2 * edD * p.t % edP * q.t % edP
  let d := 2 * p.z * q.z % edP
  let e := edSub b a
  let f := edSub d c
  let g := d + c
  let h := b + a
  ⟨e * f % edP, g * h % edP, f * g % edP, e * h % edP⟩

/-- A multiple of a point, for a factor of at most `f` bits. -/
def edMul : Nat → Nat → EdPoint → EdPoint
  | 0, _, _ => edZero
  | f + 1, n, p =>
    let r := edMul f (n / 2) (edAdd p p)
    if n % 2 = 1 then edAdd p r else r

/-- Whether two points are one. -/
def edEq (p q : EdPoint) : Bool :=
  p.x * q.z % edP == q.x * p.z % edP && p.y * q.z % edP == q.y * p.z % edP

/-- The x of a y and a sign, where there is one. -/
def edRecover (y sign : Nat) : Option Nat :=
  let u := edSub (y * y % edP) 1
  let v := (edD * (y * y % edP) + 1) % edP
  let v3 := v * v % edP * v % edP
  let w := u * v3 % edP * edPow 255 (u * (v3 * v3 % edP * v % edP) % edP) ((edP - 5) / 8) % edP
  let vw := v * (w * w % edP) % edP
  let x := if vw = u then some w else if vw = edSub 0 u then some (w * edPow 255 2 ((edP - 1) / 4) % edP) else none
  match x with
  | none => none
  | some x => if x = 0 ∧ sign = 1 then none else some (if x % 2 = sign then x else edSub 0 x)

/-- A point decoded from 256 bits; nothing where they encode none. -/
def edDecode (n : Nat) : Option EdPoint :=
  let y := n % 2 ^ 255
  if edP ≤ y then none else (edRecover y (n / 2 ^ 255 % 2)).map fun x => ⟨x, y, 1, x * y % edP⟩

/-- The 256 bits that encode a point. -/
def edEncode (p : EdPoint) : Nat :=
  let i := edPow 255 p.z (edP - 2)
  p.y * i % edP + 2 ^ 255 * (p.x * i % edP % 2)

/-- The base point. -/
def edBase : EdPoint :=
  (edDecode 46316835694926478169428394003475163141307993866256225615783033603165251855960).getD edZero

/-- SHA-512 of bytes, as a number. -/
def edHash (l : List Byte) : Nat := (sha512 l).toNat

/-- The secret scalar of a seed. -/
def edScalar (seed : BitVec 256) : Nat :=
  let h := edHash (valBytes seed.toNat 32) % 2 ^ 256
  2 ^ 254 + h % 2 ^ 254 / 8 * 8

/-- The public key of a seed. -/
def edPublic (seed : BitVec 256) : BitVec 256 := BitVec.ofNat 256 (edEncode (edMul 256 (edScalar seed) edBase))

/-- The signature of a message by the key of a seed. -/
def edSign (seed : BitVec 256) (m : List Byte) : BitVec 512 :=
  let a := edScalar seed
  let pre := valBytes (edHash (valBytes seed.toNat 32) / 2 ^ 256) 32
  let r := edHash (pre ++ m) % edL
  let rb := edEncode (edMul 256 r edBase)
  let k := edHash (valBytes rb 32 ++ valBytes (edPublic seed).toNat 32 ++ m) % edL
  BitVec.ofNat 512 (rb + 2 ^ 256 * ((r + k * a) % edL))

/-- Whether a signature of a message by a public key is valid, its S canonical. -/
def edVerify (key : BitVec 256) (sig : BitVec 512) (m : List Byte) : Bool :=
  let rb := sig.toNat % 2 ^ 256
  let s := sig.toNat / 2 ^ 256
  match edDecode key.toNat, edDecode rb with
  | some a, some r =>
    let k := edHash (valBytes rb 32 ++ valBytes key.toNat 32 ++ m) % edL
    decide (s < edL) && edEq (edMul 256 (8 * s) edBase) (edAdd (edMul 4 8 r) (edMul 256 (8 * k) a))
  | _, _ => false

end Sys2Proof.Machine
end

