-- ==== Sys2Proof/Machine/Boot.lean ====
section
/-!
DEFINITION. Bring-up (chapter 25): device reset and boot (R467), verification of an image (R465, R466, R469), recovery (R468),
attestation (R470), power and throttling (R473, R474), over-temperature (R472), and entering a state (R382, R422, R423).
-/

namespace Sys2Proof.Machine

/-- `n` bytes copied from `src` to `dst` in sparse memories: the destination's old bytes go, the source's cells come. -/
def copyCells (from_ to_ : Memory) (src dst n : Nat) : Memory :=
  let cleared := to_.filter fun c => !(decide (dst ≤ c.1) && decide (c.1 < dst + n))
  (from_.filter fun c => decide (src ≤ c.1) && decide (c.1 < src + n)).foldl
    (fun m c => memWrite m (c.1 - src + dst) c.2) cleared

/-- The size of the flash, and the greatest length of an image (R465). -/
def flashSize : Nat := 0x1000000
def imageMax : Nat := 0x800000

/-- The fields of the image in the staging area (R465). -/
def Device.imgLen (d : Device) : Nat := memLoad d.mem (stageBase + 4) 4
def Device.imgEntry (d : Device) : Nat := memLoad d.mem (stageBase + 8) 8
def Device.imgLoad (d : Device) : Nat := memLoad d.mem (stageBase + 16) 8
def Device.imgKey (d : Device) : List Byte := memBytes d.mem (stageBase + 24) 32

/-- The digest of the image in the staging area (R466). -/
def Device.imgDigest (d : Device) : BitVec 512 :=
  sha512 (memBytes d.mem stageBase 64 ++ memBytes d.mem (stageBase + 4096) (d.imgLen - 4096))

/-- Slice memory, general, or HBM available to mappings (Table 21.1), as R459 and R465 name them: no table of the device. -/
def plainMem (a n : Nat) : Bool := decide (a + n ≤ partMapBase) || (decide (hbmBase ≤ a) && decide (a + n ≤ engineBase))

/-- Check 1 of R466; a staged image must also have the length the host gave (R468). -/
def Device.imgFormat (d : Device) : Bool :=
  let len := d.imgLen
  let entry := d.imgEntry
  let load := d.imgLoad
  memLoad d.mem stageBase 4 == 0xD4F10001 && len % 4096 == 0 && decide (8192 ≤ len) && decide (len ≤ imageMax)
    && entry % 8 == 0 && load % 4096 == 0 && plainMem load (len - 4096)
    && zeroAt (memBytes d.mem (stageBase + 56) 8) 0 8 && zeroAt (memBytes d.mem (stageBase + 128) 3968) 0 3968
    && decide (load ≤ entry) && decide (entry < load + (len - 4096))
    && (!d.boot.staged || d.boot.slen.toNat == len)

/-- The result code of checks 1 and 2 of R466, 1 where both hold. -/
def Device.imgChecks (d : Device) : BitVec 3 :=
  if !d.imgFormat then 2
  else if sha512 d.imgKey ≠ Config.keyHash then 3
  else 1

/-- Check 3 of R466 under `DUTY`.FWV = 0. -/
def Device.imgSigned (d : Device) : Bool :=
  edVerify (BitVec.ofNat 256 (bytesVal d.imgKey)) (BitVec.ofNat 512 (bytesVal (memBytes d.mem (stageBase + 64) 64)))
    (valBytes d.imgDigest.toNat 64)

/-- No image was accepted: the device awaits one, in state 3 where it was the flash image's (R467, R468). -/
def Device.rejectImage (d : Device) (result : BitVec 3) : Device :=
  { d with
    dstate := if d.boot.staged then d.dstate else 3
    boot := { d.boot with result := result, phase := 3, awaiting := false } }

/-- The copy of an image into the staging area, and PHASE 1 (R467, R468). -/
def Device.stageFlash (d : Device) : Device :=
  { d with
    mem := copyCells d.flash d.mem 0 stageBase flashSize
    boot := { d.boot with phase := 1, staged := false } }

/-- What a device reset leaves after its first two steps: what the tables mark held, the flash, and the memory of others. -/
def Device.hardReset (d : Device) : Device :=
  { Device.atReset with
    cores := d.cores.map fun c => { Core.atReset with part := c.part }
    remote := d.remote, flash := d.flash, fid := d.fid
    boot := { breq := d.boot.breq, byRecovery := d.boot.byRecovery, admitFwv := d.boot.admitFwv } }

/-- Step 3 of R467 from PHASE 0. -/
def Device.beginBoot (d : Device) : Device :=
  if d.boot.breq then { d with dstate := 3, boot := { d.boot with phase := 3 } } else d.stageFlash

/-- A device reset (R467), up to the start of verification or to recovery. -/
def Device.restart (d : Device) : Device := d.hardReset.beginBoot

/-- A core at the first convoy of firmware (R467): every register zero but `x1`, also those a launch sets to other values; `EW`, of whose
values 0 is none, is as a launch sets it (log entry 4). -/
def Core.firmware (c : Core) (n : CoreNo) (entry : Word) : Core :=
  { Core.atReset with
    mode := .run, pc := entry, part := c.part, am := c.am
    thr := { Thread.fresh with slip := 0, shadow := Vector.replicate 16 (Vector.replicate 29 0) }
    x2 := (Vector.replicate 64 (0 : Word)).set 1 (BitVec.ofNat 64 n.val) }

/-- Step 4 of R467: the accepted flash image is loaded and every core begins; RECOVER is cleared (R464). -/
def Device.startFirmware (d : Device) : Device :=
  let entry := BitVec.ofNat 64 d.imgEntry
  { d with
    mem := copyCells d.mem d.mem (stageBase + 4096) d.imgLoad (d.imgLen - 4096)
    boot := { d.boot with phase := 2, result := 1, digest := d.imgDigest, fwvUsed := d.boot.admitFwv, breq := false }
    cores := d.cores.mapFinIdx fun i c h => c.firmware ⟨i, h⟩ entry }

/-- An accepted recovery image (R468): it goes to the flash, with the mode it was admitted under (R464), and the device resets. -/
def Device.acceptStaged (d : Device) : Device :=
  let d1 : Device := { d with
    flash := copyCells d.mem d.flash stageBase 0 d.imgLen
    boot := { d.boot with breq := false, admitFwv := d.duty.getLsbD 5, byRecovery := true } }
  d1.restart

/-- Verification of the image in the staging area completes (R466, R467, R468, R469). -/
def Device.verifyImage (d : Device) : Device :=
  let d0 := if d.boot.phase = 0 then d.beginBoot else d
  if d0.boot.phase ≠ 1 ∨ d0.boot.awaiting = true then d0
  else
    let r := d0.imgChecks
    if r ≠ 1 then d0.rejectImage r
    else if d0.boot.staged && d0.duty.getLsbD 5 then
      ({ d0 with boot := { d0.boot with awaiting := true } }).postEvent 0
        { ty := 7, core := 0xFFFF, tag := 0, payload := valBytes d0.imgDigest.toNat 64 }
    else if d0.imgSigned = false then d0.rejectImage 4
    else if d0.boot.staged then d0.acceptStaged
    else d0.startFirmware

/-- A write to SGO (R464, R468): SLEN bytes are copied, as far as the staging area goes. -/
def Device.sgo (d : Device) : Device :=
  if d.boot.phase = 3 then
    { d with
      mem := copyCells d.mem d.mem 0 stageBase (min d.boot.slen.toNat (memEnd - stageBase))
      boot := { d.boot with phase := 1, staged := true, awaiting := false } }
  else d

/-- The host's verdict (R469); nothing where none is awaited. -/
def Device.verdict (d : Device) (pass : Bool) : Option Device :=
  if d.boot.awaiting then
    some (if pass then d.acceptStaged else d.rejectImage 5)
  else none

/-- The public identity key of the device (R464). -/
def idKey : BitVec 256 := edPublic Config.identitySeed

/-- A write to AGO (R470): the report is built and signed. -/
def Device.ago (d : Device) : Device :=
  if d.boot.astat = 1 then d
  else
    let b := d.boot
    let body := valBytes 1 4 ++ valBytes d.fid.toNat 4 ++ [0xA0, d.dstate.setWidth 8,
      BitVec.ofNat 8 ((if b.fwvUsed then 1 else 0) + if b.byRecovery then 2 else 0)] ++ List.replicate 5 0 ++
      valBytes b.nonce.toNat 32 ++ valBytes b.digest.toNat 64 ++ valBytes idKey.toNat 32 ++ List.replicate 48 0
    { d with boot := { b with astat := 2, report := body ++ valBytes (edSign Config.identitySeed body).toNat 64 } }

/-- The limit power stays under (R473): for 1 ms after a write that lowers it also the one that was in force. -/
def Device.powerLimit (d : Device) : Nat :=
  let b := d.boot
  if d.time < b.plimitAt + 1000 then max b.plimit.toNat b.plimitOld.toNat else b.plimit.toNat

/-- PNOW (R464, R473): 0 right after a reset, then whatever the module draws, within the limit. -/
def Device.powerNow (d : Device) : Nat := if d.time = 0 then 0 else min d.powerLimit (Config.powerNow d.time)

/-- A write to PLIMIT (R473). One that lowers nothing begins no new millisecond. -/
def Device.setPlimit (d : Device) (v : Word) : Device :=
  let b := d.boot
  let new : Word := if v.toNat < 600 then 600 else if 2400 < v.toNat then 2400 else v
  { d with boot :=
      if new.toNat < b.plimit.toNat then { b with plimit := new, plimitOld := BitVec.ofNat 64 d.powerLimit, plimitAt := d.time }
      else { b with plimit := new } }

/-- The issue allowance moves by one, within 4 to 16 (R474). -/
def Device.throttle (d : Device) (up : Bool) : Device :=
  let k := d.boot.thr
  { d with boot := { d.boot with thr := if up then (if k.toNat < 16 then k + 1 else k) else (if 4 < k.toNat then k - 1 else k) } }

/-- A die at 105 °C (R472): every resident launch ends, and the device enters state 3 with PHASE 2, whatever it was, so that no image is
taken (R468). -/
def Device.overheat (d : Device) (die : DieNo) : Device :=
  let cs := (List.finRange 192).filter fun c => (d.launchOn c).isSome && !(d.cores.get c).ended
  (Device.stepwise (cs.map (fun c e => e.coreFault c) ++ [fun e =>
    let e1 := e.logError 0 0x0040 0xFF (BitVec.ofNat 64 die.val)
    { e1 with dstate := 3, boot := { e1.boot with phase := 2, awaiting := false } }]) d).1

/-- After over-temperature no core issues until a reset (R468, R472). -/
def Device.stopped (d : Device) : Bool := d.dstate == 3 && d.boot.phase == 2

/-- An entry of the partition map (Table 21.7), without its RETIRED field. -/
def Device.mapEntry (d : Device) (p : PartNo) : PartInForce :=
  let b := partMapBase + 256 * p.val
  let range (i : Nat) : Nat × Nat := (memLoad d.mem (b + 32 + 16 * i) 8, memLoad d.mem (b + 40 + 16 * i) 8)
  let q := BitVec.ofNat 4 (memLoad d.mem (b + 1) 1)
  { valid := decide (memLoad d.mem b 1 % 2 = 1), qmask := q, retired := d.mapRetired p q
    ranges := ((List.range 4).map range).filter fun r => decide (r.1 < r.2) }

/-- Whether the masks of the valid entries form an arrangement of R418: they cover the quarters, each once, and a mask of two
quarters is {0, 1} or {2, 3}. Partition {2} and {3} beside {0}, {1} and the like are the five arrangements. -/
def arrangementOk (qs : List (BitVec 4)) : Bool :=
  qs.all (fun q => q == 15 || q == 3 || q == 12 || q == 1 || q == 2 || q == 4 || q == 8)
    && (List.range 4).all fun i => (qs.filter (·.getLsbD i)).length == 1

/-- The map takes effect (R422, R423): every core receives its `PART` fields, and a core that moves to another partition loses
its TLB (R421). -/
def Device.readMap (d : Device) : Device :=
  let es := Vector.ofFn fun p : PartNo => d.mapEntry p
  let valid := (es.toList.filter (·.valid))
  if !arrangementOk (valid.map PartInForce.qmask) then d.logError 0 0x0021 0xFF 0
  else
    let d1 : Device := { d with
      parts := es
      cores := d.cores.mapFinIdx fun i c _ =>
        match (List.finRange 4).find? fun p => (es.get p).valid && (es.get p).qmask.getLsbD (i / 48) with
        | none => c
        | some p =>
          let pid := BitVec.ofNat 8 p.val
          { c with
            part := { pid := pid, qmask := (es.get p).qmask, ncore := c.part.ncore }
            tlb := if c.part.pid = pid then c.tlb else [] } }
    d1.forEach (List.finRange 4) fun p e => e.setNcore p

/-- Every launch that is resident (R382). -/
def Device.anyResident (d : Device) : Bool :=
  d.launches.any fun l => l.st == .resident || l.st == .preempting

/-- `pmode` has waited; the state changes on every core (R382, R423, R468). -/
def Device.enterState (d : Device) (st : BitVec 2) : Device :=
  let d1 := if st = 0 ∧ d.dstate ≠ 0 then d.readMap else d
  { d1 with dstate := st, boot := if st = 3 then { d1.boot with phase := 3 } else d1.boot }

end Sys2Proof.Machine
end

