-- ==== Sys2Proof/Machine/HostIf.lean ====
section
/-!
DEFINITION. The host's side (chapter 24): the device-register pages as bytes, what a write of each register does (R449 to R456,
R464), commands of the partition channels (R454), the host window (R447), and the ports (R455).
-/

namespace Sys2Proof.Machine

/-- A field of a device-register page: its offset, its length in bytes, and its value. -/
abbrev RegField := Nat × Nat × Nat

/-- The bytes of fields; every other offset reads zero (R449, R464). -/
def fieldByte (fs : List RegField) (off : Nat) : Nat :=
  match fs.find? fun f => decide (f.1 ≤ off) && decide (off < f.1 + f.2.1) with
  | some f => f.2.2 / 256 ^ (off - f.1) % 256
  | none => 0

/-- The readable fields of a mailbox page (R451), a channel page (R453), the identity page (R456) and the boot page (R464). -/
def mailboxFields (m : Mailbox) : List RegField := [(0, 8, m.htod.toNat), (8, 8, m.dtoh.toNat)]
def chanFields (c : PChan) : List RegField :=
  [(0, 8, c.ebase.toNat), (8, 8, c.esize.toNat), (0x10, 4, c.ewrite.toNat), (0x14, 4, c.eread.toNat),
   (0x100, 64, bytesVal c.cmd.toList), (0x144, 4, c.cstat.toNat)]
def identityFields (d : Device) : List RegField := [(0, 8, d.fid.toNat), (8, 8, d.portUp.toNat)]
def bootFields (d : Device) : List RegField :=
  let b := d.boot
  let stat := b.phase.toNat + 4 * b.result.toNat + (if b.fwvUsed then 32 else 0)
  [(0, 8, if b.breq then 1 else 0), (8, 8, stat), (0x10, 8, b.slen.toNat), (0x40, 64, b.digest.toNat),
   (0x80, 32, idKey.toNat), (0xA0, 32, b.nonce.toNat), (0xC8, 8, b.astat.toNat), (0x100, 256, bytesVal b.report),
   (0x200, 8, b.plimit.toNat), (0x208, 8, d.powerNow), (0x210, 8, b.thr.toNat)]

/-- The fields of the page at offset `0x1000 × page` from 0x0100_0000 (Table 21.1). -/
def Device.pageFields (d : Device) (page : Nat) : List RegField :=
  if page < 192 then mailboxFields (d.mailboxes.get (Fin.ofNat 192 page))
  else if 0x100 ≤ page ∧ page < 0x104 then chanFields (d.chans.get (Fin.ofNat 4 page))
  else if page = 0x200 then identityFields d
  else if page = 0x210 then bootFields d
  else []

/-- Whether the page of a device register is one that an agent reaches (R464): the boot and power page only for the host and level 2. -/
def mayReach (host : Bool) (pl : BitVec 2) (pa : Nat) : Bool := (pa - devRegBase) / 0x1000 != 0x210 || host || pl == 2

/-- `n` bytes read from device registers by the host or by a core at a level; a page out of reach reads zero (log entry 45). -/
def Device.regRead (d : Device) (host : Bool) (pl : BitVec 2) (pa n : Nat) : List Byte :=
  (upFrom pa n).map fun a =>
    if mayReach host pl a then
      BitVec.ofNat 8 (fieldByte (d.pageFields ((a - devRegBase) / 0x1000)) ((a - devRegBase) % 0x1000))
    else 0

/-- `n` bytes of a doorbell page, as the host reads it (R449). -/
def Device.doorbellRead (d : Device) (q : QueueNo) (off n : Nat) : List Byte :=
  let e := d.queue q
  (upFrom off n).map fun o => BitVec.ofNat 8 (fieldByte [(0, 4, e.tail), (4, 4, e.head)] o)

/-- The value of a field of `len` bytes at `o` after a write of the low `n` bytes of `v` at `a`. -/
def patchField (old o len a n v : Nat) : Nat :=
  bytesVal ((upFrom 0 len).map fun i =>
    BitVec.ofNat 8 (if a ≤ o + i ∧ o + i < a + n then v / 256 ^ (o + i - a) else old / 256 ^ i))

/-- Whether a write of `n` bytes at `a` meets a field. -/
def hitsField (o len a n : Nat) : Bool := decide (a < o + len) && decide (o < a + n)

/-- The records that waited for space are written while there is some (R453). -/
def Device.flushEvents (d : Device) (p : PartNo) : Device :=
  let ch := d.chans.get p
  ch.waiting.foldl (fun e r => e.postEvent p r)
    { d with chans := d.chans.set p.val { ch with waiting := [] } p.isLt }

/-- A channel changed. -/
def Device.onChan (d : Device) (p : PartNo) (f : PChan → PChan) : Device :=
  { d with chans := d.chans.set p.val (f (d.chans.get p)) p.isLt }

/-- A core's mailbox rings (R451). -/
def Device.ring (d : Device) (c : CoreNo) : Device := d.onCore c fun o => { o with irq := { o.irq with mailbox := true } }

/-- A write to a mailbox page (R451): RING acts for the host, ALERT for a core. -/
def Device.writeMailbox (d : Device) (host : Bool) (c : CoreNo) (a n v : Nat) : Device :=
  let m := d.mailboxes.get c
  let m1 : Mailbox :=
    { htod := BitVec.ofNat 64 (patchField m.htod.toNat 0 8 a n v), dtoh := BitVec.ofNat 64 (patchField m.dtoh.toNat 8 8 a n v) }
  let d1 : Device := { d with mailboxes := d.mailboxes.set c.val m1 c.isLt }
  let d2 := if host && hitsField 0x10 8 a n then d1.ring c else d1
  if !host && hitsField 0x18 8 a n then { d2 with msix := d2.msix ++ [4 + c.val] } else d2

/-- A write of EREAD (R453). -/
def Device.setEread (d : Device) (p : PartNo) (v : Half) : Device := (d.onChan p fun c => { c with eread := v }).flushEvents p

/-- A write to a channel page (R453): GO starts the command in CMD unless one is busy. -/
def Device.writeChan (d : Device) (p : PartNo) (a n v : Nat) : Device :=
  let d1 := d.onChan p fun c => { c with
    ebase := BitVec.ofNat 64 (patchField c.ebase.toNat 0 8 a n v)
    esize := BitVec.ofNat 64 (patchField c.esize.toNat 8 8 a n v)
    eread := BitVec.ofNat 32 (patchField c.eread.toNat 0x14 4 a n v)
    cmd := c.cmd.mapFinIdx fun i b _ => BitVec.ofNat 8 (patchField b.toNat (0x100 + i) 1 a n v) }
  let d2 := d1.flushEvents p
  if a = 0x140 ∧ n = 4 then
    d2.onChan p fun c =>
      if c.cstat = 1 then c
      else
        let k := (c.cmd.get 0).toNat
        { c with cstat := if 1 ≤ k ∧ k ≤ 6 then 1 else 3 }
  else d2

/-- A write to the identity page: FID, by level 2 while the state is not 0 (R456). -/
def Device.writeIdentity (d : Device) (firmware : Bool) (a n v : Nat) : Device :=
  if firmware && d.dstate != 0 && hitsField 0 8 a n then { d with fid := BitVec.ofNat 20 (patchField d.fid.toNat 0 8 a n v) }
  else d

/-- A write to the boot and power page (R464). -/
def Device.writeBoot (d : Device) (a n v : Nat) : Device :=
  let b := d.boot
  let d1 : Device := { d with boot := { b with
    breq := decide (patchField (if b.breq then 1 else 0) 0 8 a n v % 2 = 1)
    slen := BitVec.ofNat 64 (patchField b.slen.toNat 0x10 8 a n v)
    nonce := BitVec.ofNat 256 (patchField b.nonce.toNat 0xA0 32 a n v) } }
  let d2 := if hitsField 0x18 8 a n then d1.sgo else d1
  let d3 := if hitsField 0xC0 8 a n then d2.ago else d2
  if hitsField 0x200 8 a n then d3.setPlimit (BitVec.ofNat 64 (patchField d.boot.plimit.toNat 0x200 8 a n v)) else d3

/-- The low `n` bytes of `v` written to device registers, by the host or by a core at a level (R201, R6). -/
def Device.regWrite (d : Device) (host : Bool) (pl : BitVec 2) (pa n v : Nat) : Device :=
  let page := (pa - devRegBase) / 0x1000
  let a := (pa - devRegBase) % 0x1000
  if !mayReach host pl pa then d
  else if page < 192 then d.writeMailbox host (Fin.ofNat 192 page) a n v
  else if 0x100 ≤ page ∧ page < 0x104 then d.writeChan (Fin.ofNat 4 page) a n v
  else if page = 0x200 then d.writeIdentity (!host && pl == 2) a n v
  else if page = 0x210 then d.writeBoot a n v
  else d

/-! ### Commands -/

/-- A field of the command buffer of a channel. -/
def Device.cmdField (d : Device) (p : PartNo) (o n : Nat) : Nat := fieldAt (d.chans.get p).cmd.toList o n

/-- A command of a channel carried out (R454): done, or rejected with nothing changed. Where it resets the device, what the reset leaves
stands (R469). -/
def Device.command (d : Device) (p : PartNo) (k : Nat) (f : Device → Option Device) : Device :=
  if (d.chans.get p).cstat ≠ 1 ∨ d.cmdField p 0 1 ≠ k then d
  else (f (d.onChan p fun c => { c with cstat := 2 })).getD (d.onChan p fun c => { c with cstat := 3 })

/-- Command 1: the launch of a slot is dispatched now if its cores are free (R454). -/
def Device.cmdDispatch (d : Device) (p : PartNo) : Option Device :=
  let q := d.cmdField p 8 2
  let pos := d.cmdField p 12 4
  if d.duty.getLsbD 0 && d.dstate == 0 then
    match d.launches.find? fun l => l.pid == p && l.queue.val == q && l.pos.toNat == pos &&
        (l.st == .ready || l.st == .preempted) with
    | some l => if l.nthr ≤ (d.freeCores p).length then some (d.dispatchLaunch l) else none
    | none => none
  else none

/-- That command, once the RETIRED bits have been read (R423), and there is space for the records (R453): until then it is busy. -/
def Device.runDispatch (d : Device) (p : PartNo) : Device :=
  if (d.chans.get p).cstat ≠ 1 ∨ d.cmdField p 0 1 ≠ 1 then d
  else
    let r := if d.duty.getLsbD 0 && d.dstate == 0 then d.refreshRetired p else (d, true)
    if !r.2 then r.1 else (Device.stepwise [fun e => e.command p 1 (·.cmdDispatch p)] r.1).1

/-- Command 2: a launch is pre-empted whole (R454). -/
def Device.cmdPreempt (d : Device) (p : PartNo) : Option Device :=
  let id := d.cmdField p 8 4
  match d.launches.find? fun l => l.pid == p && l.id.toNat == id && l.st == .resident with
  | some l => if d.duty.getLsbD 0 ∧ l.id ≠ 0 then some (d.preemptLaunch l) else none
  | none => none

/-- The question a tag names. -/
def Device.findAsk (d : Device) (p : PartNo) (tag : Nat) : Option Ask :=
  ((d.chans.get p).asks.find? fun a => a.1 == tag).map Prod.snd
def Device.dropAsk (d : Device) (p : PartNo) (tag : Nat) : Device :=
  d.onChan p fun c => { c with asks := c.asks.filter fun a => a.1 != tag }

/-- The host has answered the fault of a held convoy (R430): it is tried again, or the fault is delivered as its trap, with what it records
in `VSTART` (R84, R371). -/
def Core.answered (c : Core) (tag : Nat) (fail : Bool) (code : BitVec 8) (va : Word) (vec : Option VStart) : Core :=
  if c.wait = some (.host tag) then
    if fail then
      let t := match vec with
        | some v => { c.thr with vstart := v, vstartPc := c.pc, vstartPl := c.pl }
        | none => c.thr
      { (c.enterTrap code false false 0 va c.pc) with wait := none, thr := t }
    else { c with wait := some .retry }
  else c

/-- The same of a held AIB: it runs again, or its virtual processor has the trap (R428, R430). -/
def Core.answeredVp (c : Core) (tag v : Nat) (fail : Bool) (code : BitVec 8) (va : Word) : Core :=
  match c.thr.vps[v]? with
  | none => c
  | some w =>
    if w.asked = some tag then
      let w1 : Vp := { w with asked := none }
      let w2 : Vp := if fail then { w1 with trap := some (code, va) } else { w1 with runnable := true, held := false }
      { c with thr := c.thr.setVp v w2 }
    else c

/-- Command 3: the answer to a fault record (R430, R454). -/
def Device.cmdAnswer (d : Device) (p : PartNo) : Option Device :=
  let tag := d.cmdField p 8 4
  let how := d.cmdField p 12 1
  if 2 ≤ how then none
  else
    let fail := decide (how = 1)
    match d.findAsk p tag with
    | none => none
    | some a =>
      let d1 := d.dropAsk p tag
      match a with
      | .faultCore c code va vec => some (d1.onCore c fun o => o.answered tag fail code va vec)
      | .faultVp c v code va => some (d1.onCore c fun o => o.answeredVp tag v fail code va)
      | .faultElem c k =>
        (match (d1.cores.get c).thr.transfers.get k with
          | some t => if t.tag = some tag then some (if fail then d1.faultTransfer c k t else d1.resumeElems c k) else some d1
          | none => some d1)
      | .preload n =>
        (match d1.launchNo n with
          | some l =>
            if l.loading = .asked tag ∧ l.killed = false then
              some (if fail then d1.onLaunch n fun l => { l with loading := .failed } else d1.gang l)
            else some d1
          | none => some d1)
      | .spill _ _ | .remote _ _ => none

/-- Command 4: spilled writes are replayed (R311, R454). -/
def Device.cmdReplay (d : Device) (p : PartNo) : Option Device :=
  let tag := d.cmdField p 8 4
  match d.findAsk p tag with
  | some (.spill c k) =>
    let d1 := d.dropAsk p tag
    (match (d1.cores.get c).thr.transfers.get k with
      | some t => if t.spillTag = some tag then some (d1.replaySpills c k) else some d1
      | none => some d1)
  | _ => none

/-- Command 5: the transfer held under the tag begins (R460). -/
def Device.cmdProceed (d : Device) (p : PartNo) : Option Device :=
  let tag := d.cmdField p 8 4
  match d.findAsk p tag with
  | some (.remote c k) =>
    let d1 := d.dropAsk p tag
    (match (d1.cores.get c).thr.transfers.get k with
      | some t => if t.hostTag = some tag then some (d1.proceedTransfer c k) else some d1
      | none => some d1)
  | _ => none

/-- Command 6: the verdict on an image (R469). -/
def Device.cmdVerdict (d : Device) (p : PartNo) : Option Device :=
  match d.cmdField p 8 1 with
  | 0 => d.verdict true
  | 1 => d.verdict false
  | _ => none

/-! ### The host window -/

/-- The partition map range, which the host does not write (R447). -/
def inMapRange (a : Nat) : Bool := decide (partMapBase ≤ a) && decide (a < queueTabBase)

/-- The part of a host write that lies in one device-register page. -/
def Device.hostRegs (d : Device) (a : Nat) (bs : List Byte) (page : Nat) : Device :=
  let lo := max a (devRegBase + 0x1000 * page)
  let hi := min (a + bs.length) (devRegBase + 0x1000 * page + 0x1000)
  if lo < hi then d.regWrite true 0 lo (hi - lo) (bytesVal ((bs.drop (lo - a)).take (hi - lo))) else d

/-- A posted write through the host window (R447). -/
def Device.hostWrite (d : Device) (a : Nat) (bs : List Byte) : Device :=
  let regs := (upFrom a bs.length).filter isDevReg
  let mem := ((upFrom a bs.length).zip bs).filter fun p => isMem p.1 && !inMapRange p.1
  let d1 := if mem.length = bs.length then d.put none a bs else d.putAll mem
  d1.forEach (regs.map fun b => (b - devRegBase) / 0x1000).eraseDups fun page e => e.hostRegs a bs page

/-- A read through the host window (R447): all ones where nothing is. -/
def Device.hostRead (d : Device) (a n : Nat) : Device :=
  { d with hostData := (upFrom a n).flatMap fun b =>
      if isMem b then [memRead d.mem b] else if isDevReg b then d.regRead true 0 b 1 else [0xFF] }

/-! ### Ports -/

/-- A flit of a port that is up is retried after a CRC error (R455): of the flit retried last, or of another, where the count begins
again; which of the two is open (log entry 46). -/
def Device.flitRetry (d : Device) (p : PortNo) : Device :=
  if d.portUp.getLsbD p.val ∧ d.retries.get p < 16 then
    let same := (Config.freeWord d.nextTag 1).getLsbD 0
    { d with nextTag := d.nextTag + 1, retries := d.retries.set p.val (if same then d.retries.get p + 1 else 1) p.isLt }
  else d

/-- A port whose sixteenth retry failed goes down (R455). -/
def Device.portDown (d : Device) (p : PortNo) : Device :=
  if d.portUp.getLsbD p.val ∧ 16 ≤ d.retries.get p then
    ({ d with
      portUp := d.portUp &&& ~~~ (1#16 <<< p.val)
      retries := d.retries.set p.val 0 p.isLt }).logError 0 0x0022 0xFF (BitVec.ofNat 64 p.val)
  else d

/-- Firmware retrains a port (R455). -/
def Device.retrain (d : Device) (p : PortNo) : Device :=
  { d with portUp := d.portUp ||| (1#16 <<< p.val), retries := d.retries.set p.val 0 p.isLt }

/-- An element of another device's transfer is applied, where a port that is up can carry it (R455, R459, R460). -/
def Device.remoteApply (d : Device) (a : Nat) (bs : List Byte) : Device :=
  if plainMem a bs.length && d.portUp != 0 then d.put none a bs else d

end Sys2Proof.Machine
end

