-- ==== Sys2Proof/Machine/Access.lean ====
section
/-!
DEFINITION. Accesses of a control thread and of its virtual processors (09_isa_memory R198 to R201, R206, 22 R426, R439): one
element at a time, in the order the elements fault; and the steps a home slice makes as a whole (R212 to R214, R226, R283).
-/

namespace Sys2Proof.Machine

/-- A signed offset added to an address, modulo 2^64 (R198). -/
def addOff {k : Nat} (a : Word) (o : BitVec k) : Word := a + o.signExtend 64

/-- Whether an access may go to a device-register page: a scalar load or store of 4 or 8 bytes, and `wait.w` (R201). -/
def devAccess (acc : AccKind) (n : Nat) : Bool :=
  (n == 4 || n == 8) && (acc == .load || acc == .store || acc == .waitLoad)

/-- A global address checked and translated for an access of `n` bytes. DESIGN CHOICE: a misaligned address takes its address fault before
translation, for the spec orders no two faults of one access (R200; log entry 79). DEDUCED: on a page of device registers an access R201
does not allow is a translation fault ATTRIBUTE where the leaf says the page's kind (R410), and an address fault where none does (R201;
log entry 21). -/
def State.globalAt (s : State) (acc : AccKind) (a : Word) (n : Nat) (e : Option Nat) : Acc Phys :=
  if a.toNat % n ≠ 0 then .stop (.next (s.trapAt cAddress a e))
  else
    (s.translate acc a e).bind fun ph s1 =>
      if devAccess acc n then .ok ph s1
      else if ph.leaf.any fun l => l.kind == 5 then .stop (s1.xlatFault cData kAttribute a e)
      else if isDevReg ph.pa then .stop (.next (s1.trapAt cAddress a e))
      else .ok ph s1

/-- An instruction of the vector queue has its turn: its checks were made when it issued (R42). -/
def State.inTurn (s : State) : Bool := match s.ctx.queued with | some q => q.mode == .turn | none => false

/-- A local address checked for an access of `n` bytes (R199, R200). -/
def State.localAt (s : State) (sp : Space) (a : Word) (n : Nat) (e : Option Nat) : Acc Local :=
  if a.toNat % n ≠ 0 then .stop (.next (s.trapAt cAddress a e))
  else
    match (if s.inTurn then s.dev.placeOf s.cur sp a n else s.dev.locate s.cur sp a n) with
    | none => .stop (.next (s.trapAt cAddress a e))
    | some l => .ok l s

/-- An access checked and translated (R198 to R201). -/
def State.spotAt (s : State) (sp : Space) (acc : AccKind) (a : Word) (n : Nat) (e : Option Nat) : Acc Spot :=
  match sp with
  | .glob => (s.globalAt acc a n e).bind fun ph s1 => .ok (.glob ph) s1
  | _ => (s.localAt sp a n e).bind fun l s1 => .ok (.loc l) s1

/-- Whether it is a device register. -/
def Spot.isReg (p : Spot) : Bool := match p with | .glob ph => isDevReg ph.pa | .loc _ => false
/-- Where they lie: those of a view in a place of its own, which nothing writes. -/
def Spot.place (p : Spot) (n : Nat) : Hull :=
  match p with
  | .glob ph =>
    let view := match ph.leaf with | some l => decide (l.kind = 2 ∨ l.kind = 3) | none => false
    ⟨if view then 999 else 0, ph.pa, ph.pa + n⟩
  | .loc l => ⟨l.bufNo, l.off, l.off + n⟩
/-- The same of bytes an instruction of the queue is to touch. -/
def Touch.named (t : Touch) : Hull := t.spot.named t.addr t.n
def Touch.place (t : Touch) : Hull := t.spot.place t.n
/-- Whether one of them is poisoned (R439), and their values. -/
def Spot.poisoned (p : Spot) (d : Device) (a : Word) (n : Nat) : Bool :=
  match p with
  | .glob ph => physPoisoned d ph a.toNat n
  | .loc l => d.localPoisoned l n
def Spot.bytes (p : Spot) (d : Device) (a : Word) (n : Nat) : List Byte :=
  match p with
  | .glob ph => physBytes d.mem ph a.toNat n
  | .loc l => d.localBytes l n

/-! ### The vector queue (R47, R51, R238, R302) -/

/-- What runs is an instruction of the queue, for its checks alone. -/
def State.trial (s : State) : Bool := s.ctx.queued.isSome && !s.inTurn
/-- It stands behind others there: none of its accesses is performed yet. -/
def State.behind (s : State) : Bool := match s.ctx.queued with | some q => q.mode == .behind | none => false
/-- Bytes it must wait for. -/
def State.await (s : State) (t : Touch) : State :=
  { s with ctx := { s.ctx with blocked := true, queued := s.ctx.queued.map fun q => { q with touches := q.touches ++ [t] } } }
/-- Bytes that an instruction of the queue has read before, and bytes it reads now. -/
def State.gotAt (s : State) (sp : Space) (a : Word) (n : Nat) : Option Nat :=
  s.ctx.queued.bind fun q => (q.got.find? fun g => g.1 == sp && g.2.1 == a && g.2.2.1 == n).map fun g => g.2.2.2
def State.gets (s : State) (sp : Space) (a : Word) (n v : Nat) : State :=
  { s with ctx := { s.ctx with queued := s.ctx.queued.map fun q => { q with got := q.got ++ [(sp, a, n, v)] } } }

/-- Whether an access at a level meets bytes of an instruction of the queue that is before it: accesses of one thread to a byte keep their order
(R208, R328). -/
def Core.lateHolds (c : Core) (pl : BitVec 2) (h : Hull) (no : Option Nat := none) : Bool :=
  c.late.any fun e => e.pl == pl && (no.all fun n => decide (e.no < n)) && e.touches.any fun t => t.place.meets h
/-- The same of what runs. -/
def State.lateMeets (s : State) (h : Hull) : Bool := s.ctx.vp.isNone && s.core.lateHolds s.core.pl h s.lateNo

/-- Whether an element of a vector load lies above its link watermark (R238). -/
def linkStalls (t : Thread) (a n : Nat) : Bool :=
  t.lw.toList.any fun l => l.en && l.role == 2 && decide (l.start.toNat ≤ a) && decide (a < l.start.toNat + l.len)
    && decide (l.start.toNat + l.mark.toNat < a + n)

/-- Whether a read of the thread must wait. DESIGN CHOICE: a link watermark holds the thread alone, and no handler on its core (R238; log entry
95). -/
def State.mustWait (s : State) (link : Bool) (sp : Space) (a : Word) (n : Nat) (h : Hull) : Bool :=
  (link && sp == .glob && s.level == 0 && linkStalls s.thr a.toNat n) || s.lateMeets h

/-! ### Accesses -/

/-- Bytes that nothing holds, read (R439). -/
def State.readSpot (s : State) (sp : Space) (a : Word) (n : Nat) (e : Option Nat) (p : Spot) : Acc (List Byte) :=
  if p.poisoned s.dev a n then .stop (.next (s.trapAt cMemErr a e))
  else
    let bs := p.bytes s.dev a n
    .ok bs (s.gets sp a n (bytesVal bs))

/-- Bytes at a place that what runs needs at once: it makes no progress while they must wait. -/
def State.needSpot (s : State) (link : Bool) (sp : Space) (a : Word) (n : Nat) (e : Option Nat) (p : Spot) : Acc (List Byte) :=
  match s.gotAt sp a n with
  | some v => .ok (valBytes v n) s
  | none =>
    if s.mustWait link sp a n (p.place n) then .stop (stall s)
    else (s.settle false (p.named a n)).bind fun _ s1 => s1.readSpot sp a n e p

/-- An access that is performed later (R42): its convoy may commit. DESIGN CHOICE: one that would read a poisoned byte as things stand could
still trap, and holds its convoy until it can be performed; no memory error strikes what a committed one is still to read (R439; log entry
97). -/
def State.defers (s : State) (t : Touch) : Acc Unit :=
  if t.read && t.spot.poisoned s.dev t.addr t.n && !s.inTurn then .stop (stall s) else .ok () (s.await t)

/-- Bytes at a place that may wait in the queue, zeros until they come. -/
def State.lateSpot (s : State) (link : Bool) (sp : Space) (a : Word) (n : Nat) (e : Option Nat) (p : Spot) : Acc (List Byte) :=
  match s.gotAt sp a n with
  | some v => .ok (valBytes v n) s
  | none =>
    let wait (s : State) : Acc (List Byte) :=
      (s.defers { spot := p, addr := a, n := n, read := true, write := false }).bind fun _ s1 => .ok (List.replicate n 0) s1
    if s.behind || s.mustWait link sp a n (p.place n) then wait s
    else
      match s.settled false (p.named a n) with
      | (true, s1) => if s1.inTurn && p.poisoned s1.dev a n then wait s1 else s1.readSpot sp a n e p
      | (false, s1) => wait s1
/-- `n` bytes read by what runs: a device register, or what `f` makes of a place. -/
def State.readWith (s : State) (sp : Space) (acc : AccKind) (a : Word) (n : Nat) (e : Option Nat) (f : State → Spot → Acc (List Byte)) :
    Acc (List Byte) :=
  (s.spotAt sp acc a n e).bind fun p s1 =>
    match p with
    | .glob ph => if isDevReg ph.pa then .ok (s1.dev.regRead false s1.level ph.pa n) s1 else f s1 p
    | .loc _ => f s1 p
/-- `n` bytes read by what runs, needed at once; `e` is the element a fault records (R84). -/
def State.readBytes (s : State) (sp : Space) (acc : AccKind) (a : Word) (n : Nat) (e : Option Nat) : Acc (List Byte) :=
  s.readWith sp acc a n e fun s1 p => s1.needSpot false sp a n e p
/-- `n` bytes read by what runs, which wait alone where they must (R302). -/
def State.lateBytes (s : State) (link : Bool) (sp : Space) (acc : AccKind) (a : Word) (n : Nat) (e : Option Nat) : Acc (List Byte) :=
  s.readWith sp acc a n e fun s1 p => s1.lateSpot link sp a n e p

/-- The agent a write is one of (R222): the thread's own instructions, or any other, its VPs and the handlers on its core among them. -/
def State.agent (s : State) : Option CoreNo := if s.ctx.vp.isNone && s.core.pl == 0 then some s.cur else none

/-- Bytes written by what runs at a place translated before (R338, R439). -/
def State.putGlobal (s : State) (pa : Nat) (bs : List Byte) : State :=
  if isDevReg pa then { s with dev := s.dev.regWrite false s.level pa bs.length (bytesVal bs) }
  else { s with dev := (s.dev.put s.agent pa bs).onCore s.cur fun c => c.touch pa }

/-- Bytes written by what runs at a place of a buffer (R338). -/
def State.putLocal (s : State) (l : Local) (bs : List Byte) : State :=
  { s with dev := (s.dev.localPut l bs).onCore s.cur fun c => c.touchBuf l.core }

/-- Bytes written at a place checked before. -/
def State.putSpot (s : State) (p : Spot) (bs : List Byte) : State :=
  match p with
  | .glob ph => s.putGlobal ph.pa bs
  | .loc l => s.putLocal l bs

/-- Bytes written by what runs: an element of a vector store that must wait does so in the queue, any other store makes no progress. -/
def State.writeBytes (s : State) (sp : Space) (acc : AccKind) (a : Word) (bs : List Byte) (e : Option Nat) : Acc Unit :=
  let n := bs.length
  (s.spotAt sp acc a n e).bind fun p s1 =>
    let wait (s : State) : Acc Unit :=
      if acc == .vecStore then s.defers { spot := p, addr := a, n := n, read := false, write := true } else .stop (stall s)
    if p.isReg then .ok () (s1.putSpot p bs)
    else if s1.trial || s1.lateMeets (p.place n) then wait s1
    else
      match s1.settled true (p.named a n) with
      | (true, s2) => .ok () (s2.putSpot p bs)
      | (false, s2) => wait s2

/-- The transfers that what runs must wait for at a byte of a buffer, and that have not stamped its KiB yet (R302, R308). -/
def State.unstamped (s : State) (l : Local) : List Chan :=
  (meetingChannels s.thr s.lateNo false ⟨l.bufNo, l.off, l.off + 1⟩).filter fun k =>
    !s.core.above s.level k && (s.thr.transfers.get k).any fun t => !t.stamped.contains (l.bufNo, l.off / 1024)

/-- One element of a stream read (R206, R269): one that must wait holds the instruction. -/
def State.vecElem (s : State) (sp : Space) (a : Word) (n e : Nat) (acc : AccKind := .vecRead) : Acc Nat :=
  (s.readWith sp acc a n (some e) fun s1 p => s1.needSpot true sp a n (some e) p).bind fun bs s1 => .ok (bytesVal bs) s1

/-- One element of a vector load (R206): translated and checked; one that must wait does so in its lane (R238, R302). -/
def State.loadElem (s : State) (sp : Space) (a : Word) (n e : Nat) : Acc Nat :=
  (s.lateBytes true sp .vecRead a n (some e)).bind fun bs s1 => .ok (bytesVal bs) s1

/-- The granules of `g` bytes a set of written ranges covers whole (R439). -/
def coveredBy (g x : Nat) (rs : List (Nat × Nat)) : Bool :=
  (upFrom (x * g) g).all fun b => rs.any fun r => decide (r.1 ≤ b) && decide (b < r.2)

/-- A granule that one vector store covers whole is no longer poisoned, although no element of it does (R439). -/
def State.clearCovered (s : State) (ps : List (Nat × Nat)) (ls : List (Local × Nat)) : State :=
  let d := s.dev
  let d1 : Device := { d with poison := d.poison.filter fun x => !coveredBy 64 x ps }
  let one (c : CoreNo) (wb : Bool) : List (Nat × Nat) :=
    (ls.filter fun l => l.1.core == c && l.1.wb == wb).map fun l => (l.1.off, l.1.off + l.2)
  let d2 := d1.forEach (ls.map fun l => l.1.core).eraseDups fun c e => e.onCore c fun o => { o with
    abPoison := o.abPoison.filter fun x => !coveredBy 128 x (one c false)
    wbPoison := o.wbPoison.filter fun x => !coveredBy 128 x (one c true) }
  { s with dev := d2 }

/-! ### Steps of a home slice -/

/-- The value an update leaves (R211 to R213). `f32` additions round by RNE and never flush; minimum and maximum follow `vmin`
and `vmax` under the numeric state given. -/
def amoValue (c : NumCtx) (op : AmoOp) (ty : Ty) (old b cmp : Nat) : Nat :=
  let io := intOf ty old
  let ib := intOf ty b
  let plain : NumCtx := { c with nctl := 0 }
  match op with
  | .add => wrapInt ty (io + ib)
  | .min => if io ≤ ib then old else b
  | .max => if io ≤ ib then b else old
  | .and => old &&& b
  | .or => old ||| b
  | .xor => old ^^^ b
  | .swap => b
  | .cas => if old = cmp then b else old
  | .fadd => faddBits plain .rne 0 .f32 old b
  | .fmin => fminBits c .f32 old b
  | .fmax => fmaxBits c .f32 old b

/-- An atomic as one step in the write queue of its home slice (R212): the old value, and the memory written. -/
def Device.amo (d : Device) (own : Option CoreNo) (c : NumCtx) (op : AmoOp) (ty : Ty) (pa : Nat) (b cmp : Nat) : Device × Nat :=
  let n := ty.size
  let old := memLoad d.mem pa n
  let m := 2 ^ ty.bits
  (d.put own pa (valBytes (amoValue c op ty old (b % m) (cmp % m)) n), old)

/-- The waiters of a generation of a barrier word complete with OK (R226). -/
def Device.completeWord (d : Device) (pa : Nat) (gen : Half) : Device :=
  { d with cores := d.cores.map fun o =>
      match o.wait with
      | some (.waiting (.gsyncW a g none)) =>
        if a = pa ∧ g = gen then { o with wait := some (.waiting (.gsyncW a g (some 0))) } else o
      | _ => o }

/-- An arrival at a barrier word (R226): the generation waited on. DESIGN CHOICE: ARR + 1 is compared with COUNT before it wraps to 32
bits, for the spec gives the comparison no width (log entry 81). -/
def Device.arriveWord (d : Device) (own : Option CoreNo) (pa : Nat) : Device × Half :=
  let count := memLoad d.mem pa 4
  let arr := memLoad d.mem (pa + 4) 4 + 1
  let gen := memLoad d.mem (pa + 8) 4
  let g := BitVec.ofNat 32 gen
  if count ≤ arr then ((d.completeWord pa g).put own (pa + 4) (valBytes 0 4 ++ valBytes (gen + 1) 4), g)
  else (d.put own (pa + 4) (valBytes arr 4), g)

/-- A claim on a split descriptor (R283): the result. -/
def Device.claim (d : Device) (own : Option CoreNo) (pa : Nat) (t : Half) : Device × Word :=
  let nseg := memLoad d.mem pa 4
  let next := memLoad d.mem (pa + 4) 4
  if memLoad d.mem (pa + 8) 4 ≠ t.toNat ∨ memLoad d.mem (pa + 12) 4 ≠ 0 then (d, 0xFFFFFFFFFFFFFFFE)
  else if next < nseg then (d.put own (pa + 4) (valBytes (next + 1) 4), BitVec.ofNat 64 next)
  else (d, 0xFFFFFFFFFFFFFFFF)

/-- Whatever arrives at the write queue of a home slice, executed (R212, R226, R283): its value. -/
def Device.homeOp (d : Device) (own : Option CoreNo) (c : NumCtx) (op : HomeOp) : Device × Word :=
  match op with
  | .amo op ty pa b cmp =>
    let r := d.amo own c op ty pa b.toNat cmp.toNat
    (r.1, BitVec.ofInt 64 (intOf ty r.2))
  | .arrive pa =>
    let r := d.arriveWord own pa
    (r.1, r.2.setWidth 64)
  | .claim pa t => d.claim own pa t

end Sys2Proof.Machine
end

