-- ==== Sys2Proof/Machine/Scalar.lean ====
section
/-!
DEFINITION. Scalar integer instructions (07_isa_control R138 to R143): register forms, immediate forms, long immediates and the
restricted scalar slots.
-/

namespace Sys2Proof.Machine

/-- A register form: both operands read at the width and sign of TY, the result extended to the register (R138). -/
def scalar2 (ty : Ty) (d a b : XReg) (s : State) (f : Int → Int → Int) : Out :=
  onThread s (.next (s.wx d (xext ty (f (xint ty (s.rx a)) (xint ty (s.rx b))))))

/-- A form on the patterns of both operands. -/
def scalar2Bits (ty : Ty) (d a b : XReg) (s : State) (f : Nat → Nat → Nat) : Out :=
  onThread s (.next (s.wx d (xextBits ty (f (xbits ty (s.rx a)) (xbits ty (s.rx b))))))

/-- A form with an immediate in place of the second operand (R129, R140). -/
def scalarImm (ty : Ty) (d a : XReg) (s : State) (i : Nat) (f : Nat → Nat → Nat) : Out :=
  onThread s (.next (s.wx d (xextBits ty (f (xbits ty (s.rx a)) i))))

/-- Shifts of an N-bit pattern by a count taken modulo N (Table 7.2). -/
def sllBits (n a c : Nat) : Nat := a * 2 ^ (c % n)
def srlBits (n a c : Nat) : Nat := a % 2 ^ n / 2 ^ (c % n)
def sraBits (n a c : Nat) : Nat :=
  let a' := a % 2 ^ n
  let sa : Int := if 2 ^ (n - 1) ≤ a' then (a' : Int) - 2 ^ n else a'
  (sa / 2 ^ (c % n) % (2 ^ n : Int)).toNat

/-- A whole-register form of a restricted slot, which reads its sources before the word writes (R39, R142). -/
def slot2 (d a : XReg) (s : State) (f : Word → Word → Word) : Out :=
  onThread s (.next (s.wx d (f (s.rx d) (s.rx a))))

/-- R139. -/
def execAdd (ty : Ty) (d a b : XReg) (s : State) : Out :=
  scalar2 ty d a b s fun x y => x + y

/-- R139. -/
def execSub (ty : Ty) (d a b : XReg) (s : State) : Out :=
  scalar2 ty d a b s fun x y => x - y

/-- R139. -/
def execAnd (ty : Ty) (d a b : XReg) (s : State) : Out :=
  scalar2Bits ty d a b s fun x y => x &&& y

/-- R139. -/
def execOr (ty : Ty) (d a b : XReg) (s : State) : Out :=
  scalar2Bits ty d a b s fun x y => x ||| y

/-- R139. -/
def execXor (ty : Ty) (d a b : XReg) (s : State) : Out :=
  scalar2Bits ty d a b s fun x y => x ^^^ y

/-- R139: the count is taken modulo N. -/
def execSll (ty : Ty) (d a b : XReg) (s : State) : Out :=
  scalar2Bits ty d a b s (sllBits ty.bits)

/-- R139. -/
def execSrl (ty : Ty) (d a b : XReg) (s : State) : Out :=
  scalar2Bits ty d a b s (srlBits ty.bits)

/-- R139: filled with bit N − 1 whatever the sign of TY. -/
def execSra (ty : Ty) (d a b : XReg) (s : State) : Out :=
  scalar2Bits ty d a b s (sraBits ty.bits)

/-- R139. -/
def execSlt (ty : Ty) (d a b : XReg) (s : State) : Out :=
  scalar2 ty d a b s fun x y => if x < y then 1 else 0

/-- R139. -/
def execMin (ty : Ty) (d a b : XReg) (s : State) : Out :=
  scalar2 ty d a b s fun x y => if x ≤ y then x else y

/-- R139. -/
def execMax (ty : Ty) (d a b : XReg) (s : State) : Out :=
  scalar2 ty d a b s fun x y => if x ≤ y then y else x

/-- R139: all 64 bits of `xc` are tested; both types are 64 bits wide. -/
def execCsel (_ty : Ty) (d a b c : XReg) (s : State) : Out :=
  onThread s (.next (s.wx d (if s.rx c ≠ 0 then s.rx a else s.rx b)))

/-- R139. -/
def execAddsl (ty : Ty) (d a b : XReg) (n : BitVec 3) (s : State) : Out :=
  scalar2 ty d a b s fun x y => x + y * 2 ^ n.toNat

/-- R139. -/
def execMul (ty : Ty) (d a b : XReg) (s : State) : Out :=
  scalar2 ty d a b s fun x y => x * y

/-- R139: the high half of the exact product. -/
def execMulh (ty : Ty) (d a b : XReg) (s : State) : Out :=
  scalar2 ty d a b s fun x y => x * y / 2 ^ ty.bits

/-- R93: it never traps. -/
def execDiv (ty : Ty) (d a b : XReg) (s : State) : Out :=
  scalar2 ty d a b s (quotInt ty)

/-- R93: it never traps. -/
def execRem (ty : Ty) (d a b : XReg) (s : State) : Out :=
  scalar2 ty d a b s remInt

/-- R139. -/
def execClz (ty : Ty) (d a : XReg) (s : State) : Out :=
  onThread s (.next (s.wx d (BitVec.ofNat 64 (clzNat ty.bits (xbits ty (s.rx a))))))

/-- R139. -/
def execCtz (ty : Ty) (d a : XReg) (s : State) : Out :=
  onThread s (.next (s.wx d (BitVec.ofNat 64 (ctzNat ty.bits (xbits ty (s.rx a))))))

/-- R139. -/
def execPopc (ty : Ty) (d a : XReg) (s : State) : Out :=
  onThread s (.next (s.wx d (BitVec.ofNat 64 (popNat ty.bits (xbits ty (s.rx a))))))

/-- R139: the result is written whole. -/
def execExt (ty : Ty) (d a : XReg) (s : State) : Out :=
  onThread s (.next (s.wx d (xextBits ty (xbits ty (s.rx a)))))

/-- R140: the immediate is sign-extended. -/
def execAddi (ty : Ty) (d a : XReg) (imm : BitVec 16) (s : State) : Out :=
  scalarImm ty d a s (immArith ty imm) fun x y => x + y

/-- R140: the immediate is zero-extended. -/
def execAndi (ty : Ty) (d a : XReg) (imm : BitVec 16) (s : State) : Out :=
  scalarImm ty d a s imm.toNat fun x y => x &&& y

/-- R140. -/
def execOri (ty : Ty) (d a : XReg) (imm : BitVec 16) (s : State) : Out :=
  scalarImm ty d a s imm.toNat fun x y => x ||| y

/-- R140. -/
def execXori (ty : Ty) (d a : XReg) (imm : BitVec 16) (s : State) : Out :=
  scalarImm ty d a s imm.toNat fun x y => x ^^^ y

/-- R140. -/
def execSlli (ty : Ty) (d a : XReg) (n : BitVec 6) (s : State) : Out :=
  scalarImm ty d a s n.toNat (sllBits ty.bits)

/-- R140. -/
def execSrli (ty : Ty) (d a : XReg) (n : BitVec 6) (s : State) : Out :=
  scalarImm ty d a s n.toNat (srlBits ty.bits)

/-- R140. -/
def execSrai (ty : Ty) (d a : XReg) (n : BitVec 6) (s : State) : Out :=
  scalarImm ty d a s n.toNat (sraBits ty.bits)

/-- R140: the immediate is sign-extended, then read by the sign of TY. -/
def execSlti (ty : Ty) (d a : XReg) (imm : BitVec 16) (s : State) : Out :=
  scalarImm ty d a s (immArith ty imm) fun x y => if intOf ty x < intOf ty y then 1 else 0

/-- R140. -/
def execMuli (ty : Ty) (d a : XReg) (imm : BitVec 16) (s : State) : Out :=
  scalarImm ty d a s (immArith ty imm) fun x y => x * y

/-- R141. -/
def execLim (d : XReg) (imm : BitVec 32) (s : State) : Out :=
  onThread s (.next (s.wx d (imm.signExtend 64)))

/-- R141: bits [31:0] are unchanged. -/
def execLih (d : XReg) (imm : BitVec 32) (s : State) : Out :=
  onThread s (.next (s.wx d (imm ++ (s.rx d).setWidth 32)))

/-- R141: relative to the first word of the convoy. -/
def execAddpc (d : XReg) (imm : BitVec 32) (s : State) : Out :=
  onThread s (.next (s.wx d (s.ctx.addr + imm.signExtend 64)))

/-- R132. -/
def execNop  (s : State) : Out :=
  .next s

/-- R142. -/
def execMov (d a : XReg) (s : State) : Out :=
  onThread s (.next (s.wx d (s.rx a)))

/-- R142. -/
def execAddiR (d : XReg) (imm : BitVec 14) (s : State) : Out :=
  onThread s (.next (s.wx d (s.rx d + imm.signExtend 64)))

/-- R142. -/
def execAddR (d a : XReg) (s : State) : Out :=
  slot2 d a s fun x y => x + y

/-- R142. -/
def execSubR (d a : XReg) (s : State) : Out :=
  slot2 d a s fun x y => x - y

/-- R142. -/
def execAndR (d a : XReg) (s : State) : Out :=
  slot2 d a s fun x y => x &&& y

/-- R142. -/
def execOrR (d a : XReg) (s : State) : Out :=
  slot2 d a s fun x y => x ||| y

/-- R142. -/
def execXorR (d a : XReg) (s : State) : Out :=
  slot2 d a s fun x y => x ^^^ y

/-- R142. -/
def execShli (d : XReg) (n : BitVec 6) (s : State) : Out :=
  onThread s (.next (s.wx d (s.rx d <<< n.toNat)))

/-- R142. -/
def execShri (d : XReg) (n : BitVec 6) (s : State) : Out :=
  onThread s (.next (s.wx d (s.rx d >>> n.toNat)))

/-- R142. -/
def execSraiR (d : XReg) (n : BitVec 6) (s : State) : Out :=
  onThread s (.next (s.wx d ((s.rx d).sshiftRight n.toNat)))

end Sys2Proof.Machine
end

