-- ==== Sys2Proof/Machine/Vp.lean ====
section
/-!
DEFINITION. The register instructions of virtual processors and the terminators (07_isa_control R155 to R164). They act on the
AIB that runs; its writes are held with it (R61, R159). Under STO the element counter is the VP number (R160).
-/

namespace Sys2Proof.Machine

/-- A w register as a source: a low slot reads the VP as it stood before its word (R39). -/
def State.rw (s : State) (r : VpRun) (a : WReg) : Half := (s.ctx.vpSrc.getD r.st).w.get a
/-- The AIB that runs, replaced. -/
def State.setRun (s : State) (r : VpRun) : State := { s with ctx := { s.ctx with vp := some r } }
/-- A w register written, held with the AIB. -/
def State.ww (s : State) (r : VpRun) (d : WReg) (v : Half) : State :=
  s.setRun { r with st := { r.st with w := r.st.w.set d.val v d.isLt } }

/-- Forms on one, two and three w registers. -/
def vp1 (d a : WReg) (s : State) (f : VpRun → Half → Half) : Out :=
  onVp s fun r => .next (s.ww r d (f r (s.rw r a)))
def vp2 (d a b : WReg) (s : State) (f : VpRun → Half → Half → Half) : Out :=
  onVp s fun r => .next (s.ww r d (f r (s.rw r a) (s.rw r b)))

/-- A pattern of 32 bits. -/
def half (n : Nat) : Half := BitVec.ofNat 32 n
/-- Integer arithmetic of a VP: fitted under its `NCTL.SAT` (R160). -/
def vpInt (s : State) (ty : Ty) (f : Int → Int → Int) (x y : Half) : Half :=
  half (fitInt (satOf s.num.nctl) ty (f (intOf ty x.toNat) (intOf ty y.toNat)))
/-- The same without saturation. -/
def vpWrap (ty : Ty) (f : Int → Int → Int) (x y : Half) : Half :=
  half (wrapInt ty (f (intOf ty x.toNat) (intOf ty y.toNat)))
/-- A comparison of `f32` values (Table 7.4). -/
def vpCmp (s : State) (f : Fp → Fp → Bool) (x y : Half) : Half :=
  half (if f (fpIn s.num .f32 x.toNat) (fpIn s.num .f32 y.toNat) then 1 else 0)

/-- `wd ← wd + wa × latch l` (R162). -/
def vpMacLatch (d a : WReg) (l : LatchNo) (mode : Mode) (s : State) : Out :=
  onVp s fun r =>
    let src := s.ctx.vpSrc.getD r.st
    if src.hold.get l = false then operand s
    else .next (s.ww r d (half (fmaBits s.num mode r.vp .f32 .f32 (src.w.get a).toNat (src.latch.get l).toNat
      (src.w.get d).toNat)))
/-- Latch l ← wa, its hold bit set (R162). DESIGN CHOICE: of two slots of one pair that load one latch the low slot's value stays, for R133
speaks of registers only (log entry 76). -/
def vpLatch (a : WReg) (l : LatchNo) (s : State) : Out :=
  onVp s fun r => .next (s.setRun { r with st := { r.st with
    latch := r.st.latch.set l.val (s.rw r a) l.isLt, hold := r.st.hold.set l.val true l.isLt } })

/-- The address `n` words from the first word of the convoy (R123, R155). -/
def State.wordsAway {k : Nat} (s : State) (n : BitVec k) : Word := s.ctx.addr + n.signExtend 64 * 8

/-- The effect of a terminator, made when its AIB completes (R157). -/
def vpTerminate (t : VpTerm) (s : State) : Out := onVp s fun r => .next (s.setRun { r with term := some t })

/-- The tag a `wget` or `wput` needs (R163). -/
def vpTagOk (t : Ty) : Bool := t == .s32 || t == .z32 || t == .f32

/-- R159. -/
def execWmovR (d a : WReg) (s : State) : Out :=
  vp1 d a s fun _ x => x

/-- R160: operands are read as `s32`. -/
def execWaddiR (d : WReg) (imm : BitVec 14) (s : State) : Out :=
  vp1 d d s fun _ x => vpInt s .s32 (fun u _ => u + imm.toInt) x 0

/-- R160. -/
def execWaddR (d a : WReg) (s : State) : Out :=
  vp2 d d a s fun _ => vpInt s .s32 fun u v => u + v

/-- R160: rounded under the `NCTL` of the VP. -/
def execWfaddR (d a : WReg) (s : State) : Out :=
  vp2 d d a s fun r x y => half (faddBits s.num .ctl r.vp .f32 x.toNat y.toNat)

/-- R160. -/
def execWfmulR (d a : WReg) (s : State) : Out :=
  vp2 d d a s fun r x y => half (fmulBits s.num .ctl r.vp .f32 x.toNat y.toNat)

/-- R162. -/
def execWlatR (a : WReg) (l : LatchNo) (s : State) : Out :=
  vpLatch a l s

/-- R162. -/
def execWfmalR (d a : WReg) (l : LatchNo) (s : State) : Out :=
  vpMacLatch d a l .ctl s

/-- R157. -/
def execTfetchR (off : BitVec 14) (s : State) : Out :=
  vpTerminate (.goto (s.wordsAway off)) s

/-- R157. -/
def execTstopR  (s : State) : Out :=
  vpTerminate .stop s

/-- R157. -/
def execTfetch (off : BitVec 32) (s : State) : Out :=
  vpTerminate (.goto (s.wordsAway off)) s

/-- R157: `wa` is read after every earlier instruction of the AIB. -/
def execTfsel (a : WReg) (l1 l2 : BitVec 16) (s : State) : Out :=
  onVp s fun r => vpTerminate (.goto (s.wordsAway (if s.rw r a ≠ 0 then l1 else l2))) s

/-- R157. -/
def execTstop  (s : State) : Out :=
  vpTerminate .stop s

/-- R161. -/
def execWmov (d a : WReg) (s : State) : Out :=
  vp1 d a s fun _ x => x

/-- R160. -/
def execWadd (ty : Ty) (d a b : WReg) (s : State) : Out :=
  vp2 d a b s fun _ => vpInt s ty fun u v => u + v

/-- R160. -/
def execWsub (ty : Ty) (d a b : WReg) (s : State) : Out :=
  vp2 d a b s fun _ => vpInt s ty fun u v => u - v

/-- R160. -/
def execWmul (ty : Ty) (d a b : WReg) (s : State) : Out :=
  vp2 d a b s fun _ => vpInt s ty fun u v => u * v

/-- R161. -/
def execWand (d a b : WReg) (s : State) : Out :=
  vp2 d a b s fun _ x y => x &&& y

/-- R161. -/
def execWor (d a b : WReg) (s : State) : Out :=
  vp2 d a b s fun _ x y => x ||| y

/-- R161. -/
def execWxor (d a b : WReg) (s : State) : Out :=
  vp2 d a b s fun _ x y => x ^^^ y

/-- R161: the count is taken modulo 32. -/
def execWshl (d a b : WReg) (s : State) : Out :=
  vp2 d a b s fun _ x y => half (sllBits 32 x.toNat y.toNat)

/-- R161: the count is taken modulo 32. -/
def execWshr (d a b : WReg) (s : State) : Out :=
  vp2 d a b s fun _ x y => half (srlBits 32 x.toNat y.toNat)

/-- R161: the count is taken modulo 32. -/
def execWsra (d a b : WReg) (s : State) : Out :=
  vp2 d a b s fun _ x y => half (sraBits 32 x.toNat y.toNat)

/-- R161. -/
def execWmin (ty : Ty) (d a b : WReg) (s : State) : Out :=
  vp2 d a b s fun _ => vpWrap ty fun u v => if u ≤ v then u else v

/-- R161. -/
def execWmax (ty : Ty) (d a b : WReg) (s : State) : Out :=
  vp2 d a b s fun _ => vpWrap ty fun u v => if u ≤ v then v else u

/-- R161. -/
def execWseq (ty : Ty) (d a b : WReg) (s : State) : Out :=
  vp2 d a b s fun _ => vpWrap ty fun u v => if u = v then 1 else 0

/-- R161. -/
def execWslt (ty : Ty) (d a b : WReg) (s : State) : Out :=
  vp2 d a b s fun _ => vpWrap ty fun u v => if u < v then 1 else 0

/-- R161. -/
def execWfeq (d a b : WReg) (_mode : Mode) (s : State) : Out :=
  vp2 d a b s fun _ => vpCmp s fpEq

/-- R161. -/
def execWflt (d a b : WReg) (_mode : Mode) (s : State) : Out :=
  vp2 d a b s fun _ => vpCmp s fpLt

/-- R161. -/
def execWfle (d a b : WReg) (_mode : Mode) (s : State) : Out :=
  vp2 d a b s fun _ => vpCmp s (fpLe false)

/-- R161. -/
def execWsel (d a b c : WReg) (s : State) : Out :=
  onVp s fun r => .next (s.ww r d (if s.rw r c ≠ 0 then s.rw r a else s.rw r b))

/-- R161. -/
def execWfadd (d a b : WReg) (mode : Mode) (s : State) : Out :=
  vp2 d a b s fun r x y => half (faddBits s.num mode r.vp .f32 x.toNat y.toNat)

/-- R161. -/
def execWfsub (d a b : WReg) (mode : Mode) (s : State) : Out :=
  vp2 d a b s fun r x y => half (fsubBits s.num mode r.vp .f32 x.toNat y.toNat)

/-- R161. -/
def execWfmul (d a b : WReg) (mode : Mode) (s : State) : Out :=
  vp2 d a b s fun r x y => half (fmulBits s.num mode r.vp .f32 x.toNat y.toNat)

/-- R161. -/
def execWfma (d a b c : WReg) (mode : Mode) (s : State) : Out :=
  onVp s fun r => .next (s.ww r d (half (fmaBits s.num mode r.vp .f32 .f32 (s.rw r a).toNat (s.rw r b).toNat
    (s.rw r c).toNat)))

/-- R162. -/
def execWfmal (d a : WReg) (l : LatchNo) (mode : Mode) (s : State) : Out :=
  vpMacLatch d a l mode s

/-- R162: the latch takes the bits of `wa` unrounded. -/
def execWlat (a : WReg) (l : LatchNo) (_mode : Mode) (s : State) : Out :=
  vpLatch a l s

/-- R161. -/
def execWcvt (ty u : Ty) (d a : WReg) (mode : Mode) (s : State) : Out :=
  vp1 d a s fun r x => half (convBits s.num mode r.vp ty u x.toNat)

/-- R161: no rounding. -/
def execWfmin (d a b : WReg) (_mode : Mode) (s : State) : Out :=
  vp2 d a b s fun _ x y => half (fminBits s.num .f32 x.toNat y.toNat)

/-- R161: no rounding. -/
def execWfmax (d a b : WReg) (_mode : Mode) (s : State) : Out :=
  vp2 d a b s fun _ x y => half (fmaxBits s.num .f32 x.toNat y.toNat)

/-- R163: a `wput` earlier in the AIB is seen. -/
def execWget (d : WReg) (a : VSrc) (s : State) : Out :=
  onVp s fun r =>
    let v := s.rv a.reg
    if vpTagOk v.ty = false then .next (s.formatTrap a.reg)
    else
      match r.puts.find? fun p => p.1 == a.reg with
      | some p => .next (s.ww r d p.2)
      | none => .next (s.ww r d (half (elemGet v.data 32 r.vp)))

/-- R163: the write is held with the AIB. -/
def execWput (d : VReg) (a : WReg) (s : State) : Out :=
  onVp s fun r =>
    if vpTagOk (s.rv d).ty = false then .next (s.formatTrap d)
    else .next (s.setRun { r with puts := (d, s.rw r a) :: r.puts })

/-- R164. -/
def execWli (ty : Ty) (d : WReg) (imm : BitVec 16) (s : State) : Out :=
  onVp s fun r => .next (s.ww r d (half (immArith ty imm)))

/-- R160. -/
def execWaddi (ty : Ty) (d a : WReg) (imm : BitVec 16) (s : State) : Out :=
  vp1 d a s fun _ x => vpInt s ty (fun u v => u + v) x (half (immArith ty imm))

/-- R164: the immediate is zero-extended. -/
def execWandi (d a : WReg) (imm : BitVec 16) (s : State) : Out :=
  vp1 d a s fun _ x => x &&& imm.setWidth 32

/-- R164: the immediate is zero-extended. -/
def execWori (d a : WReg) (imm : BitVec 16) (s : State) : Out :=
  vp1 d a s fun _ x => x ||| imm.setWidth 32

/-- R164: the immediate is zero-extended. -/
def execWxori (d a : WReg) (imm : BitVec 16) (s : State) : Out :=
  vp1 d a s fun _ x => x ^^^ imm.setWidth 32

/-- R164. -/
def execWshli (d a : WReg) (n : BitVec 5) (s : State) : Out :=
  vp1 d a s fun _ x => half (sllBits 32 x.toNat n.toNat)

/-- R164. -/
def execWshri (d a : WReg) (n : BitVec 5) (s : State) : Out :=
  vp1 d a s fun _ x => half (srlBits 32 x.toNat n.toNat)

/-- R164. -/
def execWsrai (d a : WReg) (n : BitVec 5) (s : State) : Out :=
  vp1 d a s fun _ x => half (sraBits 32 x.toNat n.toNat)

/-- R164. -/
def execWseqi (ty : Ty) (d a : WReg) (imm : BitVec 16) (s : State) : Out :=
  vp1 d a s fun _ x => vpWrap ty (fun u v => if u = v then 1 else 0) x (half (immArith ty imm))

/-- R164. -/
def execWslti (ty : Ty) (d a : WReg) (imm : BitVec 16) (s : State) : Out :=
  vp1 d a s fun _ x => vpWrap ty (fun u v => if u < v then 1 else 0) x (half (immArith ty imm))

end Sys2Proof.Machine
end

