-- ==== Sys2Proof/Machine/Memory.lean ====
section
/-!
DEFINITION. Loads and stores (07_isa_control R142, R165, R166; 09_isa_memory R202 to R210).
-/

namespace Sys2Proof.Machine

/-- A scalar load (R202): the value extended by the sign of its type; it waits alone where it must (R302). -/
def loadX (s : State) (ty : Ty) (sp : Space) (d : XReg) (a : Word) : Out :=
  (s.lateBytes false sp .load a ty.size none).out fun bs s1 => .next (s1.wx d (xextBits ty (bytesVal bs)))

/-- A scalar store (R202): the low bytes of the register. -/
def storeX (s : State) (ty : Ty) (sp : Space) (v : XReg) (a : Word) : Out :=
  (s.writeBytes sp .store a (valBytes (s.rx v).toNat ty.size) none).out fun _ s1 => .next s1

/-- R142: 8 bytes of global memory at S + 8 × IMM14. -/
def execLdR (d a : XReg) (off : BitVec 14) (s : State) : Out :=
  onThread s <| loadX s .z64 .glob d (s.rx a + off.signExtend 64 * 8)

/-- R142. -/
def execStR (v a : XReg) (off : BitVec 14) (s : State) : Out :=
  onThread s <| storeX s .z64 .glob v (s.rx a + off.signExtend 64 * 8)

/-- R202. -/
def execLd (ty : Ty) (sp : Space) (d a : XReg) (off : BitVec 16) (s : State) : Out :=
  onThread s <| loadX s ty sp d (addOff (s.rx a) off)

/-- R202. -/
def execSt (ty : Ty) (sp : Space) (v a : XReg) (off : BitVec 16) (s : State) : Out :=
  onThread s <| storeX s ty sp v (addOff (s.rx a) off)

/-! ### Vector loads and stores -/

/-- The SPAN of a load from a buffer (R71, R308): the stamp of the KiB of its first byte, 0 where there is none. A load that waits has the one
found when it issued; it issues once no transfer that it waits for has still to stamp that KiB, for its convoy's checks need it (R42). -/
def loadSpan (s : State) (sp : Space) (a : Option Word) : Acc (BitVec 3) :=
  match s.ctx.queued.bind LateRun.span, a.bind fun w => s.dev.locate s.cur sp w 1 with
  | some span, _ => .ok span s
  | none, none => .ok 0 s
  | none, some l =>
    let span := (s.dev.cores.get l.core).stamp l.wb l.off
    if s.unstamped l ≠ [] then .stop (stall s)
    else .ok span { s with ctx := { s.ctx with queued := s.ctx.queued.map fun q => { q with span := some span } } }

/-- A vector load at an address for each element (R204, R205). -/
def loadV (s : State) (ty : Ty) (sp : Space) (m : MReg) (d : VReg) (w : Nat) (addr : Nat → Word) : Out :=
  let es := s.active m
  (Acc.collect (fun e s1 => State.loadElem s1 sp (addr e) ty.size e) es s).out fun vs s1 =>
    let v := (s1.thr.v.get d).write ty (es.zip vs)
    (loadSpan s1 sp (es.head?.map addr)).out fun span s2 =>
      .next (s2.finish (groupsOf s2.vl w) (s2.thr.setV d { v with span := span }))

/-- The granules a vector store covers whole are clear of poison (R439): the places its elements went to. -/
def State.afterStore (s : State) (sp : Space) (n : Nat) (addrs : List Word) : State :=
  if s.ctx.blocked then s
  else
    match sp with
    | .glob =>
      s.clearCovered (addrs.filterMap fun a =>
        match lookup s.dev s.viewer s.level .vecStore a with
        | .ok pa _ => some (pa, pa + n)
        | .fault .. => none) []
    | _ => s.clearCovered [] ((addrs.filterMap fun a => s.dev.locate s.cur sp a n).map fun l => (l, n))

/-- A vector store of a value for each element, in ascending order (R205, R207). -/
def storeV (s : State) (ty : Ty) (sp : Space) (m : MReg) (w : Nat) (addr val : Nat → Word) : Out :=
  let es := s.active m
  (Acc.each (fun e s1 => State.writeBytes s1 sp .vecStore (addr e) (valBytes (val e).toNat ty.size) (some e)) es s).out
    fun _ s1 =>
      let s2 := s1.afterStore sp ty.size (es.map addr)
      .next (s2.finish (groupsOf s2.vl w) s2.thr)

/-- Byte accesses of the `q4` forms, in the order of the elements they count as, a code byte before a scale byte (R209). -/
def q4Order (nb ns : Nat) : List (Nat × Bool × Nat) :=
  (upFrom 0 nb).flatMap fun i =>
    (2 * i, false, i) :: (if i % 16 = 0 ∧ i / 16 < ns then [(2 * i, true, i / 16)] else [])

/-- The `q4` load (R209). -/
def loadQ4 (s : State) (sp : Space) (d : VReg) (code scale : Word) : Out :=
  let vl := s.vl
  needOperand s (vl % 32 == 0) <|
    let nb := vl / 2
    let ns := vl / 32
    let order := q4Order nb ns
    let addr (p : Nat × Bool × Nat) : Word := (if p.2.1 then scale else code) + BitVec.ofNat 64 p.2.2
    (Acc.collect (fun p s1 => State.loadElem s1 sp (addr p) 1 p.1) order s).out fun vs s1 =>
      let got := order.zip vs
      let v := s1.thr.v.get d
      let put {n : Nat} (side : Bool) (b : BitVec n) : BitVec n :=
        got.foldl (fun b p => if p.1.2.1 == side then elemSet b 8 p.1.2.2 p.2 else b) b
      let some_ := decide (0 < nb)
      (loadSpan s1 sp (if some_ then some code else none)).out fun span s2 =>
        let v1 : VecReg := { v with
          data := put false v.data, side := put true v.side, ty := .q4, span := span
          dirty := v.dirty || some_, sdirty := v.sdirty || some_, hwm := max v.hwm nb }
        .next (s2.finish (groupsOf vl 4) (s2.thr.setV d v1))

/-- The `q4` store (R209). -/
def storeQ4 (s : State) (sp : Space) (r : VReg) (code scale : Word) : Out :=
  needTags s [(r, .q4)] <|
    let vl := s.vl
    needOperand s (vl % 32 == 0) <|
      let order := q4Order (vl / 2) (vl / 32)
      let v := s.rv r
      let addr (p : Nat × Bool × Nat) : Word := (if p.2.1 then scale else code) + BitVec.ofNat 64 p.2.2
      let val (p : Nat × Bool × Nat) : Byte := if p.2.1 then byteGet v.side p.2.2 else byteGet v.data p.2.2
      (Acc.each (fun p s1 => State.writeBytes s1 sp .vecStore (addr p) [val p] (some p.1)) order s).out fun _ s1 =>
        let s2 := s1.afterStore sp 1 (order.map addr)
        .next (s2.finish (groupsOf vl 4) s2.thr)

/-- The address of element `e` of a unit-stride and of a strided form (R204). -/
def unitAddr (s : State) (ty : Ty) (a : XReg) (off : BitVec 16) (e : Nat) : Word :=
  addOff (s.rx a) off + BitVec.ofNat 64 (e * ty.size)
def stridedAddr (s : State) (a b : XReg) (off : BitVec 16) (e : Nat) : Word :=
  addOff (s.rx a) off + BitVec.ofNat 64 e * s.rx b

/-- An index register: tagged `s32` or `z32` (R204). -/
def needIndex (s : State) (b : VReg) (k : Out) : Out :=
  if (s.rv b).ty = .s32 ∨ (s.rv b).ty = .z32 then k else .next (s.formatTrap b)
/-- An index as its tag reads it (R204). -/
def indexOf (s : State) (b : VReg) (e : Nat) : Word :=
  let v := s.rv b
  BitVec.ofInt 64 (intOf v.ty (v.elem .z32 e))
/-- The address of element `e` of an indexed form (R204). -/
def indexedAddr (s : State) (ty : Ty) (a : XReg) (b : VReg) (off : BitVec 16) (sc : Bool) (e : Nat) : Word :=
  addOff (s.rx a) off + indexOf s b e * BitVec.ofNat 64 (if sc then ty.size else 1)

/-- R203 to R206, R209. -/
def execVld (ty : Ty) (sp : Space) (m : MReg) (d : VReg) (a b : XReg) (off : BitVec 16) (s : State) : Out :=
  onVector s <|
    if ty = .q4 then loadQ4 s sp d (addOff (s.rx a) off) (s.rx b)
    else needEw s ty.bits <| loadV s ty sp m d ty.bits (unitAddr s ty a off)

/-- R203 to R207, R209. -/
def execVst (ty : Ty) (sp : Space) (m : MReg) (v : VReg) (a b : XReg) (off : BitVec 16) (s : State) : Out :=
  onVector s <|
    if ty = .q4 then storeQ4 s sp v (addOff (s.rx a) off) (s.rx b)
    else needTags s [(v, ty)] <| needEw s ty.bits <|
      storeV s ty sp m ty.bits (unitAddr s ty a off) fun e => BitVec.ofNat 64 ((s.rv v).elem ty e)

/-- R203 to R206. -/
def execVlds (ty : Ty) (sp : Space) (m : MReg) (d : VReg) (a b : XReg) (off : BitVec 16) (s : State) : Out :=
  onVector s <| needEw s ty.bits <| loadV s ty sp m d ty.bits (stridedAddr s a b off)

/-- R203 to R207. -/
def execVsts (ty : Ty) (sp : Space) (m : MReg) (v : VReg) (a b : XReg) (off : BitVec 16) (s : State) : Out :=
  onVector s <| needTags s [(v, ty)] <| needEw s ty.bits <|
    storeV s ty sp m ty.bits (stridedAddr s a b off) fun e => BitVec.ofNat 64 ((s.rv v).elem ty e)

/-- R203 to R206: `W` is 32. -/
def execVldx (ty : Ty) (sp : Space) (m : MReg) (d : VReg) (a : XReg) (b : VSrc) (off : BitVec 16) (sc : Bool) (s : State) : Out :=
  onVector s <| needIndex s b.reg <| needEw s 32 <| loadV s ty sp m d 32 (indexedAddr s ty a b.reg off sc)

/-- R203 to R207: `W` is 32. DESIGN CHOICE: of wrong tags of both registers the trap names the stored one (R168; log entry 99). -/
def execVstx (ty : Ty) (sp : Space) (m : MReg) (v : VReg) (a : XReg) (b : VSrc) (off : BitVec 16) (sc : Bool) (s : State) : Out :=
  onVector s <| needTags s [(v, ty)] <| needIndex s b.reg <| needEw s 32 <|
    storeV s ty sp m 32 (indexedAddr s ty a b.reg off sc) fun e => BitVec.ofNat 64 ((s.rv v).elem ty e)

/-- The fields of the active records of a segment form, in order: record, field, address (R210). -/
def segFields (s : State) (u : Ty) (m : MReg) (a : XReg) (n : Nat) : List (Nat × Nat × Word) :=
  (s.active m).flatMap fun e => (upFrom 0 n).map fun f => (e, f, s.rx a + BitVec.ofNat 64 ((e * n + f) * u.size))

/-- R210: field f of record e into element e of register d + f, converted. -/
def execVldseg (ty u : Ty) (sp : Space) (m : MReg) (d : VReg) (a : XReg) (n1 : BitVec 3) (mode : Mode) (s : State) : Out :=
  onVector s <| needEw s ty.bits <|
    let n := n1.toNat + 1
    let fs := segFields s u m a n
    (Acc.collect (fun p s1 => State.loadElem s1 sp p.2.2 u.size p.1) fs s).out fun vs s1 =>
      let got := fs.zip vs
      let put (t : Thread) (f : Nat) : Thread :=
        let r : VReg := Fin.ofNat 32 (d.val + f)
        t.setV r ((t.v.get r).write ty ((got.filter fun p => p.1.2.1 == f).map fun p =>
          (p.1.1, convOrCopy s.num mode p.1.1 ty u p.2)))
      .next (s1.finish (groupsOf s1.vl ty.bits) ((upFrom 0 n).foldl put s1.thr))

/-- R210: element e of register v + f into field f of record e, converted. -/
def execVstseg (ty u : Ty) (sp : Space) (m : MReg) (v : VReg) (a : XReg) (n1 : BitVec 3) (mode : Mode) (s : State) : Out :=
  let n := n1.toNat + 1
  let reg (f : Nat) : VReg := Fin.ofNat 32 (v.val + f)
  onVector s <| needTags s ((upFrom 0 n).map fun f => (reg f, ty)) <| needEw s ty.bits <|
    let fs := segFields s u m a n
    let val (p : Nat × Nat × Word) : Nat := convOrCopy s.num mode p.1 u ty ((s.rv (reg p.2.1)).elem ty p.1)
    (Acc.each (fun p s1 => State.writeBytes s1 sp .vecStore p.2.2 (valBytes (val p) u.size) (some p.1)) fs s).out fun _ s1 =>
      let s2 := s1.afterStore sp u.size (fs.map fun p => p.2.2)
      .next (s2.finish (groupsOf s2.vl ty.bits) s2.thr)

/-! ### Virtual processors -/

/-- The address of `wld` and `wst` (R165). -/
def vpAddr (s : State) (r : VpRun) (a : WReg) (off : BitVec 16) : Word := addOff ((s.rw r a).setWidth 64) off
/-- The place in the VP's own core's buffer, where the access is one R165 allows; a retired core's buffers are unreachable (R23; log entry
86). -/
def vpPlace (s : State) (sp : Space) (a : Word) (n : Nat) : Option Local :=
  let wb := sp == .wb
  if a.toNat % n = 0 ∧ a.toNat + n ≤ (if wb then wbSize else abSize) ∧ s.dev.isRetired s.cur = false then some ⟨s.cur, wb, a.toNat⟩
  else none

/-- A byte under the stores an AIB holds: the latest one to it (R159, R166). -/
def heldByte (l : List HeldStore) (off : Nat) (b : Byte) : Byte :=
  l.foldl (fun b h => if h.addr ≤ off ∧ off < h.addr + h.n then BitVec.ofNat 8 (h.v.toNat / 256 ^ (off - h.addr)) else b) b

/-- R165, R166. -/
def execWld (ty : Ty) (d a : WReg) (off : BitVec 16) (sp : Space) (s : State) : Out :=
  onVp s fun r =>
    let n := ty.size
    let ad := vpAddr s r a off
    match vpPlace s sp ad n with
    | none => .next (s.trap cAddress ad)
    | some l =>
      (s.settle false ⟨l.bufNo, l.off, l.off + n⟩).out fun _ s1 =>
        if s1.dev.localPoisoned l n then .next (s1.trap cMemErr ad)
        else
          let bs := s1.dev.localBytes l n
          let bs1 := if l.wb then bs else (bs.zipIdx).map fun p => heldByte r.stores (l.off + p.2) p.1
          .next (s1.ww r d (BitVec.ofInt 32 (intOf ty (bytesVal bs1))))

/-- R165: the store is held with the AIB. -/
def execWst (ty : Ty) (v a : WReg) (off : BitVec 16) (s : State) : Out :=
  onVp s fun r =>
    let n := ty.size
    let ad := vpAddr s r a off
    match vpPlace s .ab ad n with
    | none => .next (s.trap cAddress ad)
    | some l =>
      (s.settle true ⟨l.bufNo, l.off, l.off + n⟩).out fun _ s1 =>
        .next (s1.setRun { r with stores := r.stores ++ [{ addr := l.off, n := n, v := s.rw r v }] })

end Sys2Proof.Machine
end

