-- ==== Sys2Proof/Machine/Atomic.lean ====
section
/-!
DEFINITION. Atomics and memory reductions (09_isa_memory R211 to R214), executed at the home slice of their address as they
commit; the scopes of Table 13.2, and what an order releases (13_ordering R324, R325, R329, R338). Every access is visible to every agent
at once here, which every order and every scope allows (log entry 2).
-/

namespace Sys2Proof.Machine

/-! ### Scopes and orders -/

/-- The agents of the memory model (R323, R324). -/
inductive Agent
  | thread (c : CoreNo)
  | vp (c : CoreNo) (v : Nat)
  | transfer (c : CoreNo) (k : Chan)
  | cmp
  | host
  | remote
  deriving DecidableEq, Repr

/-- The core an agent is on. -/
def Agent.core : Agent → Option CoreNo
  | .thread c => some c
  | .vp c _ => some c
  | .transfer c _ => some c
  | _ => none

/-- Whether the thread on a core shares a group with that on another (R33). -/
def Device.sameGroup (d : Device) (c o : CoreNo) : Bool :=
  (d.cores.get c).launch == (d.cores.get o).launch && d.shares c (d.cores.get c).thr.tid.toNat (d.cores.get o).thr.tid.toNat

/-- Whether a scope, as an agent names it, includes another agent (Table 13.2). -/
def Device.inScope (d : Device) (t : Agent) (sc : Scope) (a : Agent) : Bool :=
  let near (f : CoreNo → CoreNo → Bool) : Bool := match t.core, a.core with | some c, some o => f c o | _, _ => false
  match sc with
  | .system => true
  | .device => a != .host && a != .remote
  | .quarter => near fun c o => quarterOf c == quarterOf o
  | .group => near fun c o => c == o || d.sameGroup c o
  | .core => near fun c o => c == o
  | .vp =>
    match t, a with
    | .vp c v, .vp o w => c == o && v / 16 % 64 == w / 16 % 64
    | _, _ => t == a

/-- Whether a release by `t` at scope `r` and an acquire by `u` at scope `q` can synchronise the two (R325). -/
def Device.canSync (d : Device) (t : Agent) (r : Scope) (u : Agent) (q : Scope) : Bool := d.inScope t r u && d.inScope u q t

/-- The release part of an order (R329, R338). -/
def State.releaseFor (s : State) (ord : Order) : State :=
  match ord with
  | .rel | .ar => s.released
  | .relaxed | .acq => s

/-- An instruction of an order: what its release part orders has come first. -/
def onOrder (ord : Order) (s : State) (k : Out) : Out :=
  match ord with
  | .rel | .ar => onReleased s k
  | .relaxed | .acq => k

/-! ### Atomics -/

/-- An atomic at a place checked before: its value, and the state it leaves. -/
def amoAt (s : State) (op : AmoOp) (ty : Ty) (pa : Nat) (b cmp : Word) : State × Word :=
  let r := s.dev.homeOp s.agent s.num (.amo op ty pa b cmp)
  ({ s with dev := r.1.onCore s.cur fun c => c.touch pa }, r.2)

/-- The checks of one access that reads and writes global memory (R200, R410, R439). -/
def State.rmwAt (s : State) (a : Word) (n : Nat) (e : Option Nat) : Acc Phys :=
  (s.globalAt .rmw a n e).bind fun ph s1 =>
    if s1.lateMeets ⟨0, ph.pa, ph.pa + n⟩ then .stop (stall s1)
    else (s1.settle true ⟨0, a.toNat, a.toNat + n⟩).bind fun _ s2 =>
      if physPoisoned s2.dev ph a.toNat n then .stop (.next (s2.trapAt cMemErr a e)) else .ok ph s2

/-- R212: the old value goes to `d`; with `x0` it is a memory reduction. -/
def atomic (op : AmoOp) (ty : Ty) (ord : Order) (d a : XReg) (b cmp : Word) (s : State) : Out :=
  onThread s <|
    (s.rmwAt (s.rx a) ty.size none).out fun ph s1 => onOrder ord s1 <|
      let r := amoAt (s1.releaseFor ord) op ty ph.pa b cmp
      .next (r.1.wx d r.2)

/-- R211, R212. -/
def execAmoadd (ty : Ty) (ord : Order) (_scope : Scope) (d a b : XReg) (s : State) : Out :=
  atomic .add ty ord d a (s.rx b) 0 s

/-- R211, R212. -/
def execAmomin (ty : Ty) (ord : Order) (_scope : Scope) (d a b : XReg) (s : State) : Out :=
  atomic .min ty ord d a (s.rx b) 0 s

/-- R211, R212. -/
def execAmomax (ty : Ty) (ord : Order) (_scope : Scope) (d a b : XReg) (s : State) : Out :=
  atomic .max ty ord d a (s.rx b) 0 s

/-- R211, R212. -/
def execAmoand (ty : Ty) (ord : Order) (_scope : Scope) (d a b : XReg) (s : State) : Out :=
  atomic .and ty ord d a (s.rx b) 0 s

/-- R211, R212. -/
def execAmoor (ty : Ty) (ord : Order) (_scope : Scope) (d a b : XReg) (s : State) : Out :=
  atomic .or ty ord d a (s.rx b) 0 s

/-- R211, R212. -/
def execAmoxor (ty : Ty) (ord : Order) (_scope : Scope) (d a b : XReg) (s : State) : Out :=
  atomic .xor ty ord d a (s.rx b) 0 s

/-- R211, R212. -/
def execAmoswap (ty : Ty) (ord : Order) (_scope : Scope) (d a b : XReg) (s : State) : Out :=
  atomic .swap ty ord d a (s.rx b) 0 s

/-- R211, R212: the operand is stored where the old value equals `c` at the width of the type. -/
def execAmocas (ty : Ty) (ord : Order) (_scope : Scope) (d a b c : XReg) (s : State) : Out :=
  atomic .cas ty ord d a (s.rx b) (s.rx c) s

/-- R211, R212: rounded by RNE, never flushed. The old value returns as an `f32` pattern, upper half zero (R144). -/
def execAmofadd (ord : Order) (_scope : Scope) (d a b : XReg) (s : State) : Out :=
  atomic .fadd .f32 ord d a (s.rx b) 0 s

/-- The update of a `vredm` (R213). -/
def redOpOf (op : RedOp) (ty : Ty) : AmoOp :=
  match op with
  | .add => if ty = .f32 then .fadd else .add
  | .min => if ty = .f32 then .fmin else .min
  | .max => if ty = .f32 then .fmax else .max
  | .and => .and
  | .or => .or
  | .xor => .xor

/-- One reduction of a `vredm` (R213): checked as any access that reads and writes; one that must wait does so in the queue. -/
def State.reduceAt (s : State) (a : Word) (e : Nat) (f : Phys → State → State) : Acc Unit :=
  (s.globalAt .rmw a 4 (some e)).bind fun ph s1 =>
    let t : Touch := { spot := .glob ph, addr := a, n := 4, read := true, write := true }
    if s1.behind || s1.lateMeets t.place then s1.defers t
    else
      match s1.settled true t.named with
      | (false, s2) => s2.defers t
      | (true, s2) =>
        if physPoisoned s2.dev ph a.toNat 4 then (if s2.inTurn then s2.defers t else .stop (.next (s2.trapAt cMemErr a (some e))))
        else .ok () (if s2.trial then s2.await t else f ph s2)

/-- R213: a memory reduction for each active element, in ascending order. -/
def execVredm (op : RedOp) (ty : Ty) (_scope : Scope) (m : MReg) (a : XReg) (b c : VSrc) (s : State) : Out :=
  onVector s <| needIndex s b.reg <| needTags s [(c.reg, ty)] <| needEw s 32 <|
    (Acc.each (fun e s1 =>
      State.reduceAt s1 (s.rx a + indexOf s b.reg e) e fun ph s2 =>
        (amoAt s2 (redOpOf op ty) ty ph.pa (BitVec.ofNat 64 ((s.rv c.reg).elem ty e)) 0).1) (s.active m) s).out
      fun _ s1 => .next (s1.finish (groupsOf s1.vl 32) s1.thr)

end Sys2Proof.Machine
end

