-- ==== Sys2Proof/Machine/Stream.lean ====
section
/-!
DEFINITION. Streams and fibres (11_isa_coordinate R267 to R279, R287): the stream image, the walk of an encoding from the cursor,
offending coordinates, seeks, and the instructions of stream registers. A cursor that stands behind the last coordinate of a
block or a pair is moved to the place of the next coordinate where the image is written (R267).
-/

namespace Sys2Proof.Machine

/-- A stream register. -/
def Thread.stream (t : Thread) (j : SReg) : Stream := t.streams.get j
def Thread.setStream (t : Thread) (j : SReg) (st : Stream) : Thread := { t with streams := t.streams.set j.val st j.isLt }

/-- The number of elements of an affine or an indirect stream, or of the units of a fibre (Table 11.1). -/
def Stream.count (st : Stream) : Nat := if st.kind = 2 then st.opc.toNat else st.opb.toNat

/-- The cursor at the first element (R271). -/
def Stream.rewind (st : Stream) : Stream := { st with pos := 0, unit := 0, sub := 0, last := 0, lv := false }

/-- The next coordinate of a fibre, and UNIT and SUB once it is consumed. -/
structure Next where
  c : Int
  unit : Nat
  sub : Nat
  deriving DecidableEq, Repr

/-- Consuming a coordinate (R275). -/
def Stream.consume (st : Stream) (n : Next) : Stream :=
  { st with
    pos := st.pos + 1, unit := BitVec.ofNat 32 n.unit, sub := BitVec.ofNat 32 n.sub, last := BitVec.ofInt 32 n.c, lv := true }

/-- A read of a stream's array (R269): `e` is the element a fault records (R287). For `cxclaim` it is no vector read (R410). -/
def State.streamRead (s : State) (sp : Space) (a : Word) (n e : Nat) (acc : AccKind := .vecRead) : Acc Nat := s.vecElem sp a n e acc

/-- Four bytes at any address, as an escape of `delta8` holds them (Table 11.4). -/
def State.streamRead4 (s : State) (sp : Space) (a : Word) (e : Nat) (acc : AccKind := .vecRead) : Acc Nat :=
  (Acc.collect (fun i s1 => State.streamRead s1 sp (a + BitVec.ofNat 64 i) 1 e acc) (upFrom 0 4) s).bind fun bs s1 =>
    .ok (bytesVal (bs.map (BitVec.ofNat 8))) s1

/-- The lowest set bit of a map at or above bit `k`, of `n` bits left. -/
def nextBit (m : Nat) : Nat → Nat → Option Nat
  | 0, _ => none
  | n + 1, k => if m / 2 ^ k % 2 = 1 then some k else nextBit m n (k + 1)

/-- The map of a `bmp` block (Table 11.4). -/
def State.blockMap (s : State) (sp : Space) (a : Word) (e : Nat) (acc : AccKind := .vecRead) : Acc Nat :=
  (Acc.collect (fun i s1 => State.streamRead s1 sp (a + BitVec.ofNat 64 (4 + 4 * i)) 4 e acc) (upFrom 0 16) s).bind fun ws s1 =>
    .ok (ws.zipIdx.foldl (fun m p => m + p.1 * 2 ^ (32 * p.2)) 0) s1

/-- The next coordinate of a `bmp` fibre from block `u`, bit `b`, with `n` blocks left. -/
def nextBmp (acc : AccKind) (st : Stream) (e : Nat) : Nat → Nat → Nat → State → Acc (Option Next)
  | 0, _, _, s => .ok none s
  | n + 1, u, b, s =>
    let a := st.opa + BitVec.ofNat 64 (68 * u)
    (s.streamRead st.spa a 4 e acc).bind fun base s1 =>
      (s1.blockMap st.spa a e acc).bind fun m s2 =>
        match nextBit m (512 - b) b with
        | some k => .ok (some ⟨base + k, u, k + 1⟩) s2
        | none => nextBmp acc st e n (u + 1) 0 s2

/-- The next coordinate of a `run` fibre from pair `u`, offset `o`, with `n` pairs left. -/
def nextRun (acc : AccKind) (st : Stream) (e : Nat) : Nat → Nat → Nat → State → Acc (Option Next)
  | 0, _, _, s => .ok none s
  | n + 1, u, o, s =>
    let a := st.opa + BitVec.ofNat 64 (8 * u)
    (s.streamRead st.spa a 4 e acc).bind fun start s1 =>
      (s1.streamRead st.spa (a + 4) 4 e acc).bind fun len s2 =>
        if o < len then .ok (some ⟨start + o, u, o + 1⟩) s2 else nextRun acc st e n (u + 1) 0 s2

/-- The coordinate at the cursor of a fibre (R274, Table 11.4); none at its end. -/
def State.peek (s : State) (st : Stream) (e : Nat) (acc : AccKind := .vecRead) : Acc (Option Next) :=
  let u := st.unit.toNat
  let left := st.opb.toNat - u
  let index (size : Nat) : Acc (Option Next) :=
    if left = 0 then .ok none s
    else (s.streamRead st.spa (st.opa + BitVec.ofNat 64 (size * u)) size e acc).bind fun c s1 => .ok (some ⟨c, u + 1, 0⟩) s1
  match st.enc with
  | .idx16 => index 2
  | .idx32 => index 4
  | .delta8 =>
    if st.opb.toNat ≤ st.pos.toNat then .ok none s
    else
      let a := st.opa + BitVec.ofNat 64 u
      (s.streamRead st.spa a 1 e acc).bind fun b s1 =>
        if b = 0xFF then (s1.streamRead4 st.spa (a + 1) e acc).bind fun c s2 => .ok (some ⟨c, u + 5, 0⟩) s2
        else .ok (some ⟨(if st.lv then (st.last.toNat : Int) else -1) + b, u + 1, 0⟩) s1
  | .bmp => nextBmp acc st e left u st.sub.toNat s
  | .run => nextRun acc st e left u st.sub.toNat s

/-- The trap of an offending coordinate (R275). -/
def Stream.offending (st : Stream) (n : Next) : Option (BitVec 8) :=
  if n.c < 0 ∨ 2 ^ 32 ≤ n.c then some cUnsorted
  else if st.lv && decide (n.c = st.last.toNat) then some cDuplicate
  else if st.lv && decide (n.c < st.last.toNat) then some cUnsorted
  else none

/-- The trap value of R275: the position, and the side. -/
def offendTval (st : Stream) (side : Bool) : Word := (if side then 1#32 else 0#32) ++ st.pos

/-- The most coordinates a walk can pass. -/
def walkMax : Nat := 2 ^ 66

/-- A fibre's cursor moved on by up to `n` coordinates, whatever their order (R278). DESIGN CHOICE: over a coordinate outside 0 to 2^32 − 1,
LAST is that modulo 2^32 (log entry 101). -/
def walkBy (acc : AccKind) (e : Nat) : Nat → Stream → State → Acc Stream
  | 0, st, s => .ok st s
  | n + 1, st, s =>
    (s.peek st e acc).bind fun x s1 =>
      match x with
      | none => .ok st s1
      | some nx => walkBy acc e n (st.consume nx) s1

/-- A fibre's cursor at position `n`, or at its end (R278). An index encoding is read at the coordinate before it alone. -/
def State.seekPos (s : State) (st : Stream) (n : Nat) (acc : AccKind := .vecRead) : Acc Stream :=
  match st.enc with
  | .idx16 | .idx32 =>
    let p := min n st.opb.toNat
    if p = 0 then .ok st.rewind s
    else
      let at_ : Stream := { st.rewind with pos := BitVec.ofNat 32 (p - 1), unit := BitVec.ofNat 32 (p - 1) }
      walkBy acc 0 1 at_ s
  | _ => walkBy acc 0 (min n walkMax) st.rewind s

/-- A fibre's cursor at the first coordinate that is at least `x`, or on an offending one before it (R278). -/
def walkTo (x : Nat) : Nat → Stream → State → Acc Stream
  | 0, st, s => .ok st s
  | n + 1, st, s =>
    (s.peek st 0).bind fun y s1 =>
      match y with
      | none => .ok st s1
      | some nx =>
        if (st.offending nx).isSome || decide ((x : Int) ≤ nx.c) then .ok st s1 else walkTo x n (st.consume nx) s1

def State.seekCoord (s : State) (st : Stream) (x : Nat) : Acc Stream := walkTo x walkMax st.rewind s

/-- The cursor at the place of the next coordinate, where that can be read, at the level that opened the stream (Table 11.1). -/
def State.atNext (s : State) (st : Stream) (acc : AccKind := .vecRead) : Stream :=
  let full : Stream := if st.enc = .bmp ∧ st.sub = 512 then { st with unit := st.unit + 1, sub := 0 } else st
  if st.kind ≠ 3 ∨ (st.enc ≠ .bmp ∧ st.enc ≠ .run) then st
  else
    match (s.setCore { s.core with pl := st.lvl }).peek st 0 acc with
    | .ok (some nx) _ => { st with unit := BitVec.ofNat 32 nx.unit, sub := BitVec.ofNat 32 (nx.sub - 1) }
    | .ok none _ => { st with unit := st.opb.setWidth 32, sub := 0 }
    | .stop _ => full

/-- The codes of Table 11.4 and of R127. -/
def fibCode : FibEnc → BitVec 3
  | .idx16 => 0 | .idx32 => 1 | .delta8 => 2 | .bmp => 3 | .run => 4
def spaceCode : Space → BitVec 2
  | .glob => 0 | .ab => 1 | .wb => 2

/-- The FLAGS word (R267). -/
def Stream.flags (st : Stream) : Half :=
  0#14 ++ BitVec.ofBool st.vb ++ BitVec.ofBool st.bnd ++ BitVec.ofBool st.lv ++ BitVec.ofBool st.iw16 ++ spaceCode st.spb ++
    spaceCode st.spa ++ st.ty.code ++ fibCode st.enc ++ BitVec.ofNat 2 st.kind

/-- The stream image (Table 11.1). -/
def Stream.image (st : Stream) : List Byte :=
  if st.kind = 0 then List.replicate 48 0
  else
    valBytes st.opa.toNat 8 ++ valBytes st.opb.toNat 8 ++ valBytes st.opc.toNat 8 ++ valBytes st.pos.toNat 4 ++
      valBytes st.unit.toNat 4 ++ valBytes st.sub.toNat 4 ++ valBytes st.last.toNat 4 ++ valBytes st.flags.toNat 4 ++
      List.replicate 4 0

/-- A stream from its image. -/
def streamOf (b : List Byte) : Stream :=
  let f := BitVec.ofNat 32 (fieldAt b 40 4)
  let half (o : Nat) : Half := BitVec.ofNat 32 (fieldAt b o 4)
  let word (o : Nat) : Word := BitVec.ofNat 64 (fieldAt b o 8)
  { kind := (f.extractLsb' 0 2).toNat, opa := word 0, opb := word 8, opc := word 16
    pos := half 24, unit := half 28, sub := half 32, last := half 36
    enc := FibEnc.ofCode (f.extractLsb' 2 3), ty := Ty.ofCode (f.extractLsb' 5 5)
    spa := Space.ofCode (f.extractLsb' 10 2), spb := Space.ofCode (f.extractLsb' 12 2)
    iw16 := f.getLsbD 14, lv := f.getLsbD 15, bnd := f.getLsbD 16, vb := f.getLsbD 17 }

/-! ### The coordinate engine's pair -/

/-- The engine becomes unbound; the registers of its pair stay open with BND clear (R271, R279, R280). -/
def Thread.unbind (t : Thread) : Thread :=
  if t.cde.bound then
    let free (t : Thread) (j : SReg) : Thread := t.setStream j { t.stream j with bnd := false }
    { (free (free t t.cde.sa) t.cde.sb) with cde := {} }
  else t

/-! ### Instructions -/

/-- A register opened with a new image (R271): a bound register unbinds the engine first. -/
def openStream (s : State) (j : SReg) (st : Stream) (count : Word) (checks : List (Word × Nat)) : Out :=
  needOperand s (decide (count.toNat < 2 ^ 32)) <|
    match checks.find? fun p => p.1.toNat % p.2 != 0 with
    | some p => .next (s.trapAt cAddress p.1 none)
    | none =>
      let t := if (s.thr.stream j).bnd then s.thr.unbind else s.thr
      .next (s.finish 1 (t.setStream j { st with lvl := s.level }))

/-- R270, R271, R272. -/
def execSopenAff (ty : Ty) (sp : Space) (j : SReg) (a b c : XReg) (s : State) : Out :=
  onVector s <|
    openStream s j { kind := 1, opa := s.rx a, opb := s.rx b, opc := s.rx c, ty := ty, spa := sp } (s.rx b) [(s.rx a, ty.size)]

/-- R270, R271, R272. -/
def execSopenInd (ty : Ty) (vsp isp : Space) (iw16 : Bool) (j : SReg) (a b c : XReg) (s : State) : Out :=
  onVector s <|
    openStream s j
      { kind := 2, opa := s.rx a, opb := s.rx b, opc := s.rx c, ty := ty, spa := vsp, spb := isp, iw16 := iw16 } (s.rx c)
      [(s.rx a, ty.size), (s.rx b, if iw16 then 2 else 4)]

/-- The alignment of a fibre's units (Table 11.4). -/
def fibAlign : FibEnc → Nat
  | .idx16 => 2 | .idx32 => 4 | .delta8 => 1 | .bmp => 4 | .run => 4

/-- R270, R271, R274. -/
def execSopenFib (ty : Ty) (isp vsp : Space) (enc : FibEnc) (j : SReg) (a b c : XReg) (s : State) : Out :=
  onVector s <|
    openStream s j
      { kind := 3, opa := s.rx a, opb := s.rx b, opc := s.rx c, enc := enc, ty := ty, spa := isp, spb := vsp, vb := c != 0 }
      (s.rx b) ((s.rx a, fibAlign enc) :: (if c = 0 then [] else [(s.rx c, ty.size)]))

/-- A register open and not bound to the engine (R276 to R278). -/
def needOpen (s : State) (j : SReg) (k : Stream → Out) : Out :=
  let st := s.thr.stream j
  if st.kind = 0 ∨ st.bnd = true then operand s else k st

/-- Element `i` of an affine or an indirect stream, delivered as element `e` (R272). -/
def State.streamElem (s : State) (st : Stream) (i e : Nat) : Acc Nat :=
  let n := st.ty.size
  if st.kind = 1 then s.loadElem st.spa (st.opa + BitVec.ofNat 64 i * st.opc) n e
  else
    let w := if st.iw16 then 2 else 4
    (s.streamRead st.spb (st.opb + BitVec.ofNat 64 (w * i)) w e).bind fun j s1 =>
      s1.loadElem st.spa (st.opa + BitVec.ofNat 64 (n * j)) n e

/-- Up to `n` coordinates of a fibre from element `e` on, each with its value where values are read (R275, R276). The coordinates are needed at
once, for its checks and its count; a value that must wait does so in its lane (R206, R302). -/
def fibreBatch (vals : Bool) : Nat → Nat → Stream → State → Acc (List (Nat × Nat) × Stream)
  | 0, _, st, s => .ok ([], st) s
  | n + 1, e, st, s =>
    (s.peek st e).bind fun x s1 =>
      match x with
      | none => .ok ([], st) s1
      | some nx =>
        match st.offending nx with
        | some code => if e = 0 then .trap s1 code (offendTval st false) else .ok ([], st) s1
        | none =>
          (if vals then s1.loadElem st.spb (st.opc + BitVec.ofNat 64 (st.ty.size * st.pos.toNat)) st.ty.size e else .ok 0 s1).bind
            fun v s2 =>
              (fibreBatch vals n (e + 1) (st.consume nx) s2).bind fun r s3 => .ok ((nx.c.toNat, v) :: r.1, r.2) s3

/-- Elements 0 up of a register (R276). -/
def VecReg.writeFrom0 (v : VecReg) (t : Ty) (l : List Nat) : VecReg := v.write t (l.zipIdx.map fun p => (p.2, p.1))

/-- R276. -/
def execSnext (d : VReg) (ve : Option VReg) (j : SReg) (b : XReg) (s : State) : Out :=
  onVector s <| needOpen s j fun st =>
    let fib := decide (st.kind = 3)
    let w := max (if fib then 32 else st.ty.bits) (if ve.isSome then st.ty.bits else 0)
    needOperand s (ve.isNone || (fib && st.vb)) <| needEw s w <|
      if fib then
        (fibreBatch ve.isSome s.vl 0 st s).out fun r s1 =>
          let t := s1.thr
          let t1 := t.setV d ((t.v.get d).writeFrom0 .z32 (r.1.map Prod.fst))
          let t2 := match ve with
            | some q => t1.setV q ((t1.v.get q).writeFrom0 st.ty (r.1.map Prod.snd))
            | none => t1
          .next ((s1.finish (groupsOf s.vl w) (t2.setStream j r.2)).wx b (BitVec.ofNat 64 r.1.length))
      else
        let k := min s.vl (st.count - st.pos.toNat)
        (Acc.collect (fun e s1 => State.streamElem s1 st (st.pos.toNat + e) e) (upFrom 0 k) s).out fun l s1 =>
          let t := s1.thr.setV d ((s1.thr.v.get d).writeFrom0 st.ty l)
          .next ((s1.finish (groupsOf s.vl w) (t.setStream j { st with pos := st.pos + BitVec.ofNat 32 k })).wx b (BitVec.ofNat 64 k))

/-- How many of the next `n` coordinates come before an offending one (R277). -/
def goodAhead : Nat → Stream → State → Acc Nat
  | 0, _, s => .ok 0 s
  | n + 1, st, s =>
    (s.peek st 0).bind fun x s1 =>
      match x with
      | none => .ok 0 s1
      | some nx =>
        if (st.offending nx).isSome then .ok 0 s1
        else (goodAhead n (st.consume nx) s1).bind fun k s2 => .ok (k + 1) s2

/-- Whether a fibre is ended (R267): one of an indexed encoding or of `delta8` by its count alone, any other where no coordinate follows. -/
def State.fibreEnded (s : State) (st : Stream) : Acc Bool :=
  match st.enc with
  | .idx16 | .idx32 => .ok (decide (st.opb.toNat ≤ st.unit.toNat)) s
  | .delta8 => .ok (decide (st.opb.toNat ≤ st.pos.toNat)) s
  | .bmp | .run => (s.peek st 0).bind fun x s1 => .ok x.isNone s1

/-- R277: no array is read further than the result and the mask need. -/
def execSdone (d : XReg) (md : MReg) (j : SReg) (s : State) : Out :=
  onVector s <| needOpen s j fun st =>
    let vl := s.vl
    let answer (ended : Bool) (n : Nat) (s1 : State) : Out :=
      let t := if md = 0 then s1.thr else s1.thr.setMask md ((upFrom 0 vl).map fun e => (e, decide (n < e + 1)))
      .next ((s1.finish 1 t).wx d (boolWord ended))
    if st.kind = 3 then
      (s.fibreEnded st).out fun ended s1 =>
        (if md = 0 then Acc.ok 0 s1 else goodAhead vl st s1).out fun n s2 => answer ended n s2
    else answer (decide (st.count ≤ st.pos.toNat)) (st.count - st.pos.toNat) s

/-- R278. -/
def execSseek (coord : Bool) (j : SReg) (b : XReg) (s : State) : Out :=
  onVector s <| needOpen s j fun st =>
    let x := (s.rx b).toNat
    let put (st1 : Stream) (s1 : State) : Out := .next (s1.finish 1 (s1.thr.setStream j st1))
    if st.kind = 3 then
      (if coord then s.seekCoord st (x % 2 ^ 32) else s.seekPos st x).out put
    else if coord then operand s
    else put { st with pos := BitVec.ofNat 32 (min x st.count) } s

/-- R279. -/
def execSclose (j : SReg) (s : State) : Out :=
  onVector s <|
    let t := if (s.thr.stream j).bnd then s.thr.unbind else s.thr
    .next (s.finish 1 (t.setStream j {}))

end Sys2Proof.Machine
end

