-- ==== Sys2Proof/Machine/Cde.lean ====
section
/-!
DEFINITION. The coordinate engine (11_isa_coordinate R280 to R287): opening, batches of pairs, segments and claims, status, and the
engine image.
-/

namespace Sys2Proof.Machine

/-- An instruction that needs a bound engine. -/
def needEngine (s : State) (k : Cde → Out) : Out := if s.thr.cde.bound then k s.thr.cde else operand s

/-- R280. -/
def execCxopen (union tol : Bool) (sj sk : SReg) (s : State) : Out :=
  onVector s <|
    needOperand s (decide ((s.thr.stream sj).kind = 3 ∧ (s.thr.stream sk).kind = 3 ∧ sj ≠ sk)) <|
      let bind (t : Thread) (j : SReg) : Thread := t.setStream j { t.stream j with bnd := true }
      let t := bind (bind s.thr.unbind sj) sk
      .next (s.finish 1 { t with cde := { bound := true, union := union, tol := tol, sa := sj, sb := sk } })

/-! ### Segments -/

/-- The coordinate of a fibre at a position; none where there is none (R282). -/
def State.coordAt (s : State) (st : Stream) (n : Nat) : Acc (Option Int) :=
  let at_ : Acc Stream :=
    match st.enc with
    | .idx16 | .idx32 =>
      let p := BitVec.ofNat 32 (min n st.opb.toNat)
      .ok { st.rewind with pos := p, unit := p } s
    | _ => s.seekPos st n
  at_.bind fun st1 s1 =>
    if st1.pos.toNat < n then .ok none s1 else (s1.peek st1 0).bind fun x s2 => .ok (x.map Next.c) s2

/-- lo(s) of the segments of fibre A; none is ∞ (R282). -/
def State.segLow (s : State) (a : Stream) (t seg : Nat) : Acc (Option Int) :=
  if seg = 0 then .ok (some 0) s else s.coordAt a (t * seg)

/-- SegEnd() (R282). -/
def State.segEnd (s : State) (e : Cde) (a : Stream) : Acc (Option Int) :=
  if e.t = 0 then .ok none s
  else s.segLow a e.t.toNat ((if e.claimed then e.seg.toNat else a.pos.toNat / e.t.toNat) + 1)

/-! ### Batches -/

/-- The pair of streams and the engine as a batch goes on. -/
structure Pair where
  e : Cde
  a : Stream
  b : Stream
  deriving DecidableEq, Repr

/-- Coordinates equal to LAST consumed and counted (R281): their number is added up. -/
def skipEqual : Nat → Stream → Nat → State → Acc (Stream × Nat)
  | 0, st, k, s => .ok (st, k) s
  | n + 1, st, k, s =>
    (s.peek st 0).bind fun x s1 =>
      match x with
      | some nx => if st.lv && decide (nx.c = st.last.toNat) then skipEqual n (st.consume nx) (k + 1) s1 else .ok (st, k) s1
      | none => .ok (st, k) s1

/-- SkipEqual of a side. -/
def State.skipSide (s : State) (p : Pair) (side : Bool) : Acc Pair :=
  (skipEqual walkMax (if side then p.b else p.a) 0 s).bind fun r s1 =>
    let e := p.e
    .ok (if side then { p with b := r.1, e := { e with dupb := e.dupb + BitVec.ofNat 32 r.2 } }
      else { p with a := r.1, e := { e with dupa := e.dupa + BitVec.ofNat 32 r.2 } }) s1

/-- Advance of a side (R281): its coordinate consumed, then with TOL its duplicates. -/
def State.advanceSide (s : State) (p : Pair) (side : Bool) (n : Next) : Acc Pair :=
  let p1 : Pair := if side then { p with b := p.b.consume n } else { p with a := p.a.consume n }
  if p.e.tol then s.skipSide p1 side else .ok p1 s

/-- Advance of a side, where it is to. -/
def State.advanceIf (s : State) (p : Pair) (side on : Bool) (n : Option Next) : Acc Pair :=
  match n with
  | some nx => if on then s.advanceSide p side nx else .ok p s
  | none => .ok p s

/-- Whether a coordinate is at or above an end; none is ∞. -/
def atOrAbove (c : Int) (hi : Option Int) : Bool := match hi with | some h => decide (h ≤ c) | none => false

/-- Whether the cursor coordinate of either side is offending. -/
def Pair.offends (p : Pair) (x y : Option Next) : Bool :=
  (match x with | some n => (p.a.offending n).isSome | none => false) ||
    (match y with | some n => (p.b.offending n).isSome | none => false)

/-- An emitted pair: coordinate, A position, B position (R281). -/
abbrev Emitted := Nat × Half × Half

/-- The loop of R281: `left` pairs may still be emitted, `out` are those emitted, latest first. DESIGN CHOICE: where nothing is emitted and
`SegEnd()` has not changed, which is so of a fibre that is not sorted, the batch ends with 0 (log entry 91). -/
def cxLoop : Nat → Nat → Option Int → Pair → List Emitted → State → Acc (Pair × List Emitted)
  | 0, _, _, p, out, s => .ok (p, out) s
  | _ + 1, 0, _, p, out, s => .ok (p, out) s
  | f + 1, left + 1, hi, p, out, s =>
    (s.peek p.a 0).bind fun x s1 => (s1.peek p.b 0).bind fun y s2 =>
      let lead : Option Int :=
        match x, y with
        | some m, some n => some (if p.e.union && decide (n.c < m.c) then n.c else m.c)
        | some m, none => if p.e.union then some m.c else none
        | none, some n => if p.e.union then some n.c else none
        | none, none => none
      match lead with
      | none => .ok (p, out) s2
      | some c =>
        if atOrAbove c hi then
          (if !out.isEmpty || p.e.claimed then .ok (p, out) s2
          else (s2.segEnd p.e p.a).bind fun h s3 =>
            if h = hi then .ok (p, out) s3 else cxLoop f (left + 1) h p out s3)
        else
          let hasA := x.any fun m => decide (m.c = c)
          let hasB := y.any fun n => decide (n.c = c)
          let both := hasA && hasB
          let lower := match x, y with | some m, some n => decide (n.c < m.c) | _, _ => false
          let emits := p.e.union || both
          let moveA := if p.e.union || both then hasA else !lower
          let moveB := if p.e.union || both then hasB else lower
          let out1 : List Emitted :=
            if emits then (c.toNat, if hasA then p.a.pos else BitVec.allOnes 32, if hasB then p.b.pos else BitVec.allOnes 32) :: out
            else out
          (s2.advanceIf p false moveA x).bind fun p1 s3 => (s3.advanceIf p1 true moveB y).bind fun p2 s4 =>
            (s4.peek p2.a 0).bind fun x2 s5 => (s5.peek p2.b 0).bind fun y2 s6 =>
              if p2.offends x2 y2 then .ok (p2, out1) s6
              else cxLoop f (if emits then left else left + 1) hi p2 out1 s6

/-- SeekSegment (R283), where a claim is pending. -/
def State.seekSegment (s : State) (p : Pair) : Acc Pair :=
  if p.e.pending then
    let seg := p.e.seg.toNat
    let t := p.e.t.toNat
    (s.segLow p.a t seg).bind fun lo s1 =>
      (s1.seekPos p.a (t * seg)).bind fun a s2 =>
        (match lo with
          | some c => s2.seekCoord p.b c.toNat
          | none => s2.seekCoord p.b (2 ^ 32)).bind fun b s3 =>
            .ok { p with a := a, b := b, e := { p.e with pending := false } } s3
  else .ok p s

/-- The trap of an offending coordinate at the start of a batch: A before B (R281). -/
def State.checkSide (s : State) (st : Stream) (side : Bool) : Acc Unit :=
  (s.peek st 0).bind fun x s1 =>
    match x.bind st.offending with
    | some code => .trap s1 code (offendTval st side)
    | none => .ok () s1

/-- The pair of a bound engine. -/
def Thread.pair (t : Thread) : Pair := { e := t.cde, a := t.stream t.cde.sa, b := t.stream t.cde.sb }
def Thread.setPair (t : Thread) (p : Pair) : Thread :=
  { ((t.setStream p.e.sa p.a).setStream p.e.sb p.b) with cde := p.e }

/-- R281. DESIGN CHOICE: at VL = 0 it queues one element-group operation, where `snext` and `dmov` queue none (R47; log entry 87). -/
def execCxnext (d : XReg) (vc va vb : VReg) (s : State) : Out :=
  onVector s <| needEw s 32 <| needEngine s fun e =>
    let put (t : Thread) (v : VReg) (l : List Nat) : Thread := t.setV v ((t.v.get v).writeFrom0 .z32 l)
    if s.vl = 0 then .next ((s.finishBarrier 1 (put (put (put s.thr vc []) va []) vb [])).wx d 0)
    else
      let p := s.thr.pair
      (if e.tol then (s.skipSide p false).bind fun p1 s1 => s1.skipSide p1 true else .ok p s).out fun p1 s1 =>
      (s1.seekSegment p1).out fun p2 s2 =>
      (s2.checkSide p2.a false).out fun _ s3 => (s3.checkSide p2.b true).out fun _ s4 =>
      (s4.segEnd p2.e p2.a).out fun hi s5 =>
      (cxLoop walkMax s5.vl hi p2 [] s5).out fun r s6 =>
        let l := r.2.reverse
        let k := l.length
        let e1 := r.1.e
        let t := s6.thr.setPair { r.1 with e := { e1 with emitted := e1.emitted + BitVec.ofNat 32 k } }
        let t1 := put (put (put t vc (l.map fun x => x.1)) va (l.map fun x => x.2.1.toNat)) vb (l.map fun x => x.2.2.toNat)
        .next ((s6.finishBarrier (groupsOf s.vl 32) (t1.setVl k)).wx d (BitVec.ofNat 64 k))

/-- R282. -/
def execCxsplit (a : XReg) (s : State) : Out :=
  onVector s <| needEngine s fun e =>
    let x := s.rx a
    needOperand s (decide (x.toNat < 2 ^ 32) && !(x != 0 && e.tol)) <|
      .next (s.finish 1 { s.thr with cde := { e with t := x.setWidth 32, claimed := false, pending := false, seg := 0 } })

/-- A fibre's cursor at its end (R283); its reads are no vector reads (R410). DESIGN CHOICE: a fault of one records element 0 in `VSTART`
(R287; log entry 92). -/
def State.seekEnd (s : State) (st : Stream) : Acc Stream :=
  (s.seekPos st walkMax .block).bind fun st1 s1 => .ok (s1.atNext st1 .block) s1

/-- R283: one step of the home slice, then the engine takes the segment, or both fibres end. -/
def execCxclaim (_scope : Scope) (d a : XReg) (s : State) : Out :=
  onThread s <| needEngine s fun e => needOperand s (e.t != 0) <|
    (s.rmwAt (s.rx a) 16 none).out fun ph s1 =>
      let r := s1.dev.homeOp s1.agent s1.num (.claim ph.pa e.t)
      let s2 := { s1 with dev := r.1.onCore s1.cur fun c => c.touch ph.pa }
      if r.2.toNat < 2 ^ 32 then
        .next ((s2.setThr { s2.thr with cde := { e with claimed := true, pending := true, seg := r.2.setWidth 32 } }).wx d r.2)
      else
        let p := s2.thr.pair
        (s2.seekEnd p.a).out fun x s3 => (s3.seekEnd p.b).out fun y s4 =>
          .next ((s4.setThr (s4.thr.setPair { a := x, b := y, e := { e with claimed := true, pending := false } })).wx d r.2)

/-- MODE of the engine part (Table 11.5). -/
def Cde.mode (e : Cde) : BitVec 8 :=
  0#3 ++ BitVec.ofBool e.pending ++ BitVec.ofBool e.claimed ++ BitVec.ofBool e.tol ++ BitVec.ofBool e.union ++ BitVec.ofBool e.bound

/-- R285. -/
def execCxstat (d : XReg) (sel : BitVec 3) (s : State) : Out :=
  onVector s <|
    let p := s.thr.pair
    let e := p.e
    let v : Half :=
      if !e.bound then 0
      else match sel.toNat with
        | 0 => e.emitted
        | 1 => e.dupa
        | 2 => e.dupb
        | 3 => p.a.pos
        | 4 => p.b.pos
        | 5 => if e.claimed then e.seg else if e.t = 0 then 0 else p.a.pos / e.t
        | 6 => e.t
        | _ => e.mode.setWidth 32
    .next ((s.finish 1 s.thr).wx d (v.setWidth 64))

/-! ### The engine image -/

/-- The engine part (Table 11.5). -/
def Cde.image (e : Cde) : List Byte :=
  [e.mode, BitVec.ofNat 8 e.sa.val, BitVec.ofNat 8 e.sb.val, 0] ++ valBytes e.t.toNat 4 ++ valBytes e.seg.toNat 4 ++
    valBytes e.emitted.toNat 4 ++ valBytes e.dupa.toNat 4 ++ valBytes e.dupb.toNat 4 ++ List.replicate 8 0

/-- An engine part from its image. -/
def cdeOf (b : List Byte) : Cde :=
  let m : BitVec 8 := BitVec.ofNat 8 (fieldAt b 0 1)
  let half (o : Nat) : Half := BitVec.ofNat 32 (fieldAt b o 4)
  { bound := m.getLsbD 0, union := m.getLsbD 1, tol := m.getLsbD 2, claimed := m.getLsbD 3, pending := m.getLsbD 4
    sa := Fin.ofNat 8 (fieldAt b 1 1), sb := Fin.ofNat 8 (fieldAt b 2 1)
    t := half 4, seg := half 8, emitted := half 12, dupa := half 16, dupb := half 20 }

/-- R286. -/
def execCxsave (sp : Space) (a : XReg) (s : State) : Out :=
  onVector s <|
    let ad := s.rx a
    if ad.toNat % 64 ≠ 0 then .next (s.trapAt cAddress ad (some 0))
    else needEngine s fun e =>
      let p := s.thr.pair
      let img := (s.atNext p.a).image ++ (s.atNext p.b).image ++ e.image
      (s.writeBytes sp .vecStore ad (img.take 64) (some 0)).out fun _ s1 =>
        (s1.writeBytes sp .vecStore (ad + 64) (img.drop 64) (some 0)).out fun _ s2 =>
          let s3 := s2.afterStore sp 64 [ad, ad + 64]
          .next (s3.finish 1 s3.thr)

/-- Whether the cursor of a fibre image is one its encoding can have (R286, Table 11.4). -/
def cursorOk (st : Stream) : Bool :=
  let pos := st.pos.toNat
  let u := st.unit.toNat
  let n := st.opb.toNat
  let atEnd := u != n || st.sub == 0
  (st.lv == decide (0 < pos)) && (st.lv || st.last == 0) && decide (n < 2 ^ 32) &&
    (match st.enc with
      | .idx16 => u == pos && st.sub == 0 && decide (pos ≤ n ∧ st.last.toNat < 65536)
      | .idx32 => u == pos && st.sub == 0 && decide (pos ≤ n)
      | .delta8 => st.sub == 0 && decide (pos ≤ n ∧ pos ≤ u ∧ u ≤ 5 * pos ∧ (u - pos) % 4 = 0)
      | .bmp => decide (st.sub.toNat < 512 ∧ u ≤ n ∧ pos ≤ 512 * u + st.sub.toNat) && atEnd
      | .run => decide (u ≤ n ∧ st.sub.toNat ≤ pos ∧ (u = 0 → pos = st.sub.toNat)) && atEnd)

/-- Whether a stream image is a fibre with its zero fields zero (R267, R286). -/
def fibreFieldsOk (b : List Byte) : Bool :=
  let st := streamOf b
  let f := fieldAt b 40 4
  let code := f / 32 % 32
  st.kind == 3 && decide (f / 2 ^ 18 = 0) && zeroAt b 44 4 && !st.iw16 && decide (f / 4 % 8 ≤ 4)
    && decide (f / 1024 % 4 ≠ 3 ∧ f / 4096 % 4 ≠ 3) && (if st.vb then convCode code else code == 0 && f / 4096 % 4 == 0)
    && cursorOk st

/-- Whether it is one bound to the engine (R286). -/
def fibreImageOk (b : List Byte) : Bool := fibreFieldsOk b && (streamOf b).bnd

/-- The checks of R286 on an engine image. -/
def engineImageOk (b : List Byte) : Bool :=
  let e := b.drop 96
  let m := fieldAt e 0 1
  m % 2 == 1 && decide (m < 32) && decide (fieldAt e 1 1 < 8 ∧ fieldAt e 2 1 < 8) && fieldAt e 1 1 != fieldAt e 2 1
    && zeroAt e 3 1 && zeroAt e 24 8 && fibreImageOk (b.take 48) && fibreImageOk ((b.drop 48).take 48)

/-- Half of an engine image, its bytes read as by a vector load of the thread (R238, R269); no view serves it (R410). DESIGN CHOICE: its address
must be 64-aligned, as that of a `cxsave` (R286; log entry 102). -/
def State.imageHalf (s : State) (sp : Space) (a : Word) : Acc (List Byte) :=
  if sp = .glob ∧ s.level = 0 ∧ ((upFrom 0 64).any fun i => linkStalls s.thr (a.toNat + i) 1) = true then
    (s.spotAt sp .load a 64 (some 0)).bind fun _ s1 => .stop (stall s1)
  else s.readBytes sp .load a 64 (some 0)

/-- R286. -/
def execCxload (sp : Space) (a : XReg) (s : State) : Out :=
  onVector s <|
    (s.imageHalf sp (s.rx a)).out fun x s1 => (s1.imageHalf sp (s.rx a + 64)).out fun y s2 =>
      let b := x ++ y
      needOperand s2 (engineImageOk b) <|
        let at_ (b : List Byte) : Stream := { streamOf b with lvl := s.level }
        .next (s2.finish 1 (s2.thr.unbind.setPair { e := cdeOf (b.drop 96), a := at_ b, b := at_ (b.drop 48) }))

end Sys2Proof.Machine
end

