-- ==== Sys2Proof/Machine/Sync.lean ====
section
/-!
DEFINITION. Fences, drains, waits, watches, barriers, watermarks and arrival words (09_isa_memory R215 to R227, R236 to R239), and
the lane-aligned exchange `vxch` (08_isa_vector R193, R194). A waiting instruction (R219) completes when its condition holds; when
it does not, the convoy waits: nothing of it is kept but an arrival, which is made once (Convoy.lean), and it runs again.
-/

namespace Sys2Proof.Machine

/-- The waiting instruction that runs has completed. -/
def State.waited (s : State) : State := s.setCore { s.core with wait := none }
/-- The convoy waits for a condition. -/
def State.pend (s : State) (c : WaitCond) : State := s.stopAt (.wait c) s.restHere
/-- A barrier has completed with a status: its convoy commits, whatever comes (R225, R226). -/
def State.passed (s : State) (d : XReg) (v : Word) : State :=
  let s1 := s.waited.wx d v
  let r : Rest := { s.restAfter with sent := true }
  let s2 : State := { s1 with ctx := { s1.ctx with sent := true } }
  if r.words.isEmpty then s2 else { s2 with base := (s1.setCore (s1.core.setSplit (some r))).dev }

/-- R216: the scalar-unit accesses before it come first, loads that still wait among them (R302). -/
def execFence (_scope : Scope) (s : State) : Out := onThread s <| onReleased s <| .next s.released

/-- R217: every access of an earlier instruction has been performed with its convoy, but those that wait in the vector queue; a scalar load that
waits there stands before the vector accesses after the drain (R328). -/
def execVdrain (s : State) : Out := onThread s <| onLate (fun e => e.loads || e.stores) s <| .next s
/-- R217: the drain of loads. -/
def execVdrainl (s : State) : Out := onThread s <| onLate Late.loads s <| .next s
/-- R217: the drain of stores. -/
def execVdrains (s : State) : Out := onThread s <| onLate Late.stores s <| .next s

/-- R220: completes once GEN differs. -/
def execWaitArr (d a b : XReg) (s : State) : Out :=
  onThread s <|
    let ad := s.rx a
    (s.readBytes .ab .load ad 16 none).out fun bs s1 =>
      let gen := BitVec.ofNat 32 (fieldAt bs 8 4)
      let x : Half := (s.rx b).setWidth 32
      if gen ≠ x then .next ((s1.waited).wx d (gen.setWidth 64))
      else .next (s1.pend (.arr ad.toNat x))

/-- The interval of a `wait.w` that polls a device register (R221): 64 at first. -/
def pollInterval (w : Option Wait) : Nat :=
  match w with
  | some (.waiting (.polled _ _ n)) => n
  | _ => 64

/-- R220, R221: completes once the dword differs, or when the last interval of a polled page has passed. -/
def execWaitW (sp : Space) (d a b : XReg) (s : State) : Out :=
  onThread s <|
    let ad := s.rx a
    let x := s.rx b
    (s.readBytes sp .waitLoad ad 8 none).out fun bs s1 =>
      let v := BitVec.ofNat 64 (bytesVal bs)
      let polled := match sp, lookup s1.dev s1.viewer s1.core.pl .waitLoad ad with
        | .glob, .ok pa _ => isDevReg pa
        | _, _ => false
      let n := pollInterval s.core.wait
      if v ≠ x ∨ (polled = true ∧ n = 0) then .next ((s1.waited).wx d v)
      else if polled then .next (s1.pend (.polled ad.toNat x n))
      else .next (s1.pend (.word sp ad.toNat x))

/-- R223: the mask of the fired entries, which are disarmed. -/
def execWaitWatch (d : XReg) (s : State) : Out :=
  onThread s <|
    let ws := s.thr.watches
    if ws.isEmpty then .next ((s.waited).wx d (BitVec.allOnes 64))
    else if ws.any (·.fired) then
      let mask := (ws.filter (·.fired)).foldl (fun (m : Word) w => m ||| (1#64 <<< w.no)) 0
      .next (((s.setThr { s.thr with watches := ws.filter fun w => !w.fired }).waited).wx d mask)
    else .next (s.pend .watch)

/-- The watch entries the other cores of a quarter hold (R222). -/
def Device.watchesOf (d : Device) (c : CoreNo) : Nat :=
  ((List.finRange 192).filter fun o => quarterOf o == quarterOf c && o != c).foldl
    (fun n o => n + (d.cores.get o).thr.watches.length) 0

/-- R222: only the elements that arm an entry are accesses (R410). -/
def execVwatch (m : MReg) (d a : XReg) (b : VSrc) (s : State) : Out :=
  onVector s <| needIndex s b.reg <| needEw s 32 <|
    let room := min 64 (1024 - s.dev.watchesOf s.cur)
    (Acc.collect (fun e s1 =>
      (State.globalAt s1 .watch (s.rx a + indexOf s b.reg e) 8 (some e)).bind fun ph s2 => .ok ph.pa s2) ((s.active m).take room) s).out
      fun pas s1 =>
        let ws : List Watch := pas.zipIdx.map fun p => { no := p.2, addr := p.1 }
        .next ((s1.finishBarrier (groupsOf s1.vl 32) { s1.thr with watches := ws }).wx d (BitVec.ofNat 64 pas.length))

/-- The result of a barrier (R224). -/
def barrierResult (gen : Half) (st : Nat) : Word := gen ++ BitVec.ofNat 32 st

/-- R224, R225. -/
def execGsync (d a : XReg) (s : State) : Out :=
  onThread s <|
    let g := (s.rx a).toNat % 256
    match s.core.wait with
    | some (.waiting (.gsync _ gen (some st))) => .next (s.passed d (barrierResult gen st))
    | some (.waiting (.gsync g' gen none)) => .next (s.pend (.gsync g' gen none))
    | _ =>
      match (s.dev.launchOn s.cur).bind fun l => l.groups.find? fun e => e.num == g with
      | some e =>
        if e.used && e.has s.thr.tid.toNat && g != 255 then onReleased s <| .next (s.pend (.gsync g e.gen none)) else operand s
      | none => operand s

/-- R224, R226. -/
def execGsyncW (d a : XReg) (s : State) : Out :=
  onThread s <|
    match s.core.wait with
    | some (.waiting (.gsyncW _ gen (some st))) => .next (s.passed d (barrierResult gen st))
    | some (.waiting (.gsyncW pa gen none)) => .next (s.pend (.gsyncW pa gen none))
    | _ => (s.rmwAt (s.rx a) 16 none).out fun ph s1 => onReleased s1 <| .next (s1.pend (.gsyncW ph.pa 0 none))

/-- R237: once it has waited as `vdrains` does, the mark rises, and reaches the consumers of a producer link. -/
def execWmpub (k : LinkNo) (a : XReg) (s : State) : Out :=
  onThread s <| onLate Late.stores s <|
    let l := s.thr.lw.get k
    let m := maxMark l.mark ((s.rx a).setWidth 63)
    let s1 := (s.setThr { s.thr with lw := s.thr.lw.set k.val { l with mark := m } k.isLt }).released
    if l.en && l.role == 1 then
      match s1.dev.launchOn s1.cur with
      | some c => .next { s1 with dev := s1.dev.deliverMark c l.chan m }
      | none => .next s1
    else .next s1

/-- TOTAL and COUNT of an arrival word armed; the value is its GEN (R239, R319). -/
def armWord (s : State) (ad : Word) (total : Half) : Acc Half :=
  (s.readBytes .ab .load ad 16 none).bind fun bs s1 =>
    (s1.localAt .ab ad 16 none).bind fun l s2 =>
      (s2.settle true ⟨l.bufNo, l.off, l.off + 16⟩).bind fun _ s3 =>
        .ok (BitVec.ofNat 32 (fieldAt bs 8 4)) (s3.putLocal l (valBytes total.toNat 4 ++ valBytes 0 4))

/-- R239. -/
def execAarm (d a b : XReg) (s : State) : Out :=
  onThread s <| (armWord s (s.rx a) ((s.rx b).setWidth 32)).out fun gen s1 => .next (s1.wx d (gen.setWidth 64))

/-! ### Exchange -/

/-- How many exchanges a thread has completed that name a peer in a group (R194). -/
def exchangeNo (t : Thread) (p g : Nat) : Nat :=
  match t.xchgNo.find? fun e => e.1 == (p, g) with
  | some e => e.2
  | none => 0
/-- One more. -/
def countExchange (t : Thread) (p g : Nat) : Thread :=
  { t with xchgNo := t.xchgNo.filter (fun e => e.1 != (p, g)) ++ [((p, g), exchangeNo t p g + 1)] }

/-- The elements below `vl` of a register that takes those offered (R194). -/
def takeOffered (v : VecReg) (ty : Ty) (vl : Nat) (data : BitVec 65536) : VecReg :=
  v.write ty ((upFrom 0 vl).map fun e => (e, elemGet data ty.bits e))

/-- The exchange a thread waits in matches that of its peer (R194): each takes the other's elements, or both must trap. -/
def Device.pairExchange (d : Device) (c : CoreNo) : Device :=
  let t := (d.cores.get c).thr
  match t.xchg with
  | none => d
  | some x =>
    match d.sibling c x.peer with
    | none => d
    | some o =>
      match (d.cores.get o).thr.xchg with
      | none => d
      | some y =>
        if y.peer = t.tid.toNat ∧ y.group = x.group ∧ y.ord = x.ord ∧ (x.failed || y.failed || x.got.isSome || y.got.isSome) = false then
          let give (e : Device) (p : CoreNo) (z w : Exchange) : Device := e.onCore p fun u => { u with thr := { u.thr with
            xchg := some (if x.ty = y.ty ∧ x.vl = y.vl then { z with got := some w.data } else { z with failed := true }) } }
          give (give d c x y) o y x
        else d

/-- An offer is made: it stays until it has paired or failed (R194, R195). DESIGN CHOICE: one that the thread has left behind unpaired is dropped,
and its ordinal is free again; one that had paired has been counted (log entry 94). -/
def State.offer (s : State) (x : Exchange) : State :=
  let t := match s.thr.xchg with
    | some o => if o.got.isSome then countExchange s.thr o.peer o.group else s.thr
    | none => s.thr
  let s1 := s.setThr { t with xchg := some { x with ord := exchangeNo t x.peer x.group } }
  { s1 with dev := s1.dev.pairExchange s1.cur }

/-- The exchange a thread waits in has failed: it traps, and is counted and kept no more (R194). -/
def exchangeTrap (s : State) : Out :=
  operand { s with base := s.base.onCore s.cur fun c => { c with thr := { c.thr with xchg := none } } }

/-- R193, R194: the offer is made once every other instruction of the convoy has passed its checks; the convoy commits once it has paired, and is
discarded where it fails. DESIGN CHOICE: one of a handler waits while one of the thread below is not complete (log entry 94). -/
def execVxch (ty : Ty) (d : VReg) (a : VSrc) (b c : XReg) (s : State) : Out :=
  onVector s <| needTags s [(a.reg, ty)] <| needEw s ty.bits <|
    let p := (s.rx b).toNat
    let g := (s.rx c).toNat % 256
    let me := s.thr.tid.toNat
    let v := s.rv a.reg
    let done (s : State) (t : Thread) (ty : Ty) (vl : Nat) (data : BitVec 65536) : Out :=
      .next (s.finishBarrier (groupsOf vl ty.bits) (t.setV d (takeOffered (t.v.get d) ty vl data)))
    match s.dev.launchOn s.cur with
    | none => operand s
    | some l =>
      if !(l.groups.any fun e => e.num == g && e.used && e.has me && e.has p && p < 192) then operand s
      else if p = me then done s s.thr ty s.vl v.data
      else
        let fresh : Exchange :=
          { peer := p, group := g, ord := 0, ty := ty, vl := s.vl, vd := d, va := a.reg, data := v.data
            saved := ((s.base.cores.get s.cur).thr.v.get a.reg).data == v.data, pc := s.core.pc, pl := s.core.pl }
        let begin_ : Out :=
          if l.endedThreads.contains p || (s.dev.sibling s.cur p).isNone then operand s
          else if s.ctx.stop.isSome then .next s
          else .next (s.pend (.exchange (some fresh)))
        match s.thr.xchg with
        | none => begin_
        | some x =>
          if x.pl = s.core.pl ∧ x.pc = s.core.pc ∧ x.peer = p ∧ x.group = g then
            if x.failed then exchangeTrap s
            else
              match x.got with
              | none => .next (if s.ctx.stop.isSome then s else s.pend (.exchange none))
              | some data =>
                let s1 := s.waited
                done { s1 with ctx := { s1.ctx with sent := true } } { (countExchange s1.thr p g) with xchg := none } x.ty x.vl data
          else if x.pl ≠ s.core.pl ∧ l.endedThreads.contains p = false then stall s
          else begin_

end Sys2Proof.Machine
end

