-- ==== Sys2Proof/Machine/Copy.lean ====
section
/-!
DEFINITION. The instructions of the copy engine (12_isa_copy R312 to R320): shadow registers, launches, waits, cancellation, arrival
words and the export of compressed metadata.
-/

namespace Sys2Proof.Machine

/-- The bits of a shadow register, 2 to 28, that are not RSV (R291 to R294). -/
def shadowMask (reg : Nat) : Word :=
  match reg with
  | 23 => 0x1FFFFF
  | 26 => 0x1FFFF
  | 27 => 0x7
  | 28 => 0xFFFFFF1
  | _ => BitVec.allOnes 64

/-- A shadow register of a channel written. -/
def Thread.setShadow (t : Thread) (k : Chan) (reg : Nat) (v : Word) : Thread :=
  let r := t.shadow.get k
  { t with shadow := t.shadow.set k.val (r.set (Fin.ofNat 29 reg).val v (Fin.ofNat 29 reg).isLt) k.isLt }

/-- R313. -/
def execCpset (k : Chan) (reg : BitVec 5) (sp : Space) (a : XReg) (s : State) : Out :=
  onThread s <|
    let x := s.rx a
    let r := reg.toNat
    if r < 2 then
      needOperand s (x.extractLsb' 57 7 == 0) <|
        let code : Word := match sp with | .glob => 0 | .ab => 1 | .wb => 2
        .next (s.setThr (s.thr.setShadow k r (x ||| (code <<< 57))))
    else .next (s.setThr (s.thr.setShadow k r (x &&& shadowMask r)))

/-- R314. -/
def execCpget (d : XReg) (k : Chan) (reg : BitVec 5) (s : State) : Out :=
  onThread s <| .next (s.wx d ((s.thr.shadow.get k).get (Fin.ofNat 29 reg.toNat)))

/-- R298, R299, R315: the result is the transfer's id, or the reason of the refusal. -/
def execCplaunch (d : XReg) (k : Chan) (s : State) : Out :=
  onThread s <|
    match launchRefusal s.dev s.cur s.thr k with
    | some reason => .next (s.wx d (0xFFFFFFFFFFFFFF00 ||| BitVec.ofNat 64 reason))
    | none =>
      let r := s.dev.startTransfer s.cur k s.num
      .next (({ s with dev := r.1 }).wx d (xferId k r.2))

/-- R316. -/
def execCpwait (d a : XReg) (s : State) : Out :=
  onThread s <|
    let x := s.rx a
    let k : Chan := Fin.ofNat 16 (x.extractLsb' 24 4).toNat
    let q : BitVec 24 := x.extractLsb' 0 24
    needOperand s (x.extractLsb' 28 36 == 0 && q != 0) <|
      if q ≠ s.thr.seqNo.get k then .next ((s.waited).wx d 3)
      else if (s.thr.transfers.get k).isSome then .next (s.pend (.copy k q))
      else .next ((s.waited).wx d ((s.thr.cpStatus.get k).setWidth 64))

/-- R317. -/
def execCpwm (d : XReg) (k : Chan) (a : XReg) (s : State) : Out :=
  onThread s <|
    let x := s.rx a
    let w := s.thr.wm.get k
    if x.toNat ≤ w.toNat ∨ (s.thr.transfers.get k).isNone = true then .next ((s.waited).wx d w)
    else .next (s.pend (.mark k x))

/-- R318. -/
def execCpcancel (k : Chan) (s : State) : Out :=
  onThread s <|
    if (s.thr.transfers.get k).isSome then .next { s with dev := s.dev.endTransfer s.cur k 1 } else .next s

/-- R319. -/
def execCparm (d : XReg) (k : Chan) (a b : XReg) (s : State) : Out :=
  onThread s <|
    let ad := s.rx a
    (armWord s ad ((s.rx b).setWidth 32)).out fun gen s1 =>
      .next ((s1.setThr (s1.thr.setShadow k 28 ((ad &&& 0xFFFFFF0) ||| 1))).wx d (gen.setWidth 64))

/-- The access that `cpexport` makes of a page (R320): any kind of page answers it, one of device registers as a load. -/
def exportAcc (s : State) (x : Word) : AccKind :=
  match lookup s.dev s.core s.level .cpeSrc x with
  | .fault 3 _ _ => .load
  | _ => .cpeSrc

/-- R320: only in start-up, test and recovery. -/
def execCpexport (d a b : XReg) (s : State) : Out :=
  onThread s <| needLevel s 1 <| needOperand s (s.dev.dstate != 0) <|
    let x := s.rx a
    let y := s.rx b
    if x.toNat % 4096 ≠ 0 then .next (s.trap cAddress x)
    else if y.toNat % 16 ≠ 0 then .next (s.trap cAddress y)
    else
      (s.translate (exportAcc s x) x none).out fun ph s1 =>
        match ph.leaf with
        | none => .next (s1.wx d 1)
        | some l =>
          if l.kind ≠ 1 then .next (s1.wx d 1)
          else
            let m := blockMeta l x.toNat
            if poisoned 64 s1.dev.poison m 16 then .next (s1.trap cMemErr x)
            else
              (s1.writeBytes .glob .vecStore y (memBytes s1.dev.mem m 16) none).out fun _ s2 => .next (s2.wx d 0)

end Sys2Proof.Machine
end

