-- ==== Sys2Proof/Machine/Irq.lean ====
section
/-!
DEFINITION. Interrupts and the traps of virtual processors as a core takes them, between two convoys of its control thread (22_faults
R425 to R428, R431, R435 to R437, R451; 09 R219).
-/

namespace Sys2Proof.Machine

/-- The interrupts, in the order they are taken. -/
inductive Irq
  | kill | preempt | resume | spill | mailbox
  deriving DecidableEq, Repr

/-- Whether an interrupt is pending. -/
def Irqs.has (i : Irqs) : Irq → Bool
  | .kill => i.kill
  | .preempt => i.preempt.isSome
  | .resume => i.resume.isSome
  | .spill => i.spill.isSome
  | .mailbox => i.mailbox
/-- Whether the state of a core's thread is still to come (R34, R395, R435): its preloads, or its RESUME handler, also of a thread that has
ended. -/
def Device.unready (d : Device) (c : CoreNo) : Bool :=
  let o := d.cores.get c
  (o.mode == .free && o.launch.isSome && !o.ended) || (d.launchOn c).any fun l => l.resuming.contains o.thr.tid.toNat
/-- Whether a core takes an interrupt now. PREEMPT waits while the core has no state of its thread yet (log entry 17). -/
def Device.takes (d : Device) (c : CoreNo) (k : Irq) : Bool := (d.cores.get c).irq.has k && !(k == .preempt && d.unready c)
/-- The one taken first. -/
def Device.firstIrq (d : Device) (c : CoreNo) : Option Irq := [Irq.kill, .preempt, .resume, .spill, .mailbox].find? (d.takes c)
/-- One taken is pending no longer. -/
def Irqs.clear (i : Irqs) : Irq → Irqs
  | .kill => { i with kill := false }
  | .preempt => { i with preempt := none }
  | .resume => { i with resume := none }
  | .spill => { i with spill := none }
  | .mailbox => { i with mailbox := false }
/-- Code and `TVAL` of an interrupt (Table 22.1). -/
def Irq.code : Irq → BitVec 8
  | .preempt => 1 | .resume => 2 | .spill => 3 | .kill => 4 | .mailbox => 5
def Irqs.tval (i : Irqs) : Irq → Word
  | .preempt => i.preempt.getD 0
  | .resume => i.resume.getD 0
  | .spill => i.spill.getD 0
  | _ => 0

/-- The lowest VP with a pending trap (R428). -/
def Thread.trappedVp (t : Thread) : Option Nat := t.vps.findIdx? fun p => p.trap.isSome

/-- A waiter that a write left behind completes BROKEN (R226). -/
def Core.leftBehind (c : Core) (m : Memory) : Core :=
  match c.wait with
  | some (.waiting (.gsyncW pa gen none)) =>
    if memLoad m (pa + 8) 4 = gen.toNat then c else { c with wait := some (.waiting (.gsyncW pa gen (some 2))) }
  | _ => c

/-- An interrupt taken between two convoys (R371, R431): a core on which no thread ran stays without one below it, but for RESUME. -/
def Core.takeIrq (c : Core) (k : Irq) : Core :=
  let below := match k with | .resume => false | _ => c.idleBelow || c.mode == .free
  { (c.enterTrap k.code true false 0 (c.irq.tval k) c.pc) with
    irq := c.irq.clear k, wait := none, mode := .run, idleBelow := below
    thr := if k = .preempt then { c.thr with watches := [] } else c.thr }

/-- An interrupt of the core whose turn it is. KILL enters no handler: the thread ends and the core is free (R437), once there is space for its
record (R453). -/
def State.takeIrq (s : State) (k : Irq) : Option State :=
  if k = .kill then
    let s1 := (s.setCore { s.core with irq := s.core.irq.clear .kill, wait := none }).endConvoy
    let d := s1.dev.killThread s1.cur 0x0030
    if s1.dev.needsSpace d 5 then none else some { s1 with dev := d }
  else some (s.setCore (s.core.takeIrq k)).endConvoy

/-- A pending trap of a VP taken (R428). -/
def Core.takeVp (c : Core) (v : Nat) : Core :=
  match c.thr.vps[v]? with
  | none => c
  | some p =>
    let q := p.trap.getD (0, 0)
    { (c.enterTrap q.1 false true (BitVec.ofNat 10 v) q.2 c.pc) with wait := none, thr := c.thr.setVp v { p with trap := none } }

/-- The device once what an interrupt finds on a core is squashed, where it can be taken now (R219, R427); a KILL also ends a `halt` that waits
for the vector queue (R65). -/
def Device.squashFor (d : Device) (c : CoreNo) (k : Irq) : Option Device :=
  match k, (d.cores.get c).wait with
  | .kill, some .ending => some d
  | _, _ => d.squash c

/-- The first interrupt or VP trap that can be taken now (R425, R426, R428). -/
def State.interrupt (s : State) : Option State :=
  let c := s.core
  if !c.ie then none
  else
    match s.dev.firstIrq s.cur, c.thr.trappedVp with
    | none, none => none
    | some k, _ => (s.dev.squashFor s.cur k).bind fun d => ({ s with dev := d } : State).takeIrq k
    | none, some v => (s.dev.squash s.cur).map fun d =>
        let s1 : State := { s with dev := d }
        (s1.setCore (s1.core.takeVp v)).endConvoy

end Sys2Proof.Machine
end

