-- ==== Sys2Proof/Machine/Control.lean ====
section
/-!
DEFINITION. Branches, jumps and calls (07_isa_control R148 to R150), ends and calls of the supervisor (R151, 03 R65 to R67, 22 R431,
R437), control registers and length setters (R143, R152, R153), the start and end of thread mode (R154 to R158), the return from a
trap (19 R375) and hints (06 R126).
-/

namespace Sys2Proof.Machine

/-- The convoy that follows, set by a transfer. -/
def State.goto (s : State) (a : Word) : State := { s with ctx := { s.ctx with npc := a } }

/-- A conditional transfer (R148). -/
def branchIf (c : Bool) (target : Word) (s : State) : Out := onThread s <| .next (if c then s.goto target else s)

/-- R132, R148. -/
def execBeqz (a : XReg) (off : BitVec 14) (s : State) : Out := branchIf (s.rx a == 0) (s.wordsAway off) s

/-- R132, R148. -/
def execBnez (a : XReg) (off : BitVec 14) (s : State) : Out := branchIf (s.rx a != 0) (s.wordsAway off) s

/-- A condition of Table 6.3. -/
def condHolds (c : Cond) (a b : Word) : Bool :=
  match c with
  | .eq => a == b
  | .ne => a != b
  | .lt => decide (a.toInt < b.toInt)
  | .ge => decide (b.toInt ≤ a.toInt)
  | .ltu => decide (a.toNat < b.toNat)
  | .geu => decide (b.toNat ≤ a.toNat)
  | .al => true

/-- R148. -/
def execBranch (cond : Cond) (a b : XReg) (off : BitVec 32) (s : State) : Out :=
  branchIf (condHolds cond (s.rx a) (s.rx b)) (s.wordsAway off) s

/-- R149. -/
def execJal (d : XReg) (off : BitVec 32) (s : State) : Out :=
  onThread s <| .next ((s.wx d s.ctx.next).goto (s.wordsAway off))

/-- R150: the target is read before the link is written. -/
def execJr (d a : XReg) (s : State) : Out :=
  onThread s <|
    let target := s.rx a
    if target.toNat % 8 ≠ 0 then .next (s.trap cInstrAddr target) else .next ((s.wx d s.ctx.next).goto target)

/-! ### Leaving the convoy's thread -/

/-- Whether the convoy stops before the instruction that runs: it waits, or its exchange or its hamper operation comes first. -/
def State.unsettled (s : State) : Bool := s.ctx.stop.isSome

/-- `VSTART` after the convoy at an address commits (R84). -/
def Thread.replayed (t : Thread) (pc : Word) (pl : BitVec 2) : Thread :=
  if t.vstartPc = pc ∧ t.vstartPl = pl then { t with vstart := {} } else t

/-- The convoy commits here: an instruction that acts at the boundary after it follows. -/
def State.commitHere (s : State) : State :=
  let c := s.core
  s.setCore { c with thr := c.thr.replayed c.pc c.pl, wait := none }

/-- The interrupt or VP trap that comes before the commit of the convoy: one that was pending when it began, but where what it has sent, or its
`idle`, must commit first (R225, R381, R426, R427). -/
def State.before (s : State) : Option State := if s.ctx.sent || s.ctx.idled then none else ({ s with dev := s.base } : State).interrupt

/-- A transfer that acts once its convoy commits (R38, R43). -/
def atCommit (s : State) (k : State → Out) : Out :=
  if s.unsettled then .next s
  else
    match s.before with
    | some s1 => .next s1
    | none => k s.commitHere

/-- The system-call and breakpoint traps (R45, R151): the convoy commits, and `TEPC` holds the next one; a synchronous trap comes before
any interrupt (R426). -/
def callTrap (code : BitVec 8) (n : BitVec 11) (s : State) : Out :=
  onThread s <|
    if s.unsettled then .next s
    else
    let s1 := s.commitHere
    let s2 := s1.setCore (s1.core.enterTrap code false false 0 (n.setWidth 64) s1.ctx.next)
    .next s2.endConvoy

/-- R151. -/
def execSvc (code : BitVec 11) (s : State) : Out := callTrap cSvc code s

/-- R151. -/
def execBrk (code : BitVec 11) (s : State) : Out := callTrap cBrk code s

/-- An instruction that finds the vector unit in thread mode waits until that has ended (R56, R57): the convoy does not commit before, and
nothing of it is sent (R65). Where its own convoy began thread mode, that commits as far as the instruction, and goes on from there (log
entry 62). -/
def waitMode (s : State) : Out :=
  if (s.base.cores.get s.cur).thr.threadMode then
    match s.ctx.stop with
    | some x => .next { s with ctx := { s.ctx with stop := some { x with why := .again } } }
    | none => .next (s.stallFor .retry)
  else if s.unsettled then .next s
  else .next (s.stopAt .mode s.restHere)

/-- R65 at level 0, and above it where no user thread is on the core: the convoy commits once thread mode has ended; the thread ends, or the core
goes back, once the vector queue has drained. R437 above it: the user thread on the core is killed, once there is space for its record
(R453). -/
def execHalt (s : State) : Out :=
  onThread s <|
    if s.core.pl = 0 || (s.dev.launchOn s.cur).isNone || s.core.ended then
      if s.thr.threadMode then waitMode s
      else atCommit s fun s1 =>
        if s1.core.late.isEmpty then .next ({ s1 with dev := s1.dev.endThread s1.cur }).endConvoy
        else .next (s1.setCore { s1.core with wait := some .ending }).endConvoy
    else atCommit s fun s1 =>
      let d := s1.dev.killThread s1.cur 0x0030
      if s1.dev.needsSpace d 5 then stall s else .next ({ s1 with dev := d }).endConvoy

/-- The VP of a trap entry is runnable again, with its discarded AIB as its next (R428). -/
def Thread.serveVp (t : Thread) (cause : Word) : Thread :=
  let v := (cause.extractLsb' 10 10).toNat
  if cause.getLsbD 9 then
    match t.vps[v]? with
    | some p => t.setVp v { p with trap := none, held := false, runnable := true }
    | none => t
  else t

/-- The transfers of a thread go on (R433). -/
def Thread.resumeTransfers (t : Thread) : Thread := { t with transfers := t.transfers.map fun x => x.map fun y => { y with paused := false } }

/-- The return to a level (R375): that of the trap, and at level 0 a thread whose transfers go on (R433), whether it has ended or not, and
whose loaded thread mode begins (R378); a core on which no thread runs is free. -/
def Core.returnFrom (c : Core) : Core :=
  let t := c.trapRegs c.pl
  let l := t.tcause.extractLsb' 20 2
  let c1 := { c with pl := l, ie := t.tcause.getLsbD 22, pc := t.tepc, thr := c.thr.serveVp t.tcause }
  if l ≠ 0 then c1
  else if c1.ended || c1.idleBelow then ({ c1 with thr := c1.thr.resumeTransfers } : Core).toFree
  else
    let u := c1.thr.resumeTransfers
    { c1 with
      vpsStopped := false
      thr := { u with threadMode := u.threadMode || (u.modeDue && u.vpsGoOn), modeDue := false } }

/-- The return of the core whose turn it is. A thread that a `ctxload` has restored waits until its whole launch is restored (R34, R398). -/
def State.returned (s : State) : State :=
  let s1 := s.setCore s.core.returnFrom
  match s1.dev.launchOn s1.cur with
  | none => s1
  | some l =>
    let t := s1.thr.tid.toNat
    if s1.core.pl = 0 ∧ s.core.idleBelow = false ∧ l.resuming.contains t = true then
      let s2 := s1.setCore { s1.core with mode := .free }
      { s2 with dev := s2.dev.restored l.arrival t }
    else s1

/-- The checks of a return (R375): no level above the current one, and an aligned address. -/
def mayReturn (s : State) (k : Out) : Out :=
  let t := s.core.trapRegs s.core.pl
  needOperand s (decide ((t.tcause.extractLsb' 20 2).toNat ≤ s.core.pl.toNat)) <|
    if t.tepc.toNat % 8 ≠ 0 then .next (s.trap cInstrAddr t.tepc) else k

/-- R375. -/
def execTret (s : State) : Out :=
  onThread s <| needLevel s 1 <| mayReturn s <|
    atCommit s fun s1 => .next s1.returned.endConvoy

/-- Whether the current level was entered by SPILL (Table 22.1). -/
def Core.inSpill (c : Core) : Bool :=
  let t := c.trapRegs c.pl
  t.tcause.getLsbD 8 && t.tcause.extractLsb' 0 8 == 3

/-- R67, R399 at level 0: the launch is pre-empted when the command processor grants it. R431, R436 above it: the core is handed
back; after SPILL, a thread on the core goes on. -/
def execYield (s : State) : Out :=
  onThread s <|
    if s.core.pl = 0 then
      match s.dev.launchOn s.cur with
      | some l => if !s.unsettled && s.dev.yieldGranted l then .next { s with dev := s.dev.preemptLaunch l } else .next s
      | none => .next s
    else
      let stays := s.core.inSpill && s.core.launch.isSome
      let go : Out := atCommit s fun s1 =>
        let c := s1.core
        let s2 := { s1 with dev := s1.dev.handBack s1.cur c.inSpill (c.trapRegs c.pl).tval }
        if s1.dev.needsSpace s2.dev 5 then stall s else .next (if stays then s2.returned else s2).endConvoy
      if stays then mayReturn s go else go

/-! ### Control registers -/

/-- R153, R372. -/
def execCsrr (d : XReg) (csr : BitVec 12) (s : State) : Out :=
  onThread s <|
    match csrRead s csr with
    | some v => .next (s.wx d v)
    | none => illegal s

/-- R153, R372. -/
def execCsrw (csr : BitVec 12) (a : XReg) (s : State) : Out :=
  onThread s <|
    match csrWrite s csr (s.rx a) with
    | .done s1 => .next s1
    | .illegal => illegal s
    | .operand => operand s

/-- `VL` set, and its new value written (R143, R152). -/
def setLength (d : XReg) (n : Nat) (s : State) : Out :=
  onThread s <|
    let t := s.thr.setVl n
    .next ((s.setThr t).wx d (BitVec.ofNat 64 t.vl))

/-- R143. -/
def execSetvli (d : XReg) (n : BitVec 14) (s : State) : Out := setLength d n.toNat s

/-- R152. -/
def execSetvl (d a : XReg) (s : State) : Out := setLength d (s.rx a).toNat s

/-- R81, R152. -/
def execSetew (ew : Ew) (s : State) : Out := onThread s <| .next (s.setThr (s.thr.setEw ew))

/-- R48, R152. -/
def execSetslip (n : BitVec 4) (s : State) : Out := onThread s <| .next (s.setThr { s.thr with slip := n })

/-! ### Thread mode -/

/-- R82, R154. -/
def execSetvp (a : XReg) (s : State) : Out :=
  onThread s <|
    let n := (s.rx a).toNat
    needOperand s (decide (n ≤ 1024)) <|
      if s.thr.threadMode then waitMode s else .next (s.setThr { s.thr with vps := List.replicate n {} })

/-- R56, R80, R156: every VP becomes runnable with the target as its next AIB, once every access before it has been performed. -/
def execVfetch (off : BitVec 32) (s : State) : Out :=
  onThread s <|
    if s.thr.threadMode then waitMode s
    else onLate (fun _ => true) s <|
      let t := s.thr
      let start (p : Vp) : Vp :=
        { p with next := s.wordsAway off, runnable := true, trap := none, held := false, asked := none, nctl := t.nctl, seed := t.srseed }
      let t1 := { t with
        vps := t.vps.map start, threadMode := !t.vps.isEmpty, vpLevel := s.core.pl
        lastVp := Vector.replicate 64 none, aib := Vector.replicate 64 none }
      let s1 := s.setThr t1
      .next (s1.setCore s1.core.drainLanes)

/-- R57, R158: a lane barrier (R50). -/
def execVrejoin (s : State) : Out :=
  onThread s <| if s.thr.threadMode then waitMode s else onDrained s <| .next (s.setCore s.core.drainLanes)

/-- R126: a hint has no effect. -/
def execHint (_odd : Bool) (_bits : BitVec 55) (s : State) : Out := .next s

end Sys2Proof.Machine
end

