-- ==== Sys2Proof/Machine/Dme.lean ====
section
/-!
DEFINITION. The diagonal multiply engine (chapter 10): modes (R243, R246), exact accumulation (R247), operand latches (R248 to
R251), cyclic sweeps and triangular mode (R252, R253), row budgets and metadata (R254, R255), ownership of slots (R74, R256), and
its instructions (R262 to R265).
-/

namespace Sys2Proof.Machine

/-! ### Slots -/

/-- A slot of the core. -/
def Core.slot (c : Core) (k : Nat) : SlotReg := c.am.get (Fin.ofNat 512 k)
def Core.setSlot (c : Core) (k : Nat) (v : SlotReg) : Core :=
  let i : Slot := Fin.ofNat 512 k
  { c with am := c.am.set i.val v i.isLt }

/-- Value `v` of the range that starts at slot `k` (R244). -/
def Core.slotVal (c : Core) (k v : Nat) : Nat := elemGet (c.slot (k + v / 128)).vals 32 (v % 128)
def Core.setSlotVal (c : Core) (k v x : Nat) : Core :=
  let o := c.slot (k + v / 128)
  c.setSlot (k + v / 128) { o with vals := elemSet o.vals 32 (v % 128) x }

/-- The lowest slot of an ascending list that another launch owns (R74). -/
def Core.foreignSlot (c : Core) : List Nat → Option (Nat × Half)
  | [] => none
  | k :: t =>
    match (c.slot k).owner with
    | some o => if o = c.thr.lnch then c.foreignSlot t else some (k, o)
    | none => c.foreignSlot t

/-- The free slots of an ascending list claimed (R74). -/
def Core.claimSlots (c : Core) (ks : List Nat) : Core :=
  ks.foldl (fun c k => if (c.slot k).owner.isNone then c.setSlot k { vals := 0, owner := some c.thr.lnch } else c) c

/-- The slots an instruction accesses, checked and claimed (R74, R256, Table 22.1). -/
def needSlots (s : State) (ks : List Nat) (k : State → Out) : Out :=
  match s.core.foreignSlot ks with
  | some (n, o) => .next (s.trap cAccum (o ++ BitVec.ofNat 32 n))
  | none => k (s.setCore (s.core.claimSlots ks))

/-! ### Modes and values -/

/-- The conditions of R246. -/
def needDme (s : State) (m : DForm) (k : Out) : Out :=
  let t := s.thr
  needOperand s (t.dmode == some m && decide (1 ≤ t.mn.toNat) && decide (t.mn.toNat ≤ t.dl) &&
    (m == .pack || decide (t.dl ≤ t.ew.mvl))) k

/-- A value of an operand: an integer, or an exact floating value. -/
inductive DVal
  | int (v : Int)
  | fp (v : Fp)
  deriving DecidableEq, Repr

/-- A pattern as a value of type `t`, under a scale byte for `q4` (R247). -/
def dval (c : NumCtx) (t : Ty) (scale bits : Nat) : DVal :=
  if t.isInt then .int (intOf t bits) else if t = .q4 then .fp (q4Value scale bits) else .fp (fpIn c t bits)

/-- An exact product. -/
def DVal.mul (a b : DVal) : DVal :=
  match a, b with
  | .int x, .int y => .int (x * y)
  | .fp x, .fp y => .fp (fpMul x y)
  | .int _, .fp _ => .fp .nan
  | .fp _, .int _ => .fp .nan

/-- An exact sum, the sign of a zero left to `dotOf`. -/
def DVal.add (a b : DVal) : DVal :=
  match a, b with
  | .int x, .int y => .int (x + y)
  | .fp x, .fp y => .fp (fpAdd false x y)
  | .int _, .fp _ => .fp .nan
  | .fp _, .int _ => .fp .nan

/-- Whether a value is −0. -/
def DVal.negZero : DVal → Bool
  | .fp (.fin true 0 _) => true
  | _ => false

/-- The dot product of two chunks (R247): a zero is −0 when every product is, and under RDN. DESIGN CHOICE: under RDN it is −0 although every
product be +0, as the bullet of the rule says (R97; log entry 96). -/
def dotOf (rdn : Bool) (a b : List DVal) : DVal :=
  let ps := List.zipWith DVal.mul a b
  match ps with
  | [] => .int 0
  | p :: t =>
    match t.foldl DVal.add p with
    | .fp (.fin _ 0 _) => .fp (.fin (ps.all DVal.negZero || rdn) 0 0)
    | v => v

/-- `Acc` (R247): the value of a slot with a product added. -/
def accValue (c : NumCtx) (n x : Nat) (p : DVal) : Nat :=
  match p with
  | .int v => fitInt (satOf c.nctl) .s32 (intOf .s32 x + v)
  | .fp v =>
    let v' := if nbvOf c.nctl = 0 then v else fpOf .f32 (fpOut c .ctl n .f32 v)
    fpOut c .ctl n .f32 (fpAdd (rdnFor c .ctl .f32) (fpIn c .f32 x) v')

/-- A product added into value `n` of the range at slot `k`. -/
def Core.accumulate (c : Core) (num : NumCtx) (k n : Nat) (p : DVal) : Core :=
  c.setSlotVal k n (accValue num n (c.slotVal k n) p)

/-! ### Latches -/

/-- The latches: A, or B. -/
def Thread.latch (t : Thread) (b : Bool) : Latch := if b then t.latchB else t.latchA
def Thread.setLatch (t : Thread) (b : Bool) (l : Latch) : Thread := if b then { t with latchB := l } else { t with latchA := l }

/-- Fields of a layout word (R250). -/
def laySpan (w : Word) : BitVec 3 := w.extractLsb' 0 3
def layPositions (w : Word) : Nat := (w.extractLsb' 8 7).toNat + 1
def layPitch (w : Word) : Nat := (w.extractLsb' 16 16).toNat
def layTy (w : Word) : Ty := Ty.ofCode (w.extractLsb' 32 5)

/-- A layout word that R250 allows. -/
def layOk (w : Word) : Bool :=
  let code := (w.extractLsb' 32 5).toNat
  w.extractLsb' 3 5 == 0 && !w.getLsbD 15 && w.extractLsb' 37 27 == 0 && layPitch w % 128 == 0
    && (code == 0 || code == 1 || code == 8 || code == 9 || code == 12 || code == 13 || code == 14)

/-- The addresses of position `e` (R263): of its chunk and of its scale bytes. -/
def chunkAddr (a lay : Word) (e : Nat) : Word := a + BitVec.ofNat 64 (layPitch lay * e)
def scaleAddrOf (a : Word) (e : Nat) : Word := a + BitVec.ofNat 64 (8 * e)

/-- 16 bytes of a chunk at their swizzled place (R251, R302, R307). -/
def State.chunkUnit (s : State) (l : Local) (sp : Space) (span : BitVec 3) (a : Word) (e u : Nat) : Acc (List Byte) :=
  s.lateSpot false sp (a + BitVec.ofNat 64 (16 * u)) 16 (some e) (.loc ⟨l.core, l.wb, swz (l.off + 16 * u) span.toNat⟩)

/-- A chunk of a latch load after its address was checked. -/
def State.chunkBytes (s : State) (l : Local) (sp : Space) (span : BitVec 3) (a : Word) (e : Nat) : Acc (List Byte) :=
  (Acc.collect (fun u s1 => State.chunkUnit s1 l sp span a e u) (upFrom 0 8) s).bind fun us s1 => .ok us.flatten s1

/-- The stamp of a KiB that the bytes of a chunk touch and that is not `span` (R251). -/
def badStamp (d : Device) (l : Local) (span : BitVec 3) : Option (BitVec 3) :=
  ((upFrom 0 8).map fun u => (d.cores.get l.core).stamp l.wb (swz (l.off + 16 * u) span.toNat)).find? (· != span)

/-- The places of position `e` (R263): its chunk before its scale bytes. -/
def State.latchPlaces (s : State) (sp : Space) (a lay sc : Word) (e : Nat) : Acc (Local × Option Local) :=
  (s.localAt sp (chunkAddr a lay e) 128 (some e)).bind fun l s1 =>
    if layTy lay = .q4 then
      (s1.localAt sp (scaleAddrOf sc e) 8 (some e)).bind fun m s2 => .ok (l, some m) s2
    else .ok (l, none) s1

/-- The bytes of position `e`: the chunk, and the scales. -/
def State.latchBytes (s : State) (sp : Space) (a lay sc : Word) (p : Nat × Local × Option Local) : Acc (List Byte × List Byte) :=
  let e := p.1
  (s.chunkBytes p.2.1 sp (laySpan lay) (chunkAddr a lay e) e).bind fun bs s1 =>
    match p.2.2 with
    | none => .ok (bs, []) s1
    | some m => (s1.lateSpot false sp (scaleAddrOf sc e) 8 (some e) (.loc m)).bind fun ss s2 => .ok (bs, ss) s2

/-- The transfers that write a chunk have passed it, or stamped its KiBs (R42, R302, R308): its checks can be made. -/
def State.chunkStamped (s : State) (span : BitVec 3) (l : Local) : Bool × State :=
  (upFrom 0 8).foldl (fun r u =>
    let o := swz (l.off + 16 * u) span.toNat
    let q := r.2.settled false ⟨l.bufNo, o, o + 16⟩
    (r.1 && (q.1 || (upFrom 0 16).all fun b => decide (q.2.unstamped ⟨l.core, l.wb, o + b⟩ = [])), q.2)) (true, s)

/-- The stamps that a latch load checks (R251): a load that waits has checked them when it issued, and its convoy waits for a chunk whose
stamps a transfer has still to write, for no check comes after the commit (R42). DESIGN CHOICE: of stamps that differ from SPAN, `TVAL` names
that of the lowest position, and of its lowest bytes in logical order, as [15:8] with the stamp in the TY bits and zeros in the SPAN bits (log
entry 52). -/
def State.needStamps (s : State) (span : BitVec 3) (ls : List Local) : Acc Unit :=
  if s.inTurn then .ok () s
  else
    let r := ls.foldl (fun (r : Bool × State) l =>
      let q := r.2.chunkStamped span l
      (r.1 && q.1, q.2)) (true, s)
    if !r.1 then .stop (stall r.2)
    else
      match ls.findSome? fun l => badStamp r.2.dev l span with
      | some st => .stop (.next (r.2.trap cFormat (formatTval 61 0 (st.setWidth 5))))
      | none => .ok () r.2

/-- A latch load (R250, R251, R263): the layout word, every address, then the stamps as the transfers before it leave them, then the
bytes. -/
def State.loadLatch (s : State) (sp : Space) (a lay sc : Word) (scaled : Bool) : Acc Latch :=
  if !layOk lay || (scaled && layTy lay != .q4) then .stop (operand s)
  else
    let es := upFrom 0 (layPositions lay)
    (Acc.collect (fun e s1 => State.latchPlaces s1 sp a lay sc e) es s).bind fun ps s0 =>
      (s0.needStamps (laySpan lay) (ps.map Prod.fst)).bind fun _ s1 =>
        (Acc.collect (fun p s2 => State.latchBytes s2 sp a lay sc p) (es.zip ps) s1).bind fun bs s2 =>
          .ok { valid := true, ty := layTy lay, addr := a, layout := lay, scaleAddr := sc, space := sp
                pos := elemPut 0 1024 0 (bs.map fun b => bytesVal b.1)
                scales := elemPut 0 64 0 (bs.map fun b => bytesVal b.2) } s2

/-- A latch as its reader finds it: one that a context switch did not carry is loaded again first (R249). DESIGN CHOICE: that is at its reader,
or at a `dhold` that sets HOLD, and checks that fail there are the traps of that instruction (log entry 100). -/
def State.readLatch (s : State) (b : Bool) : Acc Latch :=
  let l := s.thr.latch b
  if l.reload then
    (s.loadLatch l.space l.addr l.layout l.scaleAddr false).bind fun n s1 =>
      let n1 := { n with hold := l.hold }
      .ok n1 (s1.setThr (s1.thr.setLatch b n1))
  else .ok l s

/-- The patterns of position `e` of a latch (R254: 32 codes of `q4` to a scale byte). -/
def Latch.vals (l : Latch) (e : Nat) : List Nat :=
  let n := 1024 / l.ty.bits
  (upFrom 0 n).map fun i => elemGet l.pos l.ty.bits (n * e + i)
/-- Patterns of a position as values. -/
def Latch.values (l : Latch) (c : NumCtx) (e : Nat) (ps : List Nat) : List DVal :=
  ps.zipIdx.map fun p => dval c l.ty (elemGet l.scales 8 (8 * e + p.2 / 32)) p.1

/-- A latch after its reader: consumed unless held (R248). -/
def Latch.consumed (l : Latch) : Latch := if l.hold then l else { l with valid := false }

/-! ### Row budgets -/

/-- The groups of 16 values of a position (R254). -/
def groupsIn (t : Ty) : Nat := 64 / t.bits
/-- The bitmap of group `g` of position `e` (R255). -/
def bitmapAt (md : Memory) (t : Ty) (off e g : Nat) : Nat := memLoad md (off + 2 * groupsIn t * e + 2 * g) 2

/-- The check of R255 on a position. -/
def metaOk (t : Thread) (md : Memory) (ty : Ty) (off e : Nat) : Bool :=
  let g := groupsIn ty
  decide (off + 2 * g * e + 2 * g ≤ mdSize) &&
    (upFrom 0 g).all fun i => popNat 16 (bitmapAt md ty off e i) == (t.budget.get (Fin.ofNat 128 e))

/-- Packed values put at the set bits of a list of bitmap bits, in order (R255). -/
def unpack : List Bool → List Nat → List Nat
  | [], _ => []
  | false :: t, ps => 0 :: unpack t ps
  | true :: t, p :: ps => p :: unpack t ps
  | true :: t, [] => 0 :: unpack t []

/-- The dense values of a compressed position. -/
def denseVals (l : Latch) (md : Memory) (off e : Nat) : List Nat :=
  let bits := (upFrom 0 (groupsIn l.ty)).flatMap fun g => (upFrom 0 16).map fun b => decide (bitmapAt md l.ty off e g / 2 ^ b % 2 = 1)
  unpack bits (l.vals e)

/-- The first queued `dmeta` written (R264). -/
def Core.writeMeta (c : Core) : Core :=
  match c.dmeta with
  | [] => c
  | m :: t => { c with md := memPut c.md m.off m.src, dmeta := t }
/-- Every queued `dmeta` written: a reader of MD waits for them. -/
def Core.settleMeta (c : Core) : Core := (upFrom 0 c.dmeta.length).foldl (fun c _ => c.writeMeta) c

/-! ### Multiplication -/

/-- The operands of a multiply instruction (R262). -/
structure Mac where
  k : Nat
  p : Int
  q : Int
  t : Int := 0
  off : Nat := 0
  sparse : Bool := false
  tri : Bool := false
  sweep : Bool := false

/-- The register operand `xo` (R262). -/
def macReg (k : Slot) (x : Word) (tri sparse sweep : Bool) : Mac :=
  { k := k.val, p := (x.extractLsb' 0 16).toInt, q := (x.extractLsb' 16 16).toInt, t := (x.extractLsb' 32 16).toInt
    off := (x.extractLsb' 48 16).toNat, sparse := sparse, tri := tri, sweep := sweep }
/-- The immediate operands. -/
def macImm (k : Slot) (p q : BitVec 8) (off : Nat) (sparse : Bool) : Mac :=
  { k := k.val, p := p.toInt, q := q.toInt, off := off, sparse := sparse }

/-- The contributing rows (R242). -/
def Mac.rows (m : Mac) (n : Int) : List Int :=
  let lo := max (max 0 (-m.p)) (max 0 (-m.q) - m.p)
  let hi := min (n - max 0 m.p) (n - max 0 m.q - m.p)
  (upFrom 0 (hi - lo).toNat).map fun (i : Nat) => lo + (i : Int)

/-- The positions of A read: all of a sweep, else those of the contributing rows. DESIGN CHOICE: a sweep reads every position, also one all of
whose values a `tri` form masks (R255; log entry 90). -/
def Mac.positions (m : Mac) (n : Nat) : List Nat :=
  if m.sweep then upFrom 0 n
  else if (m.p + m.q).natAbs < n then (m.rows n).map fun i => (i - max 0 (-m.p)).toNat else []

/-- `SweepBody` (R252, R253). -/
def sweepBody (num : NumCtx) (m : Mac) (n : Nat) (fill : Half) (dot : Nat → Nat → DVal) (c : Core) : Core :=
  (upFrom 0 n).foldl (fun c d => (upFrom 0 n).foldl (fun c i =>
    let j := (i + d) % n
    if m.tri ∧ m.t < (j : Int) - i then c.setSlotVal m.k (128 * d + i) fill.toNat
    else c.accumulate num m.k (128 * d + i) (dot i j)) c) c

/-- The body of a diagonal product (R242, R253, R262). -/
def diagonalBody (num : NumCtx) (m : Mac) (n : Nat) (fill : Half) (dot : Nat → Nat → DVal) (c : Core) : Core :=
  let r := m.p + m.q
  if n ≤ r.natAbs then c
  else if m.tri ∧ m.t < r then (upFrom 0 (n - r.natAbs)).foldl (fun c v => c.setSlotVal m.k v fill.toNat) c
  else (m.rows n).foldl (fun c i =>
    c.accumulate num m.k (i - max 0 (-r)).toNat (dot (i - max 0 (-m.p)).toNat (i + m.p - max 0 (-m.q)).toNat)) c

/-- The checks and effect of R262 after the operands of its form; `dot` gives the product of two elements. -/
def macBody (s : State) (m : Mac) (ty : Ty) (groups : Nat) (dot : Nat → Nat → DVal) (after : Thread → Thread) : Out :=
  let t := s.thr
  let n := t.mn.toNat
  let span := if m.sweep then n else (t.dl + 127) / 128
  let md := s.core.md
  needOperand s (decide (m.k + span ≤ 512)) <|
  needOperand s (m.sweep || decide (m.p.natAbs < n ∧ m.q.natAbs < n)) <|
  needOperand s (!m.sparse || (m.off % 8 == 0 && (m.positions n).all (metaOk t md ty m.off))) <|
  needSlots s (if m.sweep ∨ (m.p + m.q).natAbs < n then upFrom m.k span else []) fun s1 =>
    let body := if m.sweep then sweepBody else diagonalBody
    let s2 := s1.setCore (body s1.num m n t.fill dot s1.core)
    .next (s2.finish groups (after s2.thr))

/-- A source of a vector form has SPAN 0 (R251, R262). -/
def needPlain (s : State) (r : VReg) (k : Out) : Out := if (s.rv r).span = 0 then k else .next (s.formatTrap r)

/-- A vector form (R262): elemental mode, elements of registers. DESIGN CHOICE: its element-group operations are counted by `VL`, none at VL = 0,
although it reads elements up to MN.N − 1 (R47; log entry 87). -/
def macVector (s : State) (ty : Ty) (m : Mac) (a b : VReg) : Out :=
  onVector s <| needDme s .elem <| needTags s [(a, ty), (b, ty)] <| needPlain s a <| needPlain s b <| needEw s ty.bits <|
    let va := s.rv a
    let vb := s.rv b
    macBody s m ty (groupsOf s.vl ty.bits)
      (fun i j => (dval s.num ty 0 (va.elem ty i)).mul (dval s.num ty 0 (vb.elem ty j))) id

/-- The type of a latch against that of its reader (R262, Table 22.1). -/
def needLatchTy (s : State) (b : Bool) (l : Latch) (ty : Ty) (k : Out) : Out :=
  if l.ty = ty then k else .next (s.trap cFormat (formatTval (if b then 63 else 62) 0 l.ty.code))

/-- A latch form (R262): packed mode, chunks of the latches, those of A decompressed when sparse. -/
def macLatch (s : State) (ty : Ty) (m : Mac) : Out :=
  onVector s <| needDme s .pack <| needOperand s (s.thr.latchA.valid && s.thr.latchB.valid) <|
    (s.readLatch false).out fun la s1 => (s1.readLatch true).out fun lb s2 =>
      needLatchTy s2 false la ty <| needLatchTy s2 true lb ty <|
        let s3 := if m.sparse then s2.setCore s2.core.settleMeta else s2
        let md := s3.core.md
        let c := s3.num
        let rdn := rdnFor c .ctl .f32
        let opA (e : Nat) : List DVal := la.values c e (if m.sparse then denseVals la md m.off e else la.vals e)
        let opB (e : Nat) : List DVal := lb.values c e (lb.vals e)
        macBody s3 m ty 1 (fun i j => dotOf rdn (opA i) (opB j))
          fun t => (t.setLatch false (t.latch false).consumed).setLatch true (t.latch true).consumed

/-- R262. -/
def execDmacVI (ty : Ty) (k : Slot) (a b : VSrc) (p q : BitVec 8) (s : State) : Out :=
  macVector s ty (macImm k p q 0 false) a.reg b.reg

/-- R262. -/
def execDmacLI (ty : Ty) (k : Slot) (p q : BitVec 8) (s : State) : Out := macLatch s ty (macImm k p q 0 false)

/-- R254, R255, R262. -/
def execDmacsI (ty : Ty) (k : Slot) (mo : BitVec 7) (p q : BitVec 8) (s : State) : Out :=
  macLatch s ty (macImm k p q (512 * mo.toNat) true)

/-- R262. -/
def execDmacV (ty : Ty) (k : Slot) (a b : VSrc) (c : XReg) (s : State) : Out :=
  macVector s ty (macReg k (s.rx c) false false false) a.reg b.reg

/-- R262. -/
def execDmacL (ty : Ty) (k : Slot) (c : XReg) (s : State) : Out := macLatch s ty (macReg k (s.rx c) false false false)

/-- R253, R262. -/
def execDmacTriV (ty : Ty) (k : Slot) (a b : VSrc) (c : XReg) (s : State) : Out :=
  macVector s ty (macReg k (s.rx c) true false false) a.reg b.reg

/-- R253, R262. -/
def execDmacTriL (ty : Ty) (k : Slot) (c : XReg) (s : State) : Out := macLatch s ty (macReg k (s.rx c) true false false)

/-- R254, R255, R262. -/
def execDmacs (ty : Ty) (k : Slot) (c : XReg) (s : State) : Out := macLatch s ty (macReg k (s.rx c) false true false)

/-- R252, R253, R262. -/
def execDsweep (ty : Ty) (k : Slot) (tri sp : Bool) (c : XReg) (s : State) : Out :=
  macLatch s ty (macReg k (s.rx c) tri sp true)

/-! ### Modes, latches and tables -/

/-- R243, R263. -/
def execMsetdl (mode : DForm) (a : XReg) (s : State) : Out :=
  onVector s <|
    let n := (s.rx a).toNat
    let top := match mode with | .elem => s.thr.ew.mvl | .pack => 128
    needOperand s (decide (1 ≤ n ∧ n ≤ top)) <|
      let clear (l : Latch) : Latch := { l with valid := false, hold := false }
      let t := s.thr
      .next (s.finish 1 { t with dmode := some mode, dl := n, latchA := clear t.latchA, latchB := clear t.latchB })

/-- R263: a load of latch A, or B. -/
def loadLatchOp (side : Bool) (sp : Space) (h : Bool) (a b c : XReg) (s : State) : Out :=
  onVector s <|
    (s.loadLatch sp (s.rx a) (s.rx b) (s.rx c) (decide (c ≠ 0))).out fun l s1 =>
      .next (s1.finish 1 (s1.thr.setLatch side { l with hold := h }))

/-- R250, R251, R263. -/
def execDlda (sp : Space) (h : Bool) (a b c : XReg) (s : State) : Out := loadLatchOp false sp h a b c s

/-- R250, R251, R263. -/
def execDldb (sp : Space) (h : Bool) (a b c : XReg) (s : State) : Out := loadLatchOp true sp h a b c s

/-- R263: a latch to be held that a context switch did not carry is loaded again first (R249). -/
def execDhold (ha hb wa wb : Bool) (s : State) : Out :=
  onVector s <|
    let one (b w h : Bool) (s : State) : Acc Unit :=
      let l := s.thr.latch b
      if w && l.valid then
        (if h then s.readLatch b else .ok l s).bind fun n s1 => .ok () (s1.setThr (s1.thr.setLatch b { n with hold := h }))
      else .ok () s
    (one false wa ha s).out fun _ s1 => (one true wb hb s1).out fun _ s2 => .next (s2.finish 1 s2.thr)

/-- R263. -/
def execDzero (k : Slot) (c : XReg) (s : State) : Out :=
  onVector s <|
    let t := s.thr
    let n := if c = 0 then (t.dl + 127) / 128 else (s.rx c).toNat
    needOperand s (c != 0 || t.dmode.isSome) <| needOperand s (decide (1 ≤ n ∧ k.val + n ≤ 512)) <|
      needSlots s (upFrom k.val n) fun s1 =>
        let c1 := (upFrom k.val n).foldl (fun c i => c.setSlot i { c.slot i with vals := 0 }) s1.core
        .next ((s1.setCore c1).finish 1 c1.thr)

/-- R253, R263. -/
def execDsetfill (a : XReg) (s : State) : Out :=
  onVector s (.next (s.finish 1 { s.thr with fill := (s.rx a).setWidth 32 }))

/-- R254, R263. -/
def execDbudget (a : XReg) (s : State) : Out :=
  onVector s <|
    (s.readBytes .ab .load (s.rx a) 128 (some 0)).out fun bs s1 =>
      needOperand s1 (bs.all fun b => decide (1 ≤ b.toNat ∧ b.toNat ≤ 16)) <|
        .next (s1.finish 1 { s1.thr with budget := Vector.ofFn fun i : Fin 128 => (bs.getD i.val 0).toNat })

/-- 128 bytes of a `dmeta` source, read as a copy source and as a long-vector load (R259, R264, R410); no remote address serves
it (R458). -/
def State.metaPiece (s : State) (sp : Space) (a : Word) : Acc (List Byte) :=
  match sp with
  | .glob =>
    (s.globalAt .cpeSrc a 128 (some 0)).bind fun ph s1 =>
      if isRemote ph.pa then .stop (s1.xlatFault cData kAttribute a (some 0))
      else s1.lateSpot true sp a 128 (some 0) (.glob ph)
  | _ => s.lateBytes false sp .load a 128 (some 0)

/-- R264: the bytes are read in program order; the copy engine writes them later (`Core.writeMeta`). -/
def execDmeta (sp : Space) (a b c : XReg) (s : State) : Out :=
  onVector s <|
    let src := s.rx a
    let n := (s.rx b).toNat
    let dst := (s.rx c).toNat
    needOperand s (decide (n % 128 = 0 ∧ 128 ≤ n ∧ n ≤ 65536 ∧ dst % 128 = 0 ∧ dst + n ≤ 65536)) <|
      (Acc.collect (fun i s1 => State.metaPiece s1 sp (src + BitVec.ofNat 64 (128 * i))) (upFrom 0 (n / 128)) s).out
        fun bs s1 =>
          let c1 := s1.core
          let s2 := s1.setCore { c1 with dmeta := c1.dmeta ++ [{ src := bs.flatten, off := dst }] }
          .next (s2.finish 1 s2.thr)

/-! ### Slots and registers -/

/-- The slot and the value that element `e` is moved from (R265): in order, or row `i` of a cyclic tile of N rows. DESIGN CHOICE: for N above
128 and a row i of 128 or more, Slot(…)[i] is value i mod 128 of the slot i div 128 further on (log entry 84). -/
def moveFrom (k : Slot) (row : Option (Nat × Nat)) (e : Nat) : Nat × Nat :=
  match row with
  | none => (k.val + e / 128, e % 128)
  | some (i, n) => (k.val + (e + n - i) % n + i / 128, i % 128)

/-- A move from slots to a register (R265): `conv` is what becomes of element `e`. DESIGN CHOICE: a row of 128 or more that would read a slot
beyond the last takes the operand trap (log entry 84). -/
def slotsToReg (s : State) (ty : Ty) (d : VReg) (k : Slot) (row : Bool) (c : XReg) (conv : Nat → Nat → Nat) : Out :=
  onVector s <| needEw s ty.bits <|
    let vl := s.vl
    let n := s.thr.mn.toNat
    let i := (s.rx c).toNat
    let from_ := moveFrom k (if row then some (i, n) else none)
    needOperand s (if row then decide (k.val + n ≤ 512 ∧ 1 ≤ n ∧ i < n ∧ vl ≤ n) && (upFrom 0 vl).all fun e => decide ((from_ e).1 < 512)
      else decide (k.val + (vl + 127) / 128 ≤ 512)) <|
      let ks := (upFrom 0 512).filter fun x => (upFrom 0 vl).any fun e => (from_ e).1 == x
      needSlots s ks fun s1 =>
        let l := (upFrom 0 vl).map fun e => (e, conv e (s1.core.slotVal (from_ e).1 (from_ e).2))
        .next (s1.finish (groupsOf vl ty.bits) (s1.thr.setV d ((s1.thr.v.get d).write ty l)))

/-- R265: raw bits. -/
def execDmovV (ty : Ty) (d : VReg) (k : Slot) (row : Bool) (c : XReg) (s : State) : Out :=
  slotsToReg s ty d k row c fun _ v => v

/-- R265: each value converted once, with element counter e. -/
def execDcvt (ty : Ty) (uf : Bool) (d : VReg) (k : Slot) (row : Bool) (c : XReg) (s : State) : Out :=
  slotsToReg s ty d k row c fun e v => convBits s.num .ctl e ty (if uf then .f32 else .s32) v

/-- R265. -/
def execDmovA (m : MReg) (k : Slot) (a : VSrc) (s : State) : Out :=
  onVector s <|
    let v := s.rv a.reg
    needEw s 32 <|
    if v.ty = .s32 ∨ v.ty = .z32 ∨ v.ty = .f32 then
      needOperand s (decide (k.val + (s.vl + 127) / 128 ≤ 512)) <|
        let es := s.active m
        let ks := (upFrom k.val ((s.vl + 127) / 128)).filter fun x => es.any fun e => k.val + e / 128 == x
        needSlots s ks fun s1 =>
          let c := es.foldl (fun c e => c.setSlotVal k.val e (v.elem .z32 e)) s1.core
          .next ((s1.setCore c).finish (groupsOf s.vl 32) c.thr)
    else .next (s.formatTrap a.reg)

/-- R265: the immediate into every value of n slots. -/
def execDmovi (ty : Ty) (k : Slot) (n1 : BitVec 7) (imm : BitVec 16) (s : State) : Out :=
  onVector s <|
    let n := n1.toNat + 1
    needOperand s (decide (k.val + n ≤ 512)) <|
      needSlots s (upFrom k.val n) fun s1 =>
        let vals : BitVec 4096 := elemPut 0 32 0 (List.replicate 128 (immArith ty imm))
        let c := (upFrom k.val n).foldl (fun c i => c.setSlot i { c.slot i with vals := vals }) s1.core
        .next ((s1.setCore c).finish 1 c.thr)

end Sys2Proof.Machine
end

