-- ==== Sys2Proof/Machine/System.lean ====
section
/-!
DEFINITION. System instructions (19_privileged R374 to R385) but for the context switch (Context.lean) and `tret` (Control.lean).
-/

namespace Sys2Proof.Machine

/-- Whether a TLB entry goes (R376). -/
def tlbHit (kind : TlbKind) (va : Word) (asid : BitVec 16) (e : TlbEntry) : Bool :=
  let l := e.leaf
  let here := decide (va.toNat / 2 ^ levelShift l.lvl * 2 ^ levelShift l.lvl = l.va)
  match kind with
  | .all => true
  | .asid => !l.g && e.asid == asid
  | .page => here && (l.g || e.asid == asid)
  | .gpage => here

/-- R376. -/
def execTlbinv (kind : TlbKind) (g : Bool) (a b : XReg) (s : State) : Out :=
  onThread s <| needLevel s 1 <|
    let x := s.rx b
    needOperand s (x.extractLsb' 16 48 == 0) <|
      let clean (c : Core) : Core := { c with tlb := c.tlb.filter fun e => !tlbHit kind (s.rx a) (x.setWidth 16) e }
      let s1 := s.released
      let pid := s1.core.part.pid
      .next (if g then { s1 with dev := { s1.dev with cores := s1.dev.cores.map fun c => if c.part.pid = pid then clean c else c } }
        else s1.setCore (clean s1.core))

/-! ### Slots -/

/-- A spill record of a slot (R379). -/
def spillRecord (r : SlotReg) : List Byte :=
  valBytes r.vals.toNat 512 ++ valBytes (r.owner.getD 0).toNat 4 ++ [if r.owner.isSome then 1 else 0] ++ List.replicate 3 0

/-- R379: the record is written, and the slot is free. -/
def execDspill (k : Slot) (a : XReg) (s : State) : Out :=
  onThread s <| needLevel s 1 <| onVector s <|
    let ad := s.rx a
    let rec_ := spillRecord (s.core.slot k.val)
    let at_ (i : Nat) : Word := ad + BitVec.ofNat 64 (8 * i)
    (Acc.each (fun i s1 => State.writeBytes s1 .glob .vecStore (at_ i) ((rec_.drop (8 * i)).take 8) none) (upFrom 0 65) s).out
      fun _ s1 =>
        let s2 := s1.afterStore .glob 8 ((upFrom 0 65).map at_)
        let s3 := s2.setCore (s2.core.setSlot k.val { s2.core.slot k.val with owner := none })
        .next (s3.finish 1 s3.thr)

/-- R379: a record's values and owner go into a slot. DESIGN CHOICE: of byte 516 bit 0 alone is read (log entry 106). -/
def execDfill (k : Slot) (a : XReg) (s : State) : Out :=
  onThread s <| needLevel s 1 <| onVector s <|
    let ad := s.rx a
    (Acc.collect (fun i s1 => State.readBytes s1 .glob .block (ad + BitVec.ofNat 64 (8 * i)) 8 none) (upFrom 0 65) s).out
      fun bs s1 =>
        let b := bs.flatten
        let owner : Option Half := if fieldAt b 516 1 % 2 = 1 then some (BitVec.ofNat 32 (fieldAt b 512 4)) else none
        let old := s1.core.slot k.val
        needOperand s1 (zeroAt b 517 3 && (old.owner.isNone || old.owner == owner)) <|
          let s2 := s1.setCore (s1.core.setSlot k.val { vals := BitVec.ofNat 4096 (fieldAt b 0 512), owner := owner })
          .next (s2.finish 1 s2.thr)

/-! ### Tags, waits and the device -/

/-- R380. -/
def execWbtag (d : XReg) (s : State) : Out := onThread s <| .next (s.wx d (boolWord (s.core.wbTag == s.core.launchTag)))

/-- R380. -/
def execWbtagSet (d a : XReg) (s : State) : Out :=
  onThread s <| needLevel s 1 <|
    let old := s.core.wbTag
    .next ((s.setCore { s.core with wbTag := (s.rx a).setWidth 32 }).wx d (old.setWidth 64))

/-- Whether an interrupt is pending (R381). -/
def Irqs.any (i : Irqs) : Bool := i.preempt.isSome || i.resume.isSome || i.spill.isSome || i.kill || i.mailbox

/-- R381: once it completes, its convoy commits before the interrupt is taken, unless a later word of it traps (R219). -/
def execIdle (s : State) : Out :=
  onThread s <| needLevel s 1 <|
    if s.core.irq.any then
      let s1 := s.waited
      .next { s1 with ctx := { s1.ctx with idled := true } }
    else .next (s.pend .irq)

/-- R382: it waits while the record of a map it cannot take needs space in an event ring (R453). -/
def execPmode (a : XReg) (s : State) : Out :=
  onThread s <| needLevel s 2 <|
    let x := s.rx a
    needOperand s (x.extractLsb' 2 62 == 0) <|
      let st : BitVec 2 := x.setWidth 2
      if s.dev.dstate = 0 ∧ st ≠ 0 ∧ s.dev.anyResident = true then stall s
      else
        let d := s.dev.enterState st
        if s.dev.needsSpace d 5 then stall s else .next { s with dev := d }

/-- R383. -/
def execQpost (d a b : XReg) (s : State) : Out :=
  onThread s <| needLevel s 1 <|
    let x := s.rx a
    let q := s.rx b
    if x.toNat % 64 ≠ 0 then .next (s.trap cAddress x)
    else needOperand s (q.extractLsb' 10 54 == 0) <|
      let s1 := s.released
      let r := s1.dev.qpost s1.cur (Fin.ofNat 1024 q.toNat) x
      .next (({ s1 with dev := r.1 }).wx d (BitVec.ofNat 64 r.2))

/-- R384: it waits while its record needs space in an event ring (R453). -/
def execErrlog (a b : XReg) (s : State) : Out :=
  onThread s <| needLevel s 1 <|
    let x := s.rx a
    needOperand s (x.extractLsb' 16 48 == 0) <|
      let d := s.dev.logError (partNo s.core.part.pid) (x.setWidth 16) s.cur.val (s.rx b)
      if s.dev.needsSpace d 5 then stall s else .next { s with dev := d }

/-- Whether a transfer of a core concerns a duty of a mask (R311, R460): it has served spills to replay, or a remote side. -/
def Device.dutyTransfer (d : Device) (changed : BitVec 6) (c : CoreNo) (t : Transfer) : Bool :=
  (changed.getLsbD 2 && t.served && !t.spilled.isEmpty) ||
    (changed.getLsbD 4 && (!t.unacked.isEmpty || (upFrom 0 t.total).any fun n => (t.remoteFid d c n).isSome))

/-- Whether a pre-emption or a dispatch of a launch is under way (R385, R398, R431): threads to save, preloads that wait for the host, slots to move
or threads to restore. -/
def Launch.underWay (l : Launch) : Bool :=
  l.st == .preempting || (l.st == .resident && (!l.moving.isEmpty || !l.resuming.isEmpty || (match l.loading with | .asked _ => true | _ => false)))

/-- Work of the duties of a mask that has begun and not ended (R385), for `dutyset` on core `c`: questions, records and commands outstanding,
transfers in flight, pre-emptions and dispatches under way, and the verification of an image. DEDUCED: one that waits for the core of the
`dutyset` itself, which no interrupt squashes (R219), does not hold it (log entry 59). -/
def Device.dutyBusy (d : Device) (c : CoreNo) (changed : BitVec 6) : Bool :=
  let asks := (d.chans.toList.flatMap PChan.asks).map Prod.snd
  asks.any (fun a =>
    match a with
    | .faultCore .. | .faultVp .. | .faultElem .. | .preload _ => changed.getLsbD 1
    | .spill .. => changed.getLsbD 2
    | .remote .. => changed.getLsbD 4) ||
  d.chans.toList.any (fun h =>
    (changed.getLsbD 3 && h.waiting.any fun e => e.ty == 5) ||
      (changed.getLsbD 0 && h.cstat == 1 && decide ((h.cmd.get 0).toNat ∈ [1, 2]))) ||
  (List.finRange 192).any (fun o =>
    (d.cores.get o).thr.transfers.toList.any fun x =>
      match x with
      | some t => d.dutyTransfer changed o t
      | none => false) ||
  (changed.getLsbD 0 && d.launches.any fun l => l.underWay && (d.cores.get c).launch != some l.id && l.moving.all fun m => m.2 != c) ||
  (changed.getLsbD 5 && (d.boot.awaiting || (d.boot.staged && d.boot.phase == 1)))

/-- R385. -/
def execDutyset (d a : XReg) (s : State) : Out :=
  onThread s <| needLevel s 2 <|
    let x := s.rx a
    needOperand s (x.extractLsb' 6 58 == 0) <|
      let new : BitVec 6 := x.setWidth 6
      let old := s.dev.duty
      if s.dev.dutyBusy s.cur (new ^^^ old) then .next (s.stallFor .firm)
      else .next (({ s with dev := { s.dev with duty := new } }).wx d (old.setWidth 64))

end Sys2Proof.Machine
end

