-- ==== Sys2Proof/Machine/Context.lean ====
section
/-!
DEFINITION. The context switch (19_privileged R377, R378; 22_faults R431 to R435): the context image of Table 22.3, `ctxsave`, and
`ctxload` with its checks. What the image has no place for and R88, R195 and R433 keep is set aside for the thread's return.
-/

namespace Sys2Proof.Machine

/-! ### The image -/

/-- Bytes followed by zeros up to `n`, and up to a multiple of 64. -/
def padTo (n : Nat) (b : List Byte) : List Byte := b ++ List.replicate (n - b.length) 0
def pad64 (b : List Byte) : List Byte := padTo ((b.length + 63) / 64 * 64) b

/-- The bits of a list of answers, bit i for i. -/
def bitsOf (l : List Bool) : Nat := l.foldr (fun b n => (if b then 1 else 0) + 2 * n) 0

/-- The slots of a core that the thread's launch owns (R434). -/
def Core.slotMask (c : Core) : Nat := bitsOf (c.am.toList.map fun s => s.owner == some c.thr.lnch)

/-- A latch whose operands the image carries (R88, R249). -/
def Latch.carried (l : Latch) : Bool := l.valid && l.hold

/-- FLAGS of the header. -/
def Thread.ctxFlags (t : Thread) : Nat :=
  bitsOf (t.transfers.toList.map Option.isSome ++
    [t.threadMode || t.modeDue, t.xchg.isSome, t.latchA.carried, t.latchB.carried, t.cde.bound])

/-- The header (Table 22.3). -/
def ctxHeader (c : Core) (core n : Nat) (resume : Word) : List Byte :=
  let t := c.thr
  padTo 64 (valBytes 0xD4A0 4 ++ valBytes n 4 ++ valBytes t.lnch.toNat 4 ++ valBytes t.tid.toNat 1 ++ valBytes core 1 ++
    valBytes 0 2 ++ valBytes resume.toNat 8 ++ valBytes (bitsOf (t.v.toList.map (·.dirty))) 4 ++ valBytes t.ctxFlags 4 ++
    valBytes (bitsOf (t.v.toList.map (·.sdirty))) 4)

/-- The section of control registers: dword i is user register i. -/
def ctxControl (t : Thread) : List Byte := (upFrom 0 16).flatMap fun i => valBytes ((userCsr t i).getD 0).toNat 8
/-- The section of tags and high-water marks. -/
def ctxTags (t : Thread) : List Byte :=
  padTo 128 ((t.v.toList.map fun v => v.span ++ v.ty.code) ++ t.v.toList.flatMap fun v => valBytes v.hwm 2)
/-- The live part of the dirty registers (R89). -/
def ctxVectors (t : Thread) : List Byte :=
  (t.v.toList.filter (·.dirty)).flatMap fun v => pad64 (valBytes v.data.toNat v.hwm)
/-- The sidecars whose sidecar-dirty bit is set (R90). -/
def ctxSidecars (t : Thread) : List Byte := (t.v.toList.filter (·.sdirty)).flatMap fun v => valBytes v.side.toNat 256
/-- The watermarks and links. -/
def ctxMarks (t : Thread) : List Byte :=
  (t.wm.toList ++ t.lw.toList.map linkWord).flatMap fun w => valBytes w.toNat 8
/-- The channels. -/
def ctxChannels (t : Thread) : List Byte :=
  (List.finRange 16).flatMap fun k => padTo 256 (((t.shadow.get k).toList.flatMap fun w => valBytes w.toNat 8) ++
    valBytes (t.seqNo.get k).toNat 4 ++ valBytes (t.cpStatus.get k).toNat 1)
/-- The paused transfers. -/
def ctxTransfers (t : Thread) : List Byte :=
  (t.transfers.toList.filterMap id).flatMap fun x =>
    padTo 256 ((x.regs.toList.flatMap fun w => valBytes w.toNat 8) ++ valBytes x.cursor 8)
/-- The streams, each at the place of its next coordinate in the user's address space (R267), and the engine part. -/
def ctxStreams (s : State) (t : Thread) : List Byte :=
  let u := s.setCore { s.core with pl := 0 }
  padTo 448 ((t.streams.toList.flatMap fun st => (u.atNext st).image) ++ t.cde.image)
/-- The record of a latch (log entry 57). -/
def latchRecord (l : Latch) : List Byte :=
  if l.valid then
    padTo 32 (valBytes l.addr.toNat 8 ++ valBytes l.layout.toNat 8 ++ valBytes (spaceCode l.space).toNat 1 ++ [1] ++
      [if l.hold then 1 else 0] ++ valBytes 0 5 ++ valBytes l.scaleAddr.toNat 8)
  else List.replicate 32 0
/-- The state of the DME. -/
def ctxDme (t : Thread) : List Byte :=
  padTo 256 (padTo 8 (valBytes t.fill.toNat 4) ++ t.budget.toList.map (BitVec.ofNat 8) ++ latchRecord t.latchA ++
    latchRecord t.latchB)
/-- The operands of a latch that is carried. -/
def latchBytes (l : Latch) : List Byte :=
  if l.carried then valBytes l.pos.toNat 16384 ++ (if l.ty = .q4 then valBytes l.scales.toNat 1024 else []) else []
/-- A pending exchange. -/
def ctxExchange (t : Thread) : List Byte :=
  match t.xchg with
  | none => []
  | some x => padTo 64 (valBytes x.peer 1 ++ valBytes x.group 1 ++ [x.ty.code.setWidth 8] ++ [0] ++ valBytes x.ord 4 ++
      valBytes x.vd.val 1 ++ valBytes x.va.val 1 ++ valBytes 0 2 ++ valBytes x.vl 4)
/-- The virtual processors; one that waits for service is saved as runnable (R432). -/
def ctxVps (t : Thread) : List Byte :=
  t.vps.flatMap fun p => padTo 256 ((p.w.toList.flatMap fun w => valBytes w.toNat 4) ++
    (p.latch.toList.flatMap fun w => valBytes w.toNat 4) ++ valBytes p.next.toNat 8 ++
    valBytes (bitsOf [p.runnable || p.held, p.hold.get 0, p.hold.get 1]) 1)

/-- The sections after the header, up to the slot area (R434). -/
def ctxBody (s : State) (c : Core) : List Byte :=
  let t := c.thr
  padTo 64 (valBytes c.slotMask 64) ++ (t.x.toList.flatMap fun w => valBytes w.toNat 8) ++ ctxControl t ++
    (t.m.toList.drop 1).flatMap (fun m => valBytes m.toNat 1024) ++ ctxTags t ++ ctxVectors t ++ ctxSidecars t ++ ctxMarks t ++
    ctxChannels t ++ ctxTransfers t ++ ctxStreams s t ++ ctxDme t ++ latchBytes t.latchA ++ latchBytes t.latchB ++
    ctxExchange t ++ ctxVps t ++ memBytes c.ab 0 abSize ++ c.abStamp.toList.map (·.setWidth 8) ++ memBytes c.md 0 mdSize

/-- The size of the slot area. -/
def slotAreaSize (mask : Nat) : Nat := (520 * popNat 512 mask + 63) / 64 * 64

/-! ### `ctxsave` -/

/-- The transfers of a core paused (R433): no element is begun any more; what is complete stays so. -/
def Core.pauseTransfers (c : Core) : Core :=
  { c with vpsStopped := true, thr := { c.thr with transfers := c.thr.transfers.map fun x => x.map fun t => { t with paused := true } } }

/-- Whether a transfer still owes something of the elements below its cursor (R433). -/
def Transfer.owes (t : Transfer) : Bool := !t.held.isEmpty || !t.spilled.isEmpty || !t.unacked.isEmpty || t.failing

/-- What is set aside of a thread for its return. -/
def Core.keep (c : Core) : Kept :=
  let t := c.thr
  { lnch := t.lnch, tid := t.tid, transfers := t.transfers, xchgNo := t.xchgNo, xchg := t.xchg
    vpNum := t.vps.map fun p => (p.nctl, p.seed), split := c.split.get 0, lastVp := t.lastVp }
def Device.pushKept (d : Device) (k : Kept) : Device :=
  { d with kept := k :: d.kept.filter fun o => !(o.lnch == k.lnch && o.tid == k.tid) }

/-- An image written, 64 bytes at a time in ascending order. -/
def State.writeImage (s : State) (a : Word) (b : List Byte) : Acc Unit :=
  Acc.each (fun p s1 => State.writeBytes s1 .glob .vecStore (a + BitVec.ofNat 64 (64 * p.2)) p.1 none)
    ((rowsOf 64 (b.length / 64) b).zipIdx) s

/-- The image of a context holds the core's own buffer: one of a retired core is unreachable (R23). DESIGN CHOICE: that is an address fault, at
the buffer's first byte (log entry 86). -/
def needOwnBuffers (s : State) (k : Out) : Out := if s.dev.isRetired s.cur then .next (s.trap cAddress 0) else k

/-- R377, R431 to R434: while it waits, the thread's transfers and virtual processors stand still. A poisoned granule of AB that it would read
raises the memory error with its address, the lowest of them (R439; log entry 58). -/
def execCtxsave (d a b : XReg) (s : State) : Out :=
  onThread s <| needLevel s 1 <|
    let xa := s.rx a
    let xb := s.rx b
    if xa.toNat % 4096 ≠ 0 then .next (s.trap cAddress xa)
    else needOwnBuffers s <|
      let stop (e : Device) : Device := e.onCore s.cur Core.pauseTransfers
      let run (e : Device) : Device := (List.finRange 16).foldl (fun e k => e.drainChannel s.cur k) e
      let s1 : State := { s with dev := run (stop s.dev) }
      let t := s1.thr
      if t.aib.any Option.isSome || t.transfers.any (fun x => x.any Transfer.owes) || !s1.core.late.isEmpty then
        .next (({ s1 with base := if s.unsettled then s.base else run (stop s.base) } : State).stallFor .saving)
      else
        let s2 := s1.setCore s1.core.drainLanes.settleMeta
        let c := s2.core
        let body := ctxBody s2 c
        let n := 64 + body.length + slotAreaSize c.slotMask
        if xb.toNat < n then .next (s2.wx d (BitVec.ofNat 64 n ||| 0x8000000000000000))
        else if c.abPoison ≠ [] then .next (s2.trap cMemErr (BitVec.ofNat 64 (128 * c.abPoison.foldl min 4096)))
        else
          (s2.writeImage xa (ctxHeader c s.cur.val n c.t1.tepc ++ body)).out fun _ s3 =>
            let s4 := s3.setCore { s3.core with saved := some xa }
            .next (({ s4 with dev := s4.dev.pushKept s4.core.keep }).wx d (BitVec.ofNat 64 n))

/-! ### `ctxload` -/

/-- Bytes of an image read, 64 at a time. -/
def State.readImage (s : State) (a : Word) (o n : Nat) : Acc (List Byte) :=
  (Acc.collect (fun i s1 => State.readBytes s1 .glob .block (a + BitVec.ofNat 64 (o + 64 * i)) 64 none) (upFrom 0 (n / 64)) s).bind
    fun l s1 => .ok l.flatten s1

/-- A value of an image. -/
def wordAt (b : List Byte) (o : Nat) : Word := BitVec.ofNat 64 (fieldAt b o 8)

/-- The fields of the first 8,064 bytes that give the length: high-water marks and flags. -/
def imgHwm (b : List Byte) (i : Nat) : Nat := fieldAt b (7968 + 2 * i) 2
def imgDirty (b : List Byte) (i : Nat) : Bool := decide (fieldAt b 24 4 / 2 ^ i % 2 = 1)
def imgSdirty (b : List Byte) (i : Nat) : Bool := decide (fieldAt b 32 4 / 2 ^ i % 2 = 1)
def imgFlag (b : List Byte) (i : Nat) : Bool := decide (fieldAt b 28 4 / 2 ^ i % 2 = 1)
/-- A control register of an image. -/
def imgCtl (b : List Byte) (i : Nat) : Word := wordAt b (640 + 8 * i)
/-- The place of register `i` in the vector data, its live bytes rounded up. -/
def imgVecOff (b : List Byte) (i : Nat) : Nat :=
  (upFrom 0 i).foldl (fun n j => if imgDirty b j then n + (imgHwm b j + 63) / 64 * 64 else n) 0
/-- The number of bits set below bit `i` of a field of bits. -/
def setBelow (f : Nat → Bool) (i : Nat) : Nat := ((upFrom 0 i).filter f).length

/-- The legal control values (R435, Tables 4.4 to 4.6). -/
def ctlOk (b : List Byte) : Bool :=
  let c (i : Nat) : Nat := (imgCtl b i).toNat
  let n := imgCtl b 8
  let mvl := 65536 / c 1
  (c 1 == 8 || c 1 == 16 || c 1 == 32) && c 2 == mvl && decide (c 0 ≤ mvl ∧ c 3 < 16 ∧ c 4 ≤ 1024 ∧ c 5 ≤ 8192 ∧ c 6 ≤ 2
    ∧ c 7 < 65536 ∧ c 9 < 2 ^ 32 ∧ c 11 < 256 ∧ c 12 < 2 ^ 32 ∧ c 13 < 2 ^ 32)
    && decide (n.toNat < 1024 ∧ n.extractLsb' 8 2 ≠ 3 ∧ (n.extractLsb' 0 3).toNat < 6) && !n.getLsbD 7
    && (imgCtl b 10 &&& ~~~ 0x33FFF) == 0 && c 14 == 0 && c 15 == 0

/-- The checks on the first 8,064 bytes. DESIGN CHOICE: a tag may have any TY of a type, that of `f64` among them (R95, R435; log entry 75). -/
def fixedOk (b : List Byte) : Bool :=
  fieldAt b 0 4 == 0xD4A0 && zeroAt b 14 2 && decide (fieldAt b 28 4 < 2 ^ 21) && zeroAt b 36 28 && zeroAt b 128 8 && ctlOk b
    && (upFrom 0 32).all (fun i => decide (fieldAt b (7936 + i) 1 % 32 < 15) && decide (imgHwm b i ≤ 8192)) && zeroAt b 8032 32

/-- The sizes of the sections after the first 8,064 bytes, up to the DME section. -/
def midSize (b : List Byte) : Nat :=
  imgVecOff b 32 + 256 * setBelow (imgSdirty b) 32 + 192 + 4096 + 256 * setBelow (imgFlag b) 16 + 448 + 256

/-- The sections up to the DME section, split. -/
structure ImgMid where
  vecs : List Byte
  sides : List Byte
  marks : List Byte
  chans : List Byte
  xfers : List Byte
  strs : List Byte
  dme : List Byte
def splitMid (b m : List Byte) : ImgMid :=
  let nv := imgVecOff b 32
  let ns := 256 * setBelow (imgSdirty b) 32
  let nx := 256 * setBelow (imgFlag b) 16
  let m1 := m.drop (nv + ns)
  { vecs := m.take nv, sides := (m.drop nv).take ns, marks := m1.take 192, chans := (m1.drop 192).take 4096
    xfers := (m1.drop 4288).take nx, strs := (m1.drop (4288 + nx)).take 448, dme := (m1.drop (4736 + nx)).take 256 }

/-- 29 registers of an image, from a record. -/
def regsAt (b : List Byte) (o : Nat) : Vector Word 29 := Vector.ofFn fun i : Fin 29 => wordAt b (o + 8 * i.val)
/-- Their RSV bits are zero, and their spaces legal (R290 to R294). -/
def regsOk (r : Vector Word 29) : Bool :=
  decide (regOf r 0 < 3 * 2 ^ 57 ∧ regOf r 1 < 3 * 2 ^ 57) &&
    (upFrom 2 27).all fun i => (r.get (Fin.ofNat 29 i) &&& ~~~ shadowMask i) == 0

/-- A stream image whose fields are legal for its kind (R267, R286, R435). -/
def streamImageOk (b : List Byte) : Bool :=
  let st := streamOf b
  let f := fieldAt b 40 4
  let plain := convCode (f / 32 % 32) && zeroAt b 28 12 && zeroAt b 44 4 && decide (f / 4 % 8 = 0 ∧ f / 2 ^ 15 = 0)
    && decide (f / 1024 % 4 ≠ 3 ∧ f / 4096 % 4 ≠ 3) && decide (st.count < 2 ^ 32 ∧ st.pos.toNat ≤ st.count)
  match st.kind with
  | 0 => zeroAt b 0 48
  | 1 => plain && f / 4096 % 8 == 0
  | 2 => plain
  | _ => fibreFieldsOk b

/-- The streams and the engine (R286, R435). -/
def streamsOk (bound : Bool) (b : List Byte) : Bool :=
  let img (j : Nat) : List Byte := (b.drop (48 * j)).take 48
  let e := (b.drop 384).take 32
  let sa := fieldAt e 1 1
  let sb := fieldAt e 2 1
  (upFrom 0 8).all (fun j => streamImageOk (img j) && ((streamOf (img j)).bnd == (bound && (j == sa || j == sb))))
    && zeroAt b 416 32 && (if bound then engineImageOk (img sa ++ img sb ++ e) else zeroAt e 0 32)

/-- A latch record (R250, R435). -/
def latchRecordOk (carried : Bool) (b : List Byte) : Bool :=
  let valid := fieldAt b 17 1
  let hold := fieldAt b 18 1
  if valid = 0 then zeroAt b 0 32 && !carried
  else valid == 1 && decide (hold ≤ 1) && carried == (hold == 1) && layOk (wordAt b 8) && decide (fieldAt b 16 1 ≤ 2)
    && zeroAt b 19 5 && (layTy (wordAt b 8) == .q4 || zeroAt b 24 8)

/-- The checks on the sections up to the DME section. -/
def midOk (b : List Byte) (m : ImgMid) : Bool :=
  (upFrom 0 32).all (fun i => !imgDirty b i || zeroAt m.vecs (imgVecOff b i + imgHwm b i) ((64 - imgHwm b i % 64) % 64))
    && (upFrom 0 16).all (fun k => regsOk (regsAt m.chans (256 * k)) && decide (fieldAt m.chans (256 * k + 232) 4 < 2 ^ 24)
      && decide (fieldAt m.chans (256 * k + 236) 1 ≤ 2) && zeroAt m.chans (256 * k + 237) 19)
    && (upFrom 0 (m.xfers.length / 256)).all (fun i => let r := regsAt m.xfers (256 * i)
      regsOk r && decide (fieldAt m.xfers (256 * i + 232) 8 ≤ totalOf r) && zeroAt m.xfers (256 * i + 240) 16)
    && streamsOk (imgFlag b 20) m.strs
    && zeroAt m.dme 4 4 && (upFrom 8 128).all (fun i => decide (1 ≤ fieldAt m.dme i 1 ∧ fieldAt m.dme i 1 ≤ 16))
    && latchRecordOk (imgFlag b 18) (m.dme.drop 136) && latchRecordOk (imgFlag b 19) (m.dme.drop 168) && zeroAt m.dme 200 56

/-- The size of a carried latch. -/
def carriedSize (flag : Bool) (lay : Word) : Nat := if flag then (if layTy lay = .q4 then 17408 else 16384) else 0

/-- The sections after the DME section. -/
structure ImgEnd where
  la : List Byte
  lb : List Byte
  xchg : List Byte
  vps : List Byte
  ab : List Byte
  stamps : List Byte
  md : List Byte
def splitEnd (b : List Byte) (m : ImgMid) (e : List Byte) : ImgEnd :=
  let na := carriedSize (imgFlag b 18) (wordAt m.dme 144)
  let nb := carriedSize (imgFlag b 19) (wordAt m.dme 176)
  let nx := if imgFlag b 17 then 64 else 0
  let nv := 256 * (imgCtl b 4).toNat
  let e1 := e.drop (na + nb)
  let e2 := e1.drop (nx + nv)
  { la := e.take na, lb := (e.drop na).take nb, xchg := e1.take nx, vps := (e1.drop nx).take nv
    ab := e2.take abSize, stamps := (e2.drop abSize).take 512, md := (e2.drop (abSize + 512)).take mdSize }
def endSize (b : List Byte) (m : ImgMid) : Nat :=
  carriedSize (imgFlag b 18) (wordAt m.dme 144) + carriedSize (imgFlag b 19) (wordAt m.dme 176) + (if imgFlag b 17 then 64 else 0)
    + 256 * (imgCtl b 4).toNat + abSize + 512 + mdSize

/-- The checks on the last sections. -/
def endOk (e : ImgEnd) : Bool :=
  let x := e.xchg
  (x.isEmpty || ((Ty.ofCode (BitVec.ofNat 5 (fieldAt x 2 1))).isPerm && decide (fieldAt x 2 1 < 15) && zeroAt x 3 1
    && decide (fieldAt x 8 1 < 32 ∧ fieldAt x 9 1 < 32) && zeroAt x 10 2
    && decide (fieldAt x 12 4 * (Ty.ofCode (BitVec.ofNat 5 (fieldAt x 2 1))).bits ≤ 65536) && zeroAt x 16 48))
    && (upFrom 0 (e.vps.length / 256)).all (fun i => decide (fieldAt e.vps (256 * i + 208) 1 < 8) && zeroAt e.vps (256 * i + 209) 47)
    && e.stamps.all fun s => decide (s.toNat < 8)

/-- A vector register of an image (R89, R90). -/
def imgVec (b : List Byte) (m : ImgMid) (i : Nat) : VecReg :=
  let tag := fieldAt b (7936 + i) 1
  let h := imgHwm b i
  { data := if imgDirty b i then BitVec.ofNat 65536 (fieldAt m.vecs (imgVecOff b i) h) else 0
    ty := Ty.ofCode (BitVec.ofNat 5 tag), span := BitVec.ofNat 3 (tag / 32)
    side := if imgSdirty b i then BitVec.ofNat 2048 (fieldAt m.sides (256 * setBelow (imgSdirty b) i) 256) else 0
    dirty := imgDirty b i, hwm := h, sdirty := imgSdirty b i }

/-- A latch of an image: one that is valid and not carried is loaded again before its first reader (R249). -/
def imgLatch (r op : List Byte) : Latch :=
  if fieldAt r 17 1 = 0 then {}
  else
    let lay := wordAt r 8
    { valid := true, hold := decide (fieldAt r 18 1 = 1), ty := layTy lay, addr := wordAt r 0, layout := lay
      scaleAddr := wordAt r 24, space := Space.ofCode (BitVec.ofNat 2 (fieldAt r 16 1)), reload := op.isEmpty
      pos := BitVec.ofNat 131072 (fieldAt op 0 16384), scales := BitVec.ofNat 8192 (fieldAt op 16384 1024) }

/-- A virtual processor of an image; its numeric state is what was set aside, or the thread's (R80). -/
def imgVp (r : List Byte) (num : BitVec 10 × Half) : Vp :=
  { w := Vector.ofFn fun i : Fin 48 => BitVec.ofNat 32 (fieldAt r (4 * i.val) 4)
    latch := Vector.ofFn fun i : Fin 2 => BitVec.ofNat 32 (fieldAt r (192 + 4 * i.val) 4)
    hold := Vector.ofFn fun i : Fin 2 => decide (fieldAt r 208 1 / 2 ^ (i.val + 1) % 2 = 1)
    next := wordAt r 200, runnable := decide (fieldAt r 208 1 % 2 = 1), nctl := num.1, seed := num.2 }

/-- The links of a restored thread: those of its launch, at the later of the saved and the delivered marks (R394). -/
def imgLinks (l : Option Launch) (tid : Nat) (m : ImgMid) : Vector LinkReg 8 :=
  Vector.ofFn fun k : Fin 8 =>
    let w := wordAt m.marks (128 + 8 * k.val)
    let now : LinkReg := match l with
      | some l => (linksOf l tid).get k
      | none => {}
    { now with en := w.getLsbD 63, mark := maxMark now.mark (w.setWidth 63) }

/-- A pending exchange of an image, its offer remade from the saved source register where that holds what was offered (R432, R434; log entry
23), where the thread stands at its `vxch`. -/
def imgExchange (x : List Byte) (old : Option Exchange) (v : VReg → VecReg) (ended : Nat → Bool) : Option Exchange :=
  if x.isEmpty then none
  else old.map fun o =>
    let peer := fieldAt x 0 1
    let va : VReg := Fin.ofNat 32 (fieldAt x 9 1)
    { o with
      peer := peer, group := fieldAt x 1 1, ord := fieldAt x 4 4, ty := Ty.ofCode (BitVec.ofNat 5 (fieldAt x 2 1))
      vl := fieldAt x 12 4, vd := Fin.ofNat 32 (fieldAt x 8 1), va := va, data := if o.saved then (v va).data else o.data
      failed := o.got.isNone && (o.failed || ended peer) }

/-- The exchange counts of a restored thread: one that is not known but from its image performs its `vxch` again, with the same ordinal. -/
def imgCounts (x : List Byte) (k : Option Kept) : List ((Nat × Nat) × Nat) :=
  match k with
  | some k => k.xchgNo
  | none => if x.isEmpty then [] else [((fieldAt x 0 1, fieldAt x 1 1), fieldAt x 4 4)]

/-- The thread of an image, but for its transfers. -/
def imgThread (b : List Byte) (m : ImgMid) (e : ImgEnd) (l : Option Launch) (nthr : Nat) (k : Option Kept) : Thread :=
  let c (i : Nat) : Word := imgCtl b i
  let resume := wordAt b 16
  let vec (r : VReg) : VecReg := imgVec b m r.val
  let nctl : BitVec 10 := (c 8).setWidth 10
  let seed : Half := (c 9).setWidth 32
  let nums := (k.map Kept.vpNum).getD []
  { x := Vector.ofFn fun i : Fin 64 => wordAt b (128 + 8 * i.val)
    v := Vector.ofFn vec
    m := Vector.ofFn fun i : Fin 8 => if i.val = 0 then 0 else BitVec.ofNat 8192 (fieldAt b (768 + 1024 * (i.val - 1)) 1024)
    vl := (c 0).toNat, ew := (ewOf (c 1).toNat).getD .w32, slip := (c 3).setWidth 4, dl := (c 5).toNat
    dmode := if c 6 = 1 then some .elem else if c 6 = 2 then some .pack else none
    mn := (c 7).setWidth 16, nctl := nctl, srseed := seed
    vstart := { word := (c 10).extractLsb' 16 2, elem := (c 10).extractLsb' 0 14 }, vstartPc := resume, vstartPl := 0
    tid := (c 11).setWidth 8, lnch := (c 12).setWidth 32, gmem := (c 13).setWidth 32, nthr := nthr
    vps := (rowsOf 256 (c 4).toNat e.vps).zipIdx.map fun p => imgVp p.1 (nums.getD p.2 (nctl, seed))
    modeDue := imgFlag b 16, lastVp := (k.map Kept.lastVp).getD (Vector.replicate 64 none)
    streams := Vector.ofFn fun j : Fin 8 => streamOf ((m.strs.drop (48 * j.val)).take 48)
    cde := cdeOf ((m.strs.drop 384).take 32)
    latchA := imgLatch ((m.dme.drop 136).take 32) e.la, latchB := imgLatch ((m.dme.drop 168).take 32) e.lb
    fill := BitVec.ofNat 32 (fieldAt m.dme 0 4)
    budget := Vector.ofFn fun i : Fin 128 => fieldAt m.dme (8 + i.val) 1
    shadow := Vector.ofFn fun k : Fin 16 => regsAt m.chans (256 * k.val)
    seqNo := Vector.ofFn fun k : Fin 16 => BitVec.ofNat 24 (fieldAt m.chans (256 * k.val + 232) 4)
    cpStatus := Vector.ofFn fun k : Fin 16 => BitVec.ofNat 2 (fieldAt m.chans (256 * k.val + 236) 1)
    wm := Vector.ofFn fun k : Fin 16 => wordAt m.marks (8 * k.val)
    lw := imgLinks l (c 11).toNat m
    xchgNo := imgCounts e.xchg k
    xchg := imgExchange e.xchg (k.bind Kept.xchg) vec fun p => l.any fun l => l.endedThreads.contains p }

/-- A paused transfer of an image put back into its channel (R433): what the image has no place for is what was set aside, or the
state of the thread. -/
def Device.imgTransfer (d : Device) (c : CoreNo) (k : Chan) (r : Vector Word 29) (cursor : Nat) (old : Option Transfer) : Device :=
  let core := d.cores.get c
  let thr := core.thr
  let t : Transfer :=
    { regs := r, q := thr.seqNo.get k
      nctl := (old.map Transfer.nctl).getD thr.nctl, seed := (old.map Transfer.seed).getD thr.srseed
      ctr := (old.map Transfer.ctr).getD ((Config.freeWord d.nextTag 1).setWidth 32)
      srcH := hullsOf (srcRanges d c r), dstH := hullsOf (dstRanges d c r), total := totalOf r, cursor := cursor, paused := true
      cleared := old.any Transfer.cleared, stamped := (old.map Transfer.stamped).getD []
      ord := (old.map Transfer.ord).getD k.val, pl := (old.map Transfer.pl).getD 0
      ptbr := (old.map Transfer.ptbr).getD core.ptbr, asid := (old.map Transfer.asid).getD core.asid }
  if cursor = 0 then d.beginTransfer c k t else d.advance c k t

/-- Every paused transfer of an image. -/
def Device.imgTransfers (d : Device) (c : CoreNo) (b : List Byte) (m : ImgMid) (kept : Option Kept) : Device :=
  ((List.finRange 16).filter fun k => imgFlag b k.val).foldl (fun e k =>
    let o := 256 * setBelow (imgFlag b) k.val
    e.imgTransfer c k (regsAt m.xfers o) (fieldAt m.xfers (o + 232) 8) (kept.bind fun x => x.transfers.get k)) d

/-- The state of R88 restored from an image (R378, R435); its thread mode begins at the return to it. The transfers of a thread that was killed
while it was saved are cancelled (R437). -/
def State.restore (s : State) (b : List Byte) (m : ImgMid) (e : ImgEnd) : State :=
  let l := s.dev.launchOn s.cur
  let lnch : Half := (imgCtl b 12).setWidth 32
  let tid : BitVec 8 := (imgCtl b 11).setWidth 8
  let kept := s.dev.kept.find? fun k => k.lnch == lnch && k.tid == tid
  let c := s.core
  let thr := imgThread b m e l ((l.map Launch.nthr).getD c.thr.nthr) kept
  let c1 := { c with
    thr := thr, ab := memPut [] 0 e.ab, md := memPut [] 0 e.md, abPoison := [], dmeta := [], late := [], vpsStopped := true
    split := c.split.set 0 (kept.bind Kept.split)
    abStamp := Vector.ofFn fun i : Fin 512 => BitVec.ofNat 3 (e.stamps.getD i.val 0).toNat
    t1 := { c.t1 with tepc := align8 (wordAt b 16), tcause := (c.t1.tcause &&& ~~~ 0x300000) ||| 0x400000 } }
  let s1 := s.setCore c1
  let d0 := s1.dev.imgTransfers s.cur b m kept
  let d := (if l.any fun l => l.cut.contains tid.toNat then d0.cancelAll s.cur else d0).pairExchange s.cur
  { s1 with dev := match l with
      | some l => d.onLaunch l.arrival fun l => { l with inFlight := l.inFlight.filter (· != tid.toNat) }
      | none => d }

/-- R378, R435: once what the queue still holds for the core has been performed. -/
def execCtxload (a : XReg) (s : State) : Out :=
  onThread s <| needLevel s 1 <|
    let xa := s.rx a
    if xa.toNat % 4096 ≠ 0 then .next (s.trap cAddress xa)
    else needOwnBuffers s <| onLate (fun _ => true) s <|
      (s.readImage xa 0 64).out fun h s1 =>
      needOperand s1 (fieldAt h 0 4 == 0xD4A0) <|
      (s1.readImage xa 0 8064).out fun b s2 =>
      needOperand s2 (fixedOk b) <|
      (s2.readImage xa 8064 (midSize b)).out fun mid s3 =>
        let m := splitMid b mid
        let n := 8064 + midSize b + endSize b m + slotAreaSize (fieldAt b 64 64)
        needOperand s3 (midOk b m && fieldAt b 4 4 == n) <|
        (s3.readImage xa (8064 + midSize b) (endSize b m)).out fun end_ s4 =>
          let e := splitEnd b m end_
          needOperand s4 (endOk e) <| .next (s4.restore b m e)

end Sys2Proof.Machine
end

