-- ==== Sys2Proof/Machine/VecInt.lean ====
section
/-!
DEFINITION. Vector integer, logic, comparison, select, broadcast, tag and index instructions, and the mask instructions
(08_isa_vector R167 to R180, R196).
-/

namespace Sys2Proof.Machine

/-- Integer forms on two sources: formed exactly, then fitted (R92, R173). -/
def vecInt2 (ty : Ty) (m : MReg) (d : VReg) (a b : VSrc) (s : State) (f : Int → Int → Int) : Out :=
  elementwise s [(a.reg, ty), (b.reg, ty)] ty.bits ty m d fun e =>
    fitInt (satOf s.num.nctl) ty (f (intOf ty ((s.rv a.reg).elem ty e)) (intOf ty ((s.rv b.reg).elem ty e)))
/-- Forms on the patterns of two sources, which wrap. -/
def vecBits2 (ty : Ty) (m : MReg) (d : VReg) (a b : VSrc) (s : State) (f : Nat → Nat → Nat) : Out :=
  elementwise s [(a.reg, ty), (b.reg, ty)] ty.bits ty m d fun e => f ((s.rv a.reg).elem ty e) ((s.rv b.reg).elem ty e)
/-- Forms on one source and a value. -/
def vecInt1 (ty : Ty) (m : MReg) (d : VReg) (a : VSrc) (s : State) (f : Int → Int) : Out :=
  elementwise s [(a.reg, ty)] ty.bits ty m d fun e =>
    fitInt (satOf s.num.nctl) ty (f (intOf ty ((s.rv a.reg).elem ty e)))
def vecBits1 (ty : Ty) (m : MReg) (d : VReg) (a : VSrc) (s : State) (f : Nat → Nat) : Out :=
  elementwise s [(a.reg, ty)] ty.bits ty m d fun e => f ((s.rv a.reg).elem ty e)
/-- An immediate as an integer of type `t` (R129). -/
def immInt (ty : Ty) (imm : BitVec 16) : Int := intOf ty (immArith ty imm)

/-- A relation of two values of type `t`: NaN makes every relation false but `ne` (R177). -/
def relHolds (c : NumCtx) (rel : Rel) (t : Ty) (x y : Nat) : Bool :=
  let le := if t.isInt then decide (intOf t x ≤ intOf t y) else fpLe false (fpIn c t x) (fpIn c t y)
  let ge := if t.isInt then decide (intOf t y ≤ intOf t x) else fpLe false (fpIn c t y) (fpIn c t x)
  match rel with
  | .eq => le && ge
  | .ne => !(le && ge)
  | .lt => le && !ge
  | .le => le
  | .gt => ge && !le
  | .ge => ge

/-- A comparison into a mask (R177). -/
def vecCmp (ty : Ty) (m d : MReg) (tags : List (VReg × Ty)) (s : State) (f : Nat → Bool) : Out :=
  onVector s <| needTags s tags <| needEw s ty.bits <|
    .next (s.finish (groupsOf s.vl ty.bits) (s.thr.setMask d ((s.active m).map fun e => (e, f e))))

/-- A mask written at bits 0 to `VL` − 1, indexed at `EW` (R196). -/
def maskOp (d : MReg) (s : State) (f : Nat → Bool) : Out :=
  onVector s (.next (s.finish (groupsOf s.vl s.ew) (s.thr.setMask d ((upFrom 0 s.vl).map fun e => (e, f e)))))

/-- A value from a mask to an x register: a lane barrier (R172, R196). -/
def maskValue (d : XReg) (s : State) (v : Word) : Out :=
  onVector s (.next ((s.finishBarrier (groupsOf s.vl s.ew) s.thr).wx d v))

/-- R173. -/
def execVadd (ty : Ty) (m : MReg) (d : VReg) (a b : VSrc) (s : State) : Out :=
  vecInt2 ty m d a b s fun x y => x + y

/-- R173. -/
def execVsub (ty : Ty) (m : MReg) (d : VReg) (a b : VSrc) (s : State) : Out :=
  vecInt2 ty m d a b s fun x y => x - y

/-- R173. -/
def execVmul (ty : Ty) (m : MReg) (d : VReg) (a b : VSrc) (s : State) : Out :=
  vecInt2 ty m d a b s fun x y => x * y

/-- R173: it always wraps. -/
def execVmulh (ty : Ty) (m : MReg) (d : VReg) (a b : VSrc) (s : State) : Out :=
  vecBits2 ty m d a b s fun x y => wrapInt ty (intOf ty x * intOf ty y / 2 ^ ty.bits)

/-- R93: it saturates only while `NCTL.SAT` = 1. -/
def execVdiv (ty : Ty) (m : MReg) (d : VReg) (a b : VSrc) (s : State) : Out :=
  vecInt2 ty m d a b s (quotInt ty)

/-- R93. -/
def execVrem (ty : Ty) (m : MReg) (d : VReg) (a b : VSrc) (s : State) : Out :=
  vecInt2 ty m d a b s remInt

/-- R173. -/
def execVmin (ty : Ty) (m : MReg) (d : VReg) (a b : VSrc) (s : State) : Out :=
  vecInt2 ty m d a b s fun x y => if x ≤ y then x else y

/-- R173. -/
def execVmax (ty : Ty) (m : MReg) (d : VReg) (a b : VSrc) (s : State) : Out :=
  vecInt2 ty m d a b s fun x y => if x ≤ y then y else x

/-- R173. -/
def execVabs (ty : Ty) (m : MReg) (d : VReg) (a : VSrc) (s : State) : Out :=
  vecInt1 ty m d a s fun x => if x < 0 then -x else x

/-- R173. -/
def execVneg (ty : Ty) (m : MReg) (d : VReg) (a : VSrc) (s : State) : Out :=
  vecInt1 ty m d a s fun x => -x

/-- R173: fitted once. -/
def execVmadd (ty : Ty) (m : MReg) (d : VReg) (a b c : VSrc) (s : State) : Out :=
  elementwise s [(a.reg, ty), (b.reg, ty), (c.reg, ty)] ty.bits ty m d fun e =>
    let g (r : VSrc) := intOf ty ((s.rv r.reg).elem ty e)
    fitInt (satOf s.num.nctl) ty (g a * g b + g c)

/-- R173: the count is taken modulo the width. -/
def execVsll (ty : Ty) (m : MReg) (d : VReg) (a b : VSrc) (s : State) : Out :=
  vecBits2 ty m d a b s (sllBits ty.bits)

/-- R173: the count is taken modulo the width. -/
def execVsrl (ty : Ty) (m : MReg) (d : VReg) (a b : VSrc) (s : State) : Out :=
  vecBits2 ty m d a b s (srlBits ty.bits)

/-- R173: the count is taken modulo the width. -/
def execVsra (ty : Ty) (m : MReg) (d : VReg) (a b : VSrc) (s : State) : Out :=
  vecBits2 ty m d a b s (sraBits ty.bits)

/-- R174. -/
def execVand (ty : Ty) (m : MReg) (d : VReg) (a b : VSrc) (s : State) : Out :=
  vecBits2 ty m d a b s fun x y => x &&& y

/-- R174. -/
def execVor (ty : Ty) (m : MReg) (d : VReg) (a b : VSrc) (s : State) : Out :=
  vecBits2 ty m d a b s fun x y => x ||| y

/-- R174. -/
def execVxor (ty : Ty) (m : MReg) (d : VReg) (a b : VSrc) (s : State) : Out :=
  vecBits2 ty m d a b s fun x y => x ^^^ y

/-- R174: a AND NOT b. -/
def execVandn (ty : Ty) (m : MReg) (d : VReg) (a b : VSrc) (s : State) : Out :=
  vecBits2 ty m d a b s fun x y => x &&& (y ^^^ (2 ^ ty.bits - 1))

/-- R174. -/
def execVnot (ty : Ty) (m : MReg) (d : VReg) (a : VSrc) (s : State) : Out :=
  vecBits1 ty m d a s fun x => x ^^^ (2 ^ ty.bits - 1)

/-- R175. -/
def execVaddi (ty : Ty) (m : MReg) (d : VReg) (a : VSrc) (imm : BitVec 16) (s : State) : Out :=
  vecInt1 ty m d a s fun x => x + immInt ty imm

/-- R175. -/
def execVmuli (ty : Ty) (m : MReg) (d : VReg) (a : VSrc) (imm : BitVec 16) (s : State) : Out :=
  vecInt1 ty m d a s fun x => x * immInt ty imm

/-- R175. -/
def execVmini (ty : Ty) (m : MReg) (d : VReg) (a : VSrc) (imm : BitVec 16) (s : State) : Out :=
  vecInt1 ty m d a s fun x => if x ≤ immInt ty imm then x else immInt ty imm

/-- R175. -/
def execVmaxi (ty : Ty) (m : MReg) (d : VReg) (a : VSrc) (imm : BitVec 16) (s : State) : Out :=
  vecInt1 ty m d a s fun x => if x ≤ immInt ty imm then immInt ty imm else x

/-- R175: the immediate is zero-extended. -/
def execVandi (ty : Ty) (m : MReg) (d : VReg) (a : VSrc) (imm : BitVec 16) (s : State) : Out :=
  vecBits1 ty m d a s fun x => x &&& imm.toNat

/-- R175: the immediate is zero-extended. -/
def execVori (ty : Ty) (m : MReg) (d : VReg) (a : VSrc) (imm : BitVec 16) (s : State) : Out :=
  vecBits1 ty m d a s fun x => x ||| imm.toNat

/-- R175: the immediate is zero-extended. -/
def execVxori (ty : Ty) (m : MReg) (d : VReg) (a : VSrc) (imm : BitVec 16) (s : State) : Out :=
  vecBits1 ty m d a s fun x => x ^^^ imm.toNat

/-- R175. -/
def execVslli (ty : Ty) (m : MReg) (d : VReg) (a : VSrc) (n : BitVec 5) (s : State) : Out :=
  vecBits1 ty m d a s fun x => sllBits ty.bits x n.toNat

/-- R175. -/
def execVsrli (ty : Ty) (m : MReg) (d : VReg) (a : VSrc) (n : BitVec 5) (s : State) : Out :=
  vecBits1 ty m d a s fun x => srlBits ty.bits x n.toNat

/-- R175. -/
def execVsrai (ty : Ty) (m : MReg) (d : VReg) (a : VSrc) (n : BitVec 5) (s : State) : Out :=
  vecBits1 ty m d a s fun x => sraBits ty.bits x n.toNat

/-- R177. -/
def execVcmpi (rel : Rel) (ty : Ty) (m d : MReg) (a : VSrc) (imm : BitVec 16) (s : State) : Out :=
  vecCmp ty m d [(a.reg, ty)] s fun e => relHolds s.num rel ty ((s.rv a.reg).elem ty e) (immArith ty imm)

/-- R177. -/
def execVcmp (rel : Rel) (ty : Ty) (m d : MReg) (a b : VSrc) (s : State) : Out :=
  vecCmp ty m d [(a.reg, ty), (b.reg, ty)] s fun e =>
    relHolds s.num rel ty ((s.rv a.reg).elem ty e) ((s.rv b.reg).elem ty e)

/-- R178. -/
def execVsel (ty : Ty) (d : VReg) (a b : VSrc) (c : MReg) (s : State) : Out :=
  elementwise s [(a.reg, ty), (b.reg, ty)] ty.bits ty 0 d fun e =>
    if s.thr.maskBit c e then (s.rv a.reg).elem ty e else (s.rv b.reg).elem ty e

/-- R178: unconverted. -/
def execVbcast (ty : Ty) (m : MReg) (d : VReg) (a : XReg) (s : State) : Out :=
  elementwise s [] ty.bits ty m d fun _ => xbits ty (s.rx a)

/-- R179: contents, sidecar, dirty bit, HWM and sidecar-dirty bit are copied whole. -/
def execVtag (d : VReg) (a : VSrc) (tag : Ty) (span : BitVec 3) (s : State) : Out :=
  onVector s (.next (s.finish (groupsOf s.vl s.ew) (s.thr.setV d { s.rv a.reg with ty := tag, span := span })))

/-- R180: one rounding. -/
def execVidx (ty : Ty) (m : MReg) (d : VReg) (start step : BitVec 16) (s : State) : Out :=
  elementwise s [] ty.bits ty m d fun e =>
    if ty.isInt then fitInt (satOf s.num.nctl) ty (immInt ty start + e * immInt ty step)
    else fpOut s.num .ctl e ty (fpAdd (rdnFor s.num .ctl ty) (fpIn s.num ty (immFloat ty start))
      (fpMul (fpOfInt e) (fpIn s.num ty (immFloat ty step))))

/-- R176: the signed value is added to every element below `VL`. -/
def execVaddiR (d : VReg) (imm : BitVec 14) (s : State) : Out :=
  onVector s <|
    let v := s.rv d
    if v.ty.isVInt = false then .next (s.formatTrap d)
    else needEw s v.ty.bits <|
      let l := (upFrom 0 s.vl).map fun e => (e, fitInt (satOf s.num.nctl) v.ty (intOf v.ty (v.elem v.ty e) + imm.toInt))
      .next (s.finish (groupsOf s.vl v.ty.bits) (s.thr.setV d ((s.thr.v.get d).write v.ty l)))

/-- R176, R90: no format check; codes and sidecar bytes of a `q4` source. -/
def execVmov (d a : VReg) (s : State) : Out :=
  onVector s <|
    let v := s.rv a
    let l := (upFrom 0 s.vl).map fun e => (e, v.elem v.ty e)
    let w := (s.thr.v.get d).write v.ty l
    if v.ty = .q4 then
      let n := (s.vl + 31) / 32
      let side := (upFrom 0 n).foldl (fun x b => elemSet x 8 b (elemGet v.side 8 b)) w.side
      .next (s.finish (groupsOf s.vl 4) (s.thr.setV d { w with side := side, sdirty := w.sdirty || decide (0 < n) }))
    else needEw s v.ty.bits (.next (s.finish (groupsOf s.vl v.ty.bits) (s.thr.setV d w)))

/-- R196. -/
def execMand (d a b : MReg) (s : State) : Out :=
  maskOp d s fun e => s.thr.maskBit a e && s.thr.maskBit b e

/-- R196. -/
def execMor (d a b : MReg) (s : State) : Out :=
  maskOp d s fun e => s.thr.maskBit a e || s.thr.maskBit b e

/-- R196. -/
def execMxor (d a b : MReg) (s : State) : Out :=
  maskOp d s fun e => xor (s.thr.maskBit a e) (s.thr.maskBit b e)

/-- R196. -/
def execMandn (d a b : MReg) (s : State) : Out :=
  maskOp d s fun e => s.thr.maskBit a e && !s.thr.maskBit b e

/-- R196. -/
def execMnot (d a : MReg) (s : State) : Out :=
  maskOp d s fun e => !s.thr.maskBit a e

/-- R196. -/
def execMset (d : MReg) (s : State) : Out :=
  maskOp d s fun _ => true

/-- R196. -/
def execMpopc (d : XReg) (a : MReg) (s : State) : Out :=
  maskValue d s (BitVec.ofNat 64 (s.active a).length)

/-- R196. -/
def execMfirst (d : XReg) (a : MReg) (s : State) : Out :=
  maskValue d s <|
    match (s.active a).head? with
    | some e => BitVec.ofNat 64 e
    | none => BitVec.allOnes 64

end Sys2Proof.Machine
end

