-- ==== Sys2Proof/Machine/Cross.lean ====
section
/-!
DEFINITION. Reductions, scans, segmented reductions and permutations (08_isa_vector R190 to R192), which are implicit lane
barriers (R172), in the orders of chapter 05 (R110 to R112).
-/

namespace Sys2Proof.Machine

/-- The operations of reductions and scans. -/
inductive Red
  | sum | min | max | and | or | xor
  deriving DecidableEq, Repr

/-- Terms combined one after another, from an initial value or from none (R110). -/
def foldTerms {β : Type} (f : β → β → β) (init : Option β) (l : List β) : Option β :=
  l.foldl (fun acc x => match acc with | some a => some (f a x) | none => some x) init

/-- Two integer terms combined exactly. -/
def redInt (op : Red) (x y : Int) : Int :=
  match op with
  | .sum => x + y
  | .min => if x ≤ y then x else y
  | .max => if x ≤ y then y else x
  | .and => (x.toNat &&& y.toNat : Nat)
  | .or => (x.toNat ||| y.toNat : Nat)
  | .xor => (x.toNat ^^^ y.toNat : Nat)

/-- The identity of an integer reduction (Table 8.5). -/
def identInt (op : Red) (ty : Ty) : Int :=
  match op with
  | .min => intMax ty
  | .max => intMin ty
  | .and => intMax ty
  | _ => 0

/-- The identity of a floating reduction of accumulation type `ty` (Table 8.5). -/
def identFp (op : Red) (ty : Ty) : Nat :=
  match op with
  | .min => infBits ty false
  | .max => infBits ty true
  | _ => 0

/-- The mode of a reduction's additions: `NCTL.RM`, with STO as RNE (R107, R110). -/
def redMode (c : NumCtx) : Mode := match rmOf c.nctl with | .sto => .rne | _ => .ctl

/-- A NaN result is canonical (R96). -/
def canonical (t : Ty) (v : Nat) : Nat := match fpOf t v with | .nan => canonNan t | _ => v

/-- A floating reduction over positions 0 to `vl − 1` with accumulation type `ty` for elements of `w` bits: sums in the order in
force (R112), minimum and maximum exact and flushed as results (R108). DESIGN CHOICE: a sum of one term, which no addition makes, is that
term, not flushed (Table 5.8, R110; log entry 98). -/
def redFp (c : NumCtx) (op : Red) (ty : Ty) (w vl : Nat) (init : Option Nat) (p : Nat → Option Nat) : Nat :=
  match op with
  | .sum =>
    (match sumOrder c.nctl w vl (faddBits c (redMode c) 0 ty) init p with
      | some v => canonical ty v
      | none => identFp op ty)
  | _ =>
    let l := (upFrom 0 vl).filterMap p
    let f := if op = .min then fminBits c ty else fmaxBits c ty
    (match foldTerms f init l with
      | some v => f v v
      | none => identFp op ty)

/-- An integer reduction over positions: exact, fitted once (R92, R190). -/
def redIntAll (c : NumCtx) (op : Red) (ty : Ty) (vl : Nat) (init : Option Int) (p : Nat → Option Nat) : Nat :=
  match foldTerms (redInt op) init ((upFrom 0 vl).filterMap fun e => (p e).map (intOf ty)) with
  | some v => fitInt (satOf c.nctl && op == .sum) ty v
  | none => wrapInt ty (identInt op ty)

/-- The terms of a source: the active elements; a floating operand is flushed under `NCTL.FTZ` (R108). -/
def State.term (s : State) (ty : Ty) (m : MReg) (v : VecReg) (e : Nat) : Option Nat :=
  if s.thr.maskBit m e then
    some (if ty.isInt then v.elem ty e else flushBits (ftzOf s.num.nctl) ty (v.elem ty e))
  else none

/-- A reduction into an x register (R190). -/
def reduce (op : Red) (ty : Ty) (m : MReg) (d : XReg) (a : VSrc) (b : XReg) (s : State) : Out :=
  onVector s <| needTags s [(a.reg, ty)] <| needEw s ty.bits <|
    let v := s.rv a.reg
    let x := s.rx b
    let r : Word :=
      if ty.isInt then
        xextBits ty (redIntAll s.num op ty s.vl (if b = 0 then none else some (intOf ty x.toNat)) (s.term ty m v))
      else
        let acc := if op = .sum then Ty.f32 else ty
        let widen (n : Nat) : Nat := if op = .sum ∧ ty ≠ .f32 then roundFp .f32 .rne 0 (fpOf ty n) else n
        BitVec.ofNat 64 (redFp s.num op acc ty.bits s.vl (if b = 0 then none else some (flushBits (ftzOf s.num.nctl) acc (xbits acc x)))
          fun e => (s.term ty m v e).map widen)
    .next ((s.finishBarrier (groupsOf s.vl ty.bits) s.thr).wx d r)

/-- The head of the segment of position `e` (R191). -/
def segHead (head : Nat → Bool) : Nat → Nat
  | 0 => 0
  | e + 1 => if head (e + 1) then e + 1 else segHead head e

/-- The reduction of positions `lo` to `hi − 1`, which keep their element numbers (R112, R191). -/
def partialRed (s : State) (op : Red) (ty : Ty) (m : MReg) (v : VecReg) (lo hi : Nat) : Nat :=
  let p (e : Nat) : Option Nat := if lo ≤ e then s.term ty m v e else none
  if ty.isInt then redIntAll s.num op ty hi none p else redFp s.num op ty ty.bits hi none p

/-- Results of a cross-lane instruction at the elements named (R172). -/
def crossLane (s : State) (tags : List (VReg × Ty)) (w : Nat) (t : Ty) (d : VReg) (l : List (Nat × Nat)) : Out :=
  onVector s <| needTags s tags <| needEw s w <|
    .next (s.finishBarrier (groupsOf s.vl w) (s.thr.setV d ((s.thr.v.get d).write t l)))

/-- Whether an element begins a segment under a head mask; `m0` in the C field of a scan names no segments (R191). -/
def State.heads (s : State) (c : MReg) (e : Nat) : Bool := decide (c ≠ 0) && s.thr.maskBit c e

/-- A scan, inclusive or exclusive (R191). -/
def scan (op : Red) (ty : Ty) (m : MReg) (d : VReg) (a : VSrc) (c : MReg) (ex : Bool) (s : State) : Out :=
  let v := s.rv a.reg
  crossLane s [(a.reg, ty)] ty.bits ty d <| (s.active m).map fun e =>
    (e, partialRed s op ty m v (segHead (s.heads c) e) (if ex then e else e + 1))

/-- A segmented reduction: each segment's value to its last element below `VL` (R191). -/
def segmented (op : Red) (ty : Ty) (m : MReg) (d : VReg) (a : VSrc) (c : MReg) (s : State) : Out :=
  let v := s.rv a.reg
  crossLane s [(a.reg, ty)] ty.bits ty d <|
    ((upFrom 0 s.vl).filter fun e => decide (e + 1 = s.vl) || s.heads c (e + 1)).map fun e =>
      (e, partialRed s op ty m v (segHead (s.heads c) e) (e + 1))

/-- The elements below `VL` that a C mask selects, in order (R192). -/
def State.selected (s : State) (c : MReg) : List Nat := s.active c

/-- R190. -/
def execVredsum (ty : Ty) (m : MReg) (d : XReg) (a : VSrc) (b : XReg) (s : State) : Out :=
  reduce .sum ty m d a b s

/-- R190. -/
def execVredmin (ty : Ty) (m : MReg) (d : XReg) (a : VSrc) (b : XReg) (s : State) : Out :=
  reduce .min ty m d a b s

/-- R190. -/
def execVredmax (ty : Ty) (m : MReg) (d : XReg) (a : VSrc) (b : XReg) (s : State) : Out :=
  reduce .max ty m d a b s

/-- R190. -/
def execVredand (ty : Ty) (m : MReg) (d : XReg) (a : VSrc) (b : XReg) (s : State) : Out :=
  reduce .and ty m d a b s

/-- R190. -/
def execVredor (ty : Ty) (m : MReg) (d : XReg) (a : VSrc) (b : XReg) (s : State) : Out :=
  reduce .or ty m d a b s

/-- R190. -/
def execVredxor (ty : Ty) (m : MReg) (d : XReg) (a : VSrc) (b : XReg) (s : State) : Out :=
  reduce .xor ty m d a b s

/-- R191. -/
def execVscansum (ty : Ty) (m : MReg) (d : VReg) (a : VSrc) (c : MReg) (ex : Bool) (s : State) : Out :=
  scan .sum ty m d a c ex s

/-- R191. -/
def execVscanmin (ty : Ty) (m : MReg) (d : VReg) (a : VSrc) (c : MReg) (ex : Bool) (s : State) : Out :=
  scan .min ty m d a c ex s

/-- R191. -/
def execVscanmax (ty : Ty) (m : MReg) (d : VReg) (a : VSrc) (c : MReg) (ex : Bool) (s : State) : Out :=
  scan .max ty m d a c ex s

/-- R191. -/
def execVsegsum (ty : Ty) (m : MReg) (d : VReg) (a : VSrc) (c : MReg) (s : State) : Out :=
  segmented .sum ty m d a c s

/-- R191. -/
def execVsegmin (ty : Ty) (m : MReg) (d : VReg) (a : VSrc) (c : MReg) (s : State) : Out :=
  segmented .min ty m d a c s

/-- R191. -/
def execVsegmax (ty : Ty) (m : MReg) (d : VReg) (a : VSrc) (c : MReg) (s : State) : Out :=
  segmented .max ty m d a c s

/-- R192: elements below k keep their bits. -/
def execVslideup (ty : Ty) (m : MReg) (d : VReg) (a : VSrc) (b : XReg) (s : State) : Out :=
  let k := (s.rx b).toNat
  crossLane s [(a.reg, ty)] ty.bits ty d <| ((s.active m).filter fun e => decide (k ≤ e)).map fun e =>
    (e, (s.rv a.reg).elem ty (e - k))

/-- R192. -/
def execVslidedn (ty : Ty) (m : MReg) (d : VReg) (a : VSrc) (b : XReg) (s : State) : Out :=
  let k := (s.rx b).toNat
  crossLane s [(a.reg, ty)] ty.bits ty d <| (s.active m).map fun e =>
    (e, if e + k < s.vl then (s.rv a.reg).elem ty (e + k) else 0)

/-- R192. -/
def execVrot (ty : Ty) (m : MReg) (d : VReg) (a : VSrc) (b : XReg) (s : State) : Out :=
  let k := (s.rx b).toNat
  crossLane s [(a.reg, ty)] ty.bits ty d <| (s.active m).map fun e => (e, (s.rv a.reg).elem ty ((e + k) % s.vl))

/-- R192: the indexes are `z16` for types of 8 and 16 bits, `z32` for those of 32. DESIGN CHOICE: for a type of 64 bits, which no EW holds,
they are `z16` too (log entry 88). -/
def execVperm (ty : Ty) (m : MReg) (d : VReg) (a b : VSrc) (s : State) : Out :=
  let it := if ty.bits = 32 then Ty.z32 else .z16
  crossLane s [(a.reg, ty), (b.reg, it)] (max ty.bits it.bits) ty d <| (s.active m).map fun e =>
    let i := (s.rv b.reg).elem it e
    (e, if i < s.vl then (s.rv a.reg).elem ty i else 0)

/-- R192. -/
def execVcompress (ty : Ty) (d : VReg) (a : VSrc) (c : MReg) (s : State) : Out :=
  crossLane s [(a.reg, ty)] ty.bits ty d <| ((s.selected c).zipIdx).map fun p => (p.2, (s.rv a.reg).elem ty p.1)

/-- R192. -/
def execVexpand (ty : Ty) (d : VReg) (a : VSrc) (c : MReg) (s : State) : Out :=
  crossLane s [(a.reg, ty)] ty.bits ty d <| ((s.selected c).zipIdx).map fun p => (p.1, (s.rv a.reg).elem ty p.2)

end Sys2Proof.Machine
end

