-- ==== Sys2Proof/Machine/Hamper.lean ====
section
/-!
DEFINITION. Hampers (09_isa_memory R228 to R235): descriptors, operations at the home slice, the pairing tables and the two
switches, and the instructions of control threads and of virtual processors. An operation that may pair is sent when its convoy
commits; the convoy commits for good when the value returns (22 R427).
-/

namespace Sys2Proof.Machine

/-- Fields of a descriptor (Table 9.6). -/
def hBase (m : Memory) (a : Nat) : Nat := memLoad m a 8
def hCap (m : Memory) (a : Nat) : Nat := memLoad m (a + 8) 4
def hCount (m : Memory) (a : Nat) : Nat := memLoad m (a + 12) 4
def hSent (m : Memory) (a : Nat) : Word := BitVec.ofNat 64 (memLoad m (a + 16) 8)
def hFlags (m : Memory) (a : Nat) : Nat := memLoad m (a + 24) 1

/-- Invalid() (R230, R231). -/
def hInvalid (m : Memory) (a : Nat) : Bool :=
  hBase m a % 8 != 0 || hCap m a == 0 || memLoad m (a + 25) 1 != 3 || decide (4 ≤ hFlags m a)
    || !zeroAt (memBytes m (a + 26) 38) 0 38

/-- The quarter of the home slice of a physical address (R19). -/
def homeQuarter (pa : Nat) : Fin 4 := Fin.ofNat 4 (sliceOf pa / 32)

/-- `hinit` at the home slice, for a launch of a partition (R230): the status. DESIGN CHOICE: on a core that runs no launch the holder
recorded is the core's `LNCH` (log entry 82). -/
def Device.hinit (d : Device) (own : Option CoreNo) (pa : Nat) (pid : BitVec 8) (id : Half) : Device × Nat :=
  if hInvalid d.mem pa then (d, 2)
  else
    let d1 := d.put own (pa + 12) (valBytes 0 4)
    let fl := hFlags d.mem pa
    if fl / 2 % 2 = 0 then (d1, 0)
    else
      let q := homeQuarter pa
      let t := d1.pairTab.get q
      let mine (e : PairEntry) : Bool := e.addr == pa && e.pid == pid
      if t.any mine then
        ({ d1 with pairTab := d1.pairTab.set q.val (t.map fun e =>
            if mine e && !e.holders.contains id then { e with holders := e.holders ++ [id] } else e) q.isLt }, 0)
      else if t.length < 64 then
        ({ d1 with pairTab := d1.pairTab.set q.val (t ++ [{ addr := pa, pid := pid, holders := [id] }]) q.isLt }, 0)
      else (d1.put own (pa + 24) (valBytes (fl - 2) 1), 1)

/-- The issuing thread's address space (R231). -/
structure HSpace where
  pid : BitVec 8
  asid : BitVec 16
  root : Word
  pl : BitVec 2

def HSpace.core (h : HSpace) : Core :=
  { Core.atReset with pl := h.pl, ptbr := h.root, asid := h.asid, part := { pid := h.pid } }

/-- A storage element, or nothing for StorageFault() (R231). -/
def Device.hStorage (d : Device) (h : HSpace) (a : Nat) (pop : Bool) : Option Nat :=
  match lookup d h.core h.pl (if pop then .block else .vecStore) (BitVec.ofNat 64 a) with
  | .ok pa _ => if isMem pa && !(pop && poisoned 64 d.poison pa 8) then some pa else none
  | .fault .. => none

/-- Which element a pop takes (R231): the last of a LIFO; of a BAG any one, but the last where its place cannot be written. -/
def Device.hPick (d : Device) (h : HSpace) (pa t : Nat) : Nat :=
  let n := hCount d.mem pa
  let k := Config.bagPick t % n
  if hFlags d.mem pa % 2 = 1 ∧ (d.hStorage h (hBase d.mem pa + 8 * k) false).isSome then k else n - 1

/-- A push or a pop at the home slice (R231): the status or the value. A BAG keeps its storage dense: its last element takes the
place of the one that goes. -/
def Device.hamperHome (d : Device) (own : Option CoreNo) (h : HSpace) (pa : Nat) (push : Option Word) : Device × Word :=
  let m := d.mem
  match push with
  | some v =>
    if hInvalid m pa then (d, 3)
    else if hCap m pa ≤ hCount m pa then (d, 2)
    else
      match d.hStorage h (hBase m pa + 8 * hCount m pa) false with
      | none => (d, 3)
      | some st =>
        let d1 := d.put own st (valBytes v.toNat 8)
        (d1.put own (pa + 12) (valBytes (hCount m pa + 1) 4), 0)
  | none =>
    if hInvalid m pa || hCount m pa == 0 then (d, hSent m pa)
    else
      let last := hCount m pa - 1
      let k := d.hPick h pa d.nextTag
      match d.hStorage h (hBase m pa + 8 * k) true, d.hStorage h (hBase m pa + 8 * last) true with
      | some st, some sl =>
        let v := memLoad m st 8
        let d0 : Device := { d with nextTag := d.nextTag + 1 }
        let d1 := d0.put own (pa + 12) (valBytes last 4)
        (if k = last then d1 else d1.put own st (valBytes (memLoad m sl 8) 8), BitVec.ofNat 64 v)
      | _, _ => (d, hSent m pa)

/-- The storage elements that a push or a pop reads or writes (R231). -/
def Device.hPlaces (d : Device) (h : HSpace) (pa : Nat) (push : Bool) : List Nat :=
  let m := d.mem
  let n := hCount m pa
  if hInvalid m pa then []
  else if push then (if hCap m pa ≤ n then [] else (d.hStorage h (hBase m pa + 8 * n) false).toList)
  else if n = 0 then []
  else
    (d.hStorage h (hBase m pa + 8 * d.hPick h pa d.nextTag) true).toList ++ (d.hStorage h (hBase m pa + 8 * (n - 1)) true).toList

/-- A core has sent a write to the descriptor and to those elements (R338). -/
def Core.touchHamper (c : Core) (pa : Nat) (ps : List Nat) : Core := ps.foldl Core.touch (c.touch pa)

/-- The storage a push or a pop may access (R231), as the issuing thread addresses it. -/
def hRange (m : Memory) (pa : Nat) (push : Bool) : Hull :=
  let b := hBase m pa
  let n := hCount m pa
  if push then ⟨0, b + 8 * n, b + 8 * n + 8⟩ else ⟨0, if hFlags m pa % 2 = 1 then b else b + 8 * (n - 1), b + 8 * n⟩

/-- The transfers of the issuing thread that come before its access of the storage have passed it (R304, R323); nothing where one waits
for the host. -/
def Device.settleStorage (d : Device) (c : CoreNo) (level : BitVec 2) (pa : Nat) (push : Bool) : Option Device :=
  if hInvalid d.mem pa then some d else d.settle c level none true (hRange d.mem pa push)

/-- Whether an operation is held at the switches: its descriptor is in the pairing table of the home quarter for its partition,
and the window is not 0 (R233, R420). -/
def Device.mayPair (d : Device) (pa : Nat) (pid : BitVec 8) : Bool :=
  let q := homeQuarter pa
  (d.pairTab.get q).any (fun e => e.addr == pa && e.pid == pid) && d.pwin.get q != 0

/-- The column of a core within its quarter, and its place in the column (R232). -/
def columnOf (c : CoreNo) : Nat := c.val % 48 / 8

/-- The input of an operation at the slice switch of a home quarter (R232). -/
def sliceInput (c : CoreNo) (q : Nat) : Nat :=
  let o := quarterOf c
  if o = q then columnOf c else 6 + (if o < q then o else o - 1)

/-- An operation enters the fabric (R232): at the column switch of its core, or at the slice switch of another quarter; `firm` is one whose
convoy, or AIB, can no longer be discarded. -/
def Device.sendHop (d : Device) (c : CoreNo) (lane : Option LaneNo) (h : HSpace) (va : Word) (pa : Nat) (push : Option Word) (firm : Bool) :
    Device × Nat :=
  let tag := d.nextTag
  let q := (homeQuarter pa).val
  let near := decide (quarterOf c = q)
  ({ d with
    nextTag := tag + 1
    hops := d.hops ++ [{ tag := tag, va := va, core := c, lane := lane, pid := h.pid, asid := h.asid, root := h.root, pl := h.pl
                         desc := pa, push := push, firm := firm, stage := if near then 0 else 1, seq := tag
                         input := if near then c.val % 8 else sliceInput c q }] }, tag)

/-- The switch an operation is held at: the stage, and which one. -/
def Hop.switch (h : Hop) : Nat × Nat :=
  if h.stage = 0 then (0, quarterOf h.core * 6 + columnOf h.core) else (h.stage, sliceOf h.desc)

/-- The order of operations held at a switch (R233). -/
def hopLt (a b : Hop) : Bool := decide (a.seq < b.seq) || (a.seq == b.seq && decide (a.input < b.input))
def insertHop (h : Hop) : List Hop → List Hop
  | [] => [h]
  | g :: t => if hopLt h g then h :: g :: t else g :: insertHop h t

/-- The operations held at the switch of an operation, in the order of R233. -/
def Device.heldWith (d : Device) (h : Hop) : List Hop :=
  (d.hops.filter fun g => decide (g.stage < 2) && g.switch == h.switch).foldl (fun l g => insertHop g l) []

/-- Whether two operations can pair (R233, R420). -/
def Hop.opposite (a b : Hop) : Bool := a.desc == b.desc && a.pid == b.pid && a.push.isSome != b.push.isSome

/-- The first operation of an ordered list that has a partner, with its first partner (R233). -/
def firstPair : List Hop → Option (Hop × Hop)
  | [] => none
  | h :: t =>
    match t.find? h.opposite with
    | some g => some (h, g)
    | none => firstPair t

/-- The value of an operation returns to its sender. -/
def Device.deliverHop (d : Device) (h : Hop) (v : Word) : Device :=
  let d1 : Device := { d with hops := d.hops.filter fun g => g.tag != h.tag }
  d1.onCore h.core fun c =>
    match h.lane with
    | none =>
      (match c.wait with
        | some (.value tag x none) => if tag = h.tag then { c with wait := some (.value tag x (some v)) } else c
        | _ => c)
    | some l =>
      (match c.thr.aib.get l with
        | some r =>
          (match r.hop with
            | some o =>
              if o.tag = some h.tag then
                { c with thr := { c.thr with aib := c.thr.aib.set l.val (some { r with hop := some { o with v := some v } }) l.isLt } }
              else c
            | none => c)
        | none => c)

def Device.hopNo (d : Device) (n : Nat) : Option Hop := d.hops.find? fun h => h.tag == n

/-- A match at the switch that holds operation `n` (R233, R234): the push returns 1, the pop the value pushed. -/
def Device.pairMatch (d : Device) (n : Nat) : Device :=
  match d.hopNo n with
  | none => d
  | some h =>
    if 2 ≤ h.stage then d
    else
      match firstPair (d.heldWith h) with
      | none => d
      | some (a, b) =>
        let v := (a.push.or b.push).getD 0
        let give (e : Device) (g : Hop) : Device := e.deliverHop g (if g.push.isSome then 1 else v)
        give (give d a) b

/-- Operation `n` is matched now, where it can be, after the pairs that its switch forms first (R233). -/
def Device.matchNow (d : Device) (n : Nat) : Device := (List.range d.hops.length).foldl (fun e _ => e.pairMatch n) d
/-- An operation just sent whose descriptor is poisoned does not wait at its switch for a partner: it has one there, or goes on. -/
def Device.settleHop (d : Device) (n : Nat) : Device :=
  match d.hopNo n with
  | some h => if poisoned 64 d.poison h.desc 64 then d.matchNow n else d
  | none => d

/-- The window of operation `n` ends (R233): it moves on, unless the switch has a pair to form first. At its next switch it is held under
the window in force when it arrives there (R373). -/
def Device.windowEnds (d : Device) (n : Nat) : Device :=
  match d.hopNo n with
  | none => d
  | some h =>
    if 2 ≤ h.stage ∨ (firstPair (d.heldWith h)).isSome then d
    else
      let q := (homeQuarter h.desc).val
      let h1 : Hop :=
        if h.stage = 0 && d.mayPair h.desc h.pid then { h with stage := 1, seq := d.nextTag, input := sliceInput h.core q }
        else { h with stage := 2 }
      { d with nextTag := d.nextTag + 1, hops := d.hops.map fun g => if g.tag = n then h1 else g }

/-- A sender whose operation finds its descriptor poisoned at home takes the memory error there (R439), where nothing before the operation has
been performed: a control thread discards its convoy, a virtual processor its AIB (R45, R62, R428; log entry 47). -/
def Core.hopError (c : Core) (h : Hop) : Core :=
  match h.lane with
  | none =>
    (match c.wait with
      | some (.value tag _ none) =>
        if tag = h.tag then { ((c.setSplit none).enterTrap cMemErr false false 0 h.va c.pc) with wait := none } else c
      | _ => c)
  | some l =>
    match c.thr.aib.get l with
    | none => c
    | some r =>
      if r.hop.any fun o => o.tag == some h.tag then
        let p := c.thr.vps.getD r.vp {}
        let t := c.thr.setVp r.vp { p with trap := some (cMemErr, h.va), runnable := false, held := true }
        { c with thr := { t with aib := t.aib.set l.val none l.isLt } }
      else c

/-- Operation `n`, unpaired and past its last switch, executes at home (R231, R233): nothing yet where a transfer of its thread that comes
first waits for the host, or where an earlier instruction of its thread still waits for the storage (R304, R328); nor does one that can no
longer be discarded read a poisoned descriptor (R61; log entry 109). -/
def Device.hopHome (d : Device) (n : Nat) : Device :=
  match d.hopNo n with
  | none => d
  | some h =>
    if h.stage < 2 then d
    else if poisoned 64 d.poison h.desc 64 then
      if h.firm then d else ({ d with hops := d.hops.filter fun g => g.tag != h.tag } : Device).onCore h.core fun c => c.hopError h
    else
      match d.settleStorage h.core h.pl h.desc h.push.isSome with
      | none => d
      | some d1 =>
        let sp : HSpace := ⟨h.pid, h.asid, h.root, h.pl⟩
        let ps := d1.hPlaces sp h.desc h.push.isSome
        if h.lane.isNone && ps.any (fun p => (d1.cores.get h.core).lateHolds h.pl ⟨0, p, p + 8⟩) then d
        else
          let own := if h.lane.isNone && h.pl == 0 then some h.core else none
          let r := d1.hamperHome own sp h.desc h.push
          (r.1.onCore h.core fun c => c.touchHamper h.desc ps).deliverHop h r.2

/-! ### Instructions -/

/-- The address space of what runs. -/
def State.hspace (s : State) : HSpace := ⟨s.core.part.pid, s.core.asid, s.core.ptbr, s.level⟩

/-- A descriptor's address checked before commit (R229, R439): aligned, translated and readable; one that is sent is read at home alone. -/
def State.descAt (s : State) (acc : AccKind) (sent : Bool) (a : Word) : Acc Nat :=
  (s.globalAt acc a 64 none).bind fun ph s1 =>
    if s1.lateMeets ⟨0, ph.pa, ph.pa + 64⟩ then .stop (stall s1)
    else (s1.settle true ⟨0, a.toNat, a.toNat + 64⟩).bind fun _ s2 =>
      if physPoisoned s2.dev ph a.toNat 64 && !(sent && s2.dev.mayPair ph.pa s2.core.part.pid) then .stop (.next (s2.trap cMemErr a))
      else .ok ph.pa s2

/-- R230. -/
def execHinit (_scope : Scope) (d a : XReg) (s : State) : Out :=
  onThread s <|
    (s.descAt .rmw false (s.rx a)).out fun pa s1 =>
      let r := s1.dev.hinit s1.agent pa s1.core.part.pid s1.thr.lnch
      .next (({ s1 with dev := r.1.onCore s1.cur fun c => c.touch pa }).wx d (BitVec.ofNat 64 r.2))

/-- The order of an operation (R234, R329): a push releases. -/
def hopOrder (push : Option Word) : Order := if push.isSome then .rel else .acq

/-- Whether an operation that can no longer be discarded must not be sent: its descriptor is poisoned, and no partner stands at its switch, so
that it would read it at home. DESIGN CHOICE: it takes the memory error before it is sent, and no memory error strikes the descriptor of one
on its way (R45, R61, R439; log entry 109). -/
def Device.hopRefused (r : Device × Nat) (firm : Bool) (pa : Nat) : Bool :=
  firm && poisoned 64 r.1.poison pa 64 && ((r.1.matchNow r.2).hopNo r.2).isSome

/-- Whether an instruction stands before the one that runs in its convoy. -/
def State.notFirst (s : State) : Bool := s.ctx.wordIdx != 0 || s.ctx.src.isSome || s.ctx.sent || s.ctx.idled

/-- R231, R233: an operation that may pair is sent when its convoy commits as far as it; any other executes at home at once. -/
def hamperOp (push : Option Word) (d a : XReg) (s : State) : Out :=
  onThread s <|
    (s.descAt .rmw true (s.rx a)).out fun pa s0 => onOrder (hopOrder push) s0 <|
      let s1 := s0.releaseFor (hopOrder push)
      if s1.ctx.stop.isSome then .next s1
      else if s1.dev.mayPair pa s1.core.part.pid then
        let r := s1.dev.sendHop s1.cur none s1.hspace (s.rx a) pa push s.notFirst
        if Device.hopRefused r s.notFirst pa then .next (s1.trap cMemErr (s.rx a))
        else .next (({ s1 with dev := r.1 } : State).stopAt (.hop r.2 d) s.restHere)
      else
        match s1.dev.settleStorage s1.cur s1.level pa push.isSome with
        | none => stall s1
        | some e =>
          let ps := e.hPlaces s1.hspace pa push.isSome
          if ps.any fun p => s1.lateMeets ⟨0, p, p + 8⟩ then stall s1
          else
            let r := e.hamperHome s1.agent s1.hspace pa push
            .next (({ s1 with dev := r.1.onCore s1.cur fun c => c.touchHamper pa ps }).wx d r.2)

/-- R229, R231. -/
def execHpush (_scope : Scope) (d a b : XReg) (s : State) : Out := hamperOp (some (s.rx b)) d a s

/-- R229, R231. -/
def execHpop (_scope : Scope) (d a : XReg) (s : State) : Out := hamperOp none d a s

/-- R229. -/
def execHstat (_scope : Scope) (d a : XReg) (s : State) : Out :=
  onThread s <|
    (s.descAt .block false (s.rx a)).out fun pa s1 =>
      let m := s1.dev.mem
      .next (s1.wx d (BitVec.ofNat 32 (hCap m pa) ++ BitVec.ofNat 32 (hCount m pa)))

/-- The descriptor address of a VP form (R235). -/
def vpDesc (s : State) (r : VpRun) (a : WReg) : Word := s.rw r (Fin.ofNat 48 (a.val + 1)) ++ s.rw r a

/-- The VP forms (R61, R235): checked here, sent when every check of the AIB's last convoy has passed; what follows then runs again
with the value. -/
def hamperVp (push : VpRun → Option Word) (d a : WReg) (s : State) : Out :=
  onVp s fun r =>
    if r.hop.isSome then illegal s
    else
      (s.descAt .rmw true (vpDesc s r a)).out fun pa s1 =>
        .next (s1.setRun { r with
          unk := [d]
          hop := some {
            va := vpDesc s r a, desc := pa, push := push r, d := d, pre := r.stores.length, st := r.st, puts := r.puts
            rest := s1.restAfter } })

/-- R235. -/
def execHpushVp (_scope : Scope) (d a b : WReg) (s : State) : Out := hamperVp (fun r => some ((s.rw r b).setWidth 64)) d a s

/-- R235. -/
def execHpopVp (_scope : Scope) (d a : WReg) (s : State) : Out := hamperVp (fun _ => none) d a s

end Sys2Proof.Machine
end

