-- ==== Sys2Proof/Machine/Issue.lean ====
section
/-!
DEFINITION. Issue and commit (03 R36 to R45, R58 to R63): the fetch of a convoy (06 R116), the shape checks of decode (R135), the commit
of a convoy and the waits that hold it (09 R219, 22 R427), and the start and end of an AIB (R58 to R61).
-/

namespace Sys2Proof.Machine

/-! ### Fetch -/

/-- One instruction word fetched (R116). DESIGN CHOICE: it is the word as memory holds it then, also where a thread of the running launch has
written it (R322; log entry 103). -/
def State.fetchWord (s : State) (a : Word) : Acc Word :=
  (s.translate .fetch a none).bind fun ph s1 =>
    if physPoisoned s1.dev ph a.toNat 8 then .stop (.next (s1.trapAt cMemErr a none))
    else .ok (BitVec.ofNat 64 (memLoad s1.dev.mem ph.pa 8)) s1

/-- Words up to the first with E set, at most `n` (R36). -/
def fetchFrom : Nat → Word → State → Acc (List Word)
  | 0, _, s => .ok [] s
  | n + 1, a, s =>
    (s.fetchWord a).bind fun w s1 =>
      if lastBit w then .ok [w] s1
      else (fetchFrom n (a + 8) s1).bind fun t s2 => .ok (w :: t) s2

/-- A fetched convoy stands before its first word. -/
def State.openConvoy (s : State) (a : Word) (ws : List Word) : State :=
  let next := a + BitVec.ofNat 64 (8 * ws.length)
  { s with ctx := { s.ctx with
      active := true, words := ws, checked := false, low := false, addr := a, next := next, npc := next
      word := ws.headD 0, wordAddr := a, wordIdx := 0, high := false, src := none, vpSrc := none, stage := none } }

/-- The rest of a convoy whose first word lies at an address, about to run: decode has checked it, and it holds the translations of its checks
(R42, R376). -/
def restCtx (pc : Word) (r : Rest) : Ctx :=
  let at_ := pc + BitVec.ofNat 64 (8 * r.idx)
  let next := at_ + BitVec.ofNat 64 (8 * r.words.length)
  { active := true, words := r.words, checked := true, addr := pc, next := next, npc := next, word := r.words.headD 0, wordAddr := at_
    wordIdx := BitVec.ofNat 2 r.idx, stage := r.stage, pin := r.pin, sent := r.sent }

/-- A part of a core once a convoy that waited goes on: what the convoy's words made of it, else what it is now. -/
def goesOn {α : Type} [DecidableEq α] (before ahead now : α) : α := if ahead = before then now else ahead

/-- The same of each of a file of registers, which the instructions of the vector queue go on writing. -/
def goesOnEach {α : Type} [DecidableEq α] {n : Nat} (before ahead now : Vector α n) : Vector α n :=
  Vector.ofFn fun i => goesOn (before.get i) (ahead.get i) (now.get i)

/-- The core of a convoy that waited: the registers as its words before the waiting one left them (R219), and all that others act on as it
is now. -/
def Held.core (h : Held) (now : Core) : Core :=
  let b := h.before
  let a := h.ahead
  { now with
    x1 := goesOnEach b.x1 a.x1 now.x1, x2 := goesOnEach b.x2 a.x2 now.x2, t1 := goesOn b.t1 a.t1 now.t1, t2 := goesOn b.t2 a.t2 now.t2
    ptbr := goesOn b.ptbr a.ptbr now.ptbr, asid := goesOn b.asid a.asid now.asid
    am := goesOnEach b.am a.am now.am
    late := now.late ++ a.late.drop b.late.length, lateNo := a.lateNo
    opBase := goesOn b.opBase a.opBase now.opBase, opSlips := goesOn b.opSlips a.opSlips now.opSlips
    laneDone := goesOn b.laneDone a.laneDone now.laneDone
    thr := { now.thr with
      x := goesOnEach b.thr.x a.thr.x now.thr.x, v := goesOnEach b.thr.v a.thr.v now.thr.v, m := goesOnEach b.thr.m a.thr.m now.thr.m
      vl := goesOn b.thr.vl a.thr.vl now.thr.vl, ew := goesOn b.thr.ew a.thr.ew now.thr.ew
      slip := goesOn b.thr.slip a.thr.slip now.thr.slip, dl := goesOn b.thr.dl a.thr.dl now.thr.dl
      dmode := goesOn b.thr.dmode a.thr.dmode now.thr.dmode, mn := goesOn b.thr.mn a.thr.mn now.thr.mn
      nctl := goesOn b.thr.nctl a.thr.nctl now.thr.nctl, srseed := goesOn b.thr.srseed a.thr.srseed now.thr.srseed
      vps := goesOn b.thr.vps a.thr.vps now.thr.vps, streams := goesOn b.thr.streams a.thr.streams now.thr.streams
      cde := goesOn b.thr.cde a.thr.cde now.thr.cde, latchA := goesOn b.thr.latchA a.thr.latchA now.thr.latchA
      latchB := goesOn b.thr.latchB a.thr.latchB now.thr.latchB, fill := goesOn b.thr.fill a.thr.fill now.thr.fill
      budget := goesOn b.thr.budget a.thr.budget now.thr.budget, shadow := goesOn b.thr.shadow a.thr.shadow now.thr.shadow } }

/-- The convoy that waits on a core. -/
def State.held (s : State) : Option Held :=
  match s.core.wait with
  | some (.waiting _) => (s.dev.held.get s.cur).filter fun h => !h.rest.words.isEmpty
  | _ => none
def State.setHeld (s : State) (h : Option Held) : State :=
  { s with dev := { s.dev with held := s.dev.held.set s.cur.val h s.cur.isLt } }

/-- What stood still for a `ctxsave` that waits goes on when its convoy begins again, which may trap before it comes to that instruction (R45). -/
def Core.resumed (c : Core) : Core :=
  match c.wait with
  | some .saving => { c with vpsStopped := false, thr := c.thr.resumeTransfers }
  | _ => c

/-- The core begins its next convoy, from the device as it stands: one that waits at its waiting instruction, one whose first words stand
at the next, any other with its fetch. -/
def State.startConvoy (s : State) : Out :=
  let c := s.core.resumed
  let a := c.pc
  let s1 := s.setCore c
  let s0 : State := { s1 with base := s1.dev }
  match s.held, c.splitHere with
  | some h, _ => .next { ((s0.setHeld none).setCore (h.core c)) with ctx := restCtx a h.rest }
  | none, some r => .next { (s0.setCore (c.setSplit none)) with ctx := restCtx a r }
  | none, none =>
    let s1 : State := { (s0.setCore (c.setSplit none)) with ctx := { active := true, addr := a, wordAddr := a } }
    (fetchFrom 4 a s1).out fun ws s2 => .next (s2.openConvoy a ws)

/-! ### The shape of a convoy -/

/-- What has been seen of a convoy, word by word. -/
structure Shape where
  /-- destinations that no later word reads (R44, R193) -/
  dx : List XReg := []
  dv : List VReg := []
  commits : Nat := 0
  waits : Bool := false
  values : Nat := 0
  exchanges : Nat := 0
  hops : Nat := 0
  fetched : Bool := false
  vecs : Nat := 0
  deriving DecidableEq, Repr

/-- Whether the next vector-unit instruction takes the stage of a `vbfly` with NW = 1 (R188). -/
def takesStage (ty : Ty) (d : VReg) : List Instr → Bool
  | [] => false
  | i :: t =>
    match i with
    | .vqnt u _ _ a => u == ty && a.reg == d && a.chained
    | _ => if (info i).vec then false else takesStage ty d t

/-- Instructions that the convoy rules single out (R132, R193, R235): an exchange, a hamper operation of a VP, a `vfetch`. -/
def isExchange (i : Instr) : Bool := match i with | .vxch .. => true | _ => false
def isHopVp (i : Instr) : Bool := match i with | .hpushVp .. => true | .hpopVp .. => true | _ => false
def isVfetch (i : Instr) : Bool := match i with | .vfetch _ => true | _ => false
/-- Whether the stage of a `vbfly` with NW = 1 has its taker among the instructions after it (R188). -/
def stageTaken (i : Instr) (after : List Instr) : Bool := match i with | .vbfly ty d _ _ true _ => takesStage ty d after | _ => true

/-- One instruction against the shape so far: whether it stands in the last word, in an AIB, in a convoy with a terminator; the
instructions after it (R37, R38, R44, R54, R56, R61, R188, R193, R219). -/
def Shape.add (h : Shape) (last vp ends : Bool) (i : Instr) (after : List Instr) : Option Shape :=
  let f := info i
  let place := match f.place with | .both => true | .vp => vp | .thread => !vp | .event => false
  let exchange := isExchange i
  let hop := isHopVp i
  let n : Shape :=
    { dx := f.value.toList ++ h.dx, dv := (if exchange then f.wv else []) ++ h.dv
      commits := h.commits + (if f.commit then 1 else 0), waits := h.waits || f.waiting
      values := h.values + (if f.value.isSome then 1 else 0), exchanges := h.exchanges + (if exchange then 1 else 0)
      hops := h.hops + (if hop then 1 else 0), fetched := h.fetched || isVfetch i, vecs := h.vecs + (if f.vec then 1 else 0) }
  let ok := place && (last || !f.transfer) && decide (n.vecs ≤ 4) && !(h.fetched && f.vec) && stageTaken i after &&
    (if vp then !hop || (ends && decide (n.hops ≤ 1))
    else !(n.waits && decide (2 ≤ n.commits)) && decide (n.values ≤ 1 ∧ n.exchanges ≤ 1))
  if ok then some n else none

/-- Whether a word reads a destination no later word may read. DESIGN CHOICE: a `vqnt` that takes the stage of a `vbfly` reads the register its
A field names, in this rule (R188, R193; log entry 78). -/
def Shape.clashes (h : Shape) (is : List Instr) : Bool :=
  is.any fun i => (info i).rx.any h.dx.contains || (info i).rv.any h.dv.contains

/-- The instructions of a word against the shape so far. -/
def Shape.addAll (last vp ends : Bool) (rest : List Instr) : List Instr → Shape → Option Shape
  | [], h => some h
  | i :: t, h =>
    match h.add last vp ends i (t ++ rest) with
    | some n => Shape.addAll last vp ends rest t n
    | none => none

/-- The first word that fails a check, of decoded words in convoy order (R135). -/
def badWord (vp ends : Bool) : List (Word × Option (List Instr)) → Shape → Option Word
  | [], _ => none
  | (w, none) :: _, _ => some w
  | (w, some is) :: t, h =>
    if h.clashes is then some w
    else
      match Shape.addAll t.isEmpty vp ends (t.flatMap fun p => p.2.getD []) is h with
      | some n => badWord vp ends t n
      | none => some w

/-- The instructions of a word, where it is one. -/
noncomputable def wordInstrs (w : Word) : Option (List Instr) :=
  match decodeWord w with
  | .ok b => some b.instrs
  | .error _ => none

/-- The word for which decode refuses a convoy (R36, R135). -/
noncomputable def convoyFault (vp : Bool) (ws : List Word) : Option Word :=
  let l := ws.map fun w => (w, wordInstrs w)
  let ends := l.any fun p => (p.2.getD []).any fun i => (info i).term
  match ws.getLast? with
  | none => some 0
  | some w => if lastBit w then badWord vp ends l {} else some w

/-! ### Commit -/

/-- An arrival made (R225, R226, R338), or an offer (R194), with what its instruction waits for then. -/
def State.arriveAt (s : State) (w : WaitCond) : State :=
  let wait (s : State) (w : WaitCond) : State := s.setCore { s.core with wait := some (.waiting w) }
  match w with
  | .gsync g gen st =>
    let s2 := (wait s (.gsync g gen st)).released
    (match s2.dev.launchOn s2.cur with
      | some l => { s2 with dev := s2.dev.groupArrive l.arrival g }
      | none => s2)
  | .gsyncW pa _ _ =>
    let s2 := (wait s (.gsyncW pa (BitVec.ofNat 32 (memLoad s.dev.mem (pa + 8) 4)) none)).released
    { s2 with dev := (s2.dev.arriveWord s2.agent pa).1.onCore s2.cur fun c => c.touch pa }
  | .exchange (some x) => (wait s (.exchange none)).offer x
  | _ => wait s w

/-- The convoy waits (R219, R194): nothing of it has taken effect but an arrival or an offer, which is made once. One that waits in a `vxch` runs
again from its first word. -/
def State.holdWait (s : State) (w : WaitCond) (dev : Device) (r : Rest) : State :=
  let s1 : State := { s with dev := s.base }
  let begun := match s1.core.wait, w with
    | some (.waiting _), .exchange (some _) => false
    | some (.waiting _), _ => true
    | _, _ => false
  let s2 := if begun then s1 else s1.arriveAt w
  let h : Held := { rest := r, before := s1.core, ahead := dev.cores.get s.cur }
  (s2.setHeld (match w with | .exchange _ => none | _ => some h)).endConvoy

/-- The convoy commits as far as the instruction it stops at, which comes next (R42). -/
def State.commitTo (s : State) (w : Option Wait) (dev : Device) (r : Rest) : State :=
  let s1 : State := { s with dev := dev }
  s1.setCore ({ s1.core with wait := w }.setSplit (some r))

/-- The translations that what runs has made, for what of it runs later (R42, R376): those it runs with, or else the TLB that its checks have
filled. -/
def State.pins (s : State) : List TlbEntry := if s.ctx.pin.isEmpty then s.core.tlb else s.ctx.pin

/-- The convoy of the control thread commits (R42): after an interrupt that was pending when it began, which squashes it (R426), and
as far as the instruction it stops at, with the translations of all its checks (R376). One that must wait for thread mode to end does not
commit (R65). -/
def State.commitThread (s : State) : Out :=
  match s.before with
  | some s1 => .next s1
  | none =>
    match s.ctx.stop with
    | none =>
      let s1 := s.commitHere
      .next (s1.setCore { s1.core with pc := s1.ctx.npc }).endConvoy
    | some st =>
      let r : Rest := { st.rest with pin := s.pins }
      match st.why with
      | .wait c => .next (s.holdWait c st.dev r)
      | .hop tag d =>
        let s1 := s.commitTo (some (.value tag d none)) st.dev r
        .next ({ s1 with dev := s1.dev.settleHop tag } : State).endConvoy
      | .mode => .next (s.commitTo none st.dev { r with sent := true }).endConvoy
      | .again => .next (s.stallFor .retry)

/-- A held store performed (R61, R166); into the buffer of a core retired meanwhile nothing goes (R23; log entry 86). -/
def Device.heldStore (d : Device) (c : CoreNo) (h : HeldStore) : Device :=
  if d.isRetired c then d else (d.localPut ⟨c, false, h.addr⟩ (valBytes h.v.toNat h.n)).onCore c fun o => o.touchBuf c

/-- Held stores performed in order, each after the transfers of the thread that come before it (R304); nothing where one of those waits for
the host. -/
def Device.heldStores (c : CoreNo) (level : BitVec 2) : List HeldStore → Device → Option Device
  | [], d => some d
  | h :: t, d =>
    match d.settle c level none true ⟨(⟨c, false, h.addr⟩ : Local).bufNo, h.addr, h.addr + h.n⟩ with
    | some e => Device.heldStores c level t (e.heldStore c h)
    | none => none

/-! ### The end of an AIB -/

/-- The VP after its AIB (R157). -/
def VpRun.after (r : VpRun) : Vp :=
  match r.term with
  | some (.goto a) => { r.st with next := a, runnable := true }
  | _ => { r.st with runnable := false, hold := Vector.replicate 2 false }

/-- A `wput` made effective (R163). -/
def Thread.put (t : Thread) (v : Nat) (p : VReg × Half) : Thread :=
  let o := t.v.get p.1
  t.setV p.1 { o with data := elemSet o.data 32 v p.2.toNat, span := 0, dirty := true, hwm := max o.hwm (4 * (v + 1)) }

/-- The AIB of a lane completes (R61): its stores are performed, its writes take effect, its terminator acts. Nothing happens yet where a
transfer that comes before a store waits for the host. -/
def Device.completeAib (d : Device) (c : CoreNo) (lane : LaneNo) : Device :=
  match (d.cores.get c).thr.aib.get lane with
  | none => d
  | some r =>
    match Device.heldStores c (d.cores.get c).thr.vpLevel r.stores d with
    | none => d
    | some d1 =>
      d1.onCore c fun o =>
        let t0 := r.puts.reverse.foldl (fun t p => t.put r.vp p) o.thr
        let t1 := { (t0.setVp r.vp r.after) with aib := t0.aib.set lane.val none lane.isLt }
        { o with thr := { t1 with threadMode := t1.threadMode && t1.vpsGoOn } }

/-- The AIB of the lane set aside until AIB_COMPLETE. -/
def State.keepAib (s : State) (r : VpRun) : State :=
  (s.setThr { s.thr with aib := s.thr.aib.set s.ctx.lane.val (some r) s.ctx.lane.isLt }).endConvoy

/-- An AIB has run to its terminator and every check has passed (R61): its hamper operation is sent, after the stores before it; it is
then in progress until AIB_COMPLETE. One that has run again with the value of its hamper operation is complete. -/
def State.finishAib (s : State) (r : VpRun) : State :=
  match r.hop with
  | none => s.keepAib r
  | some h0 =>
    let h : VpHop := { h0 with rest := { h0.rest with pin := s.pins } }
    if h.v.isSome then
      let s1 := s.keepAib r
      { s1 with dev := s1.dev.completeAib s1.cur s.ctx.lane }
    else
      match Device.heldStores s.cur s.level (r.stores.take h.pre) s.dev with
      | none => s.stallFor .retry
      | some d =>
        let s1 : State := { s with dev := d }
        let s2 := s1.releaseFor (hopOrder h.push)
        if s2.dev.mayPair h.desc s2.core.part.pid then
          let q := s2.dev.sendHop s2.cur (some s2.ctx.lane) s2.hspace h.va h.desc h.push (decide (0 < h.pre))
          if Device.hopRefused q (decide (0 < h.pre)) h.desc then s.trapVp r cMemErr h.va
          else
            let s3 := ({ s2 with dev := q.1 } : State).keepAib { r with hop := some { h with tag := some q.2 } }
            { s3 with dev := s3.dev.settleHop q.2 }
        else
          match s2.dev.settleStorage s2.cur s2.level h.desc h.push.isSome with
          | none => s.stallFor .retry
          | some e =>
            let ps := e.hPlaces s2.hspace h.desc h.push.isSome
            let q := e.hamperHome none s2.hspace h.desc h.push
            ({ s2 with dev := q.1.onCore s2.cur fun c => c.touchHamper h.desc ps } : State).keepAib
              { r with hop := some { h with v := some q.2 } }

/-- The words of an AIB after its hamper operation run with its value (R61, R159). -/
def State.resumeAib (s : State) (lane : LaneNo) (r : VpRun) (h : VpHop) (v : Word) : State :=
  let p : Vp := { h.st with w := h.st.w.set h.d.val (v.setWidth 32) h.d.isLt }
  { s with
    base := s.dev
    ctx := { restCtx r.pc h.rest with
      lane := lane, sent := true, vp := some { r with st := p, puts := h.puts, stores := [], term := none, unk := [], unkHeld := false } } }

/-- AIB_COMPLETE (R61): nothing while its hamper operation is on its way; a terminator always follows that. -/
def State.aibComplete (s : State) (lane : LaneNo) : State :=
  match s.thr.aib.get lane with
  | none => s
  | some r =>
    match r.hop with
    | none => { s with dev := s.dev.completeAib s.cur lane }
    | some h =>
      match h.v with
      | none => s
      | some v => if h.rest.words.isEmpty then s else s.resumeAib lane r h v

/-- A convoy of an AIB is complete: the AIB is, or its next convoy begins; a VP that completes 32 without a terminator traps (R54). DESIGN
CHOICE: no word fails a check there, and `TVAL` holds the last word run (R135; log entry 77). -/
def State.nextOfAib (s : State) (r : VpRun) : Out :=
  if r.term.isSome then .next (s.finishAib r)
  else if 31 ≤ r.done then illegal s
  else
    let r1 : VpRun := { r with pc := s.ctx.next, done := r.done + 1 }
    (fetchFrom 4 r1.pc (s.setRun r1)).out fun ws s1 => .next (s1.openConvoy r1.pc ws)

/-- R42: the convoy whose instructions have all run commits. -/
def execConvoyCommit (s : State) : Out :=
  if s.ctx.active && s.ctx.words.isEmpty then
    match s.ctx.vp with
    | some r => s.nextOfAib r
    | none => s.commitThread
  else .next s

/-! ### The start of an AIB -/

/-- The VP a lane runs next (R52, R59). -/
def Thread.nextVp (t : Thread) (lane : LaneNo) : Option Nat :=
  let mine := (upFrom 0 t.vps.length).filter fun v => v / 16 % 64 == lane.val && (t.vps.getD v {}).runnable
  match t.lastVp.get lane with
  | some l => (mine.find? fun v => decide (l < v)).or mine.head?
  | none => mine.head?

/-- A lane begins the next AIB of a runnable VP (R58, R59). -/
def State.startAib (s : State) (lane : LaneNo) : Out :=
  let c := s.core
  let t := c.thr
  if s.dev.stopped || c.mode != .run || !t.threadMode || c.vpsStopped || (t.aib.get lane).isSome then .next s
  else
    match t.nextVp lane with
    | none => .next s
    | some v =>
      let p := t.vps.getD v {}
      let s1 := s.setThr { t with lastVp := t.lastVp.set lane.val (some v) lane.isLt }
      let s2 : State := { s1 with
        base := s1.dev
        ctx := { active := true, lane := lane, addr := p.next, wordAddr := p.next, vp := some { vp := v, st := p, pc := p.next } } }
      (fetchFrom 4 p.next s2).out fun ws s3 => .next (s3.openConvoy p.next ws)

end Sys2Proof.Machine
end

