-- ==== Sys2Proof/Machine/Events.lean ====
section
/-!
DEFINITION. The device events of the opcode table: what each does when the agenda gives it its turn (log entry 2). An event of a core is
one of the core whose turn it is. Where the condition of an event does not hold, it does not happen: the turn passes.
-/

namespace Sys2Proof.Machine

/-- An event that changes the device. -/
def onDevice (f : Device → Device) (s : State) : Out := .next { s with dev := f s.dev }

/-- One that may need a record of a slot, a completion or an error: while the record lacks space in its event ring, it waits (R453). Those that
may need many go on record by record (`Device.stepwise`). -/
def withRecord (f : Device → Device) (s : State) : Out :=
  onDevice (fun d => if [1, 2, 5].any (d.needsSpace (f d)) then d else f d) s

/-! ### Cores -/

/-- Completes an element-group operation in a lane, and forgets those every lane has completed (R47, R48). -/
def Core.laneStep (c : Core) (lane : LaneNo) : Core :=
  let n := c.laneDone.get lane + 1
  match c.opSlips[n - 1 - c.opBase]? with
  | none => c
  | some slip =>
    if c.opBase < n ∧ c.laneDone.all (fun k => decide (n ≤ k + slip.toNat + 1)) then
      let done := c.laneDone.set lane.val n lane.isLt
      let low := done.foldl min n
      { c with laneDone := done, opSlips := c.opSlips.drop (low - c.opBase), opBase := low }
    else c

/-- R48. -/
def execElementGroupOperation (lane : LaneNo) (s : State) : Out := .next (s.setCore (s.core.laneStep lane))

/-- The causes of synchronous traps that discard their convoy (R45, Table 22.1). -/
def syncCause (c : BitVec 8) : Bool :=
  let n := c.toNat
  decide ((1 ≤ n ∧ n ≤ 0x08) ∨ n = 0x0B ∨ (0x10 ≤ n ∧ n ≤ 0x14) ∨ (0x18 ≤ n ∧ n ≤ 0x1C))

/-- Whether the oldest convoy of a core can still be discarded: a sent value-returning operation commits first (R427), and one that waits for the
vector queue after its thread's last convoy has none (R65, R66). -/
def Core.discardable (c : Core) : Bool :=
  c.mode == .run && (match c.wait with | some (.value ..) | some .ending | some (.dying _) => false | _ => true)

/-- A trap that discards a waiting convoy withdraws its arrival (R219); a vector memory fault is recorded in `VSTART` (R84). -/
def State.trapOldest (s : State) (cause : BitVec 8) (f : FaultAt) : State :=
  let s1 : State := { s with dev := (s.dev.squash s.cur).getD s.dev }
  let s2 := s1.setCore { s1.core.resumed with wait := none }
  let s3 : State := { s2 with base := s2.dev, ctx := { s2.ctx with wordIdx := (f.vec.map Prod.fst).getD 0 } }
  let s4 := s3.trapThread cause f.val (f.vec.map fun p => p.2.toNat)
  { s4 with ctx := { s4.ctx with trapped := false } }

/-- R45, R371: a synchronous trap of the oldest convoy. -/
def execTrapEntry (cause : BitVec 8) (tval : FaultAt) (s : State) : Out :=
  .next (if s.core.discardable && syncCause cause then s.trapOldest cause tval else s)

/-- R428. -/
def execVpTrap (s : State) : Out :=
  .next (match s.core.thr.trappedVp, s.dev.squash s.cur with
    | some v, some d =>
      if s.core.ie && s.core.mode == .run then
        let s1 : State := { s with dev := d }
        (s1.setCore (s1.core.takeVp v)).endConvoy
      else s
    | _, _ => s)

/-- An interrupt taken at a boundary, where it is pending and enabled, and no convoy must commit first (R425 to R427). -/
def takePending (k : Irq) (s : State) : Out :=
  .next (match s.dev.squashFor s.cur k with
    | some d => if s.core.ie && s.dev.takes s.cur k && s.core.mode != .off then (({ s with dev := d } : State).takeIrq k).getD s else s
    | none => s)

/-- R431. -/
def execPreempt (s : State) : Out := takePending .preempt s
/-- R435. -/
def execResume (s : State) : Out := takePending .resume s
/-- R436. -/
def execSpill (s : State) : Out := takePending .spill s
/-- R437. -/
def execKill (s : State) : Out := takePending .kill s
/-- R451. -/
def execMailbox (s : State) : Out := takePending .mailbox s

/-- R58, R59. -/
def execAibBegin (lane : LaneNo) (s : State) : Out := s.startAib lane
/-- R61. -/
def execAibComplete (lane : LaneNo) (s : State) : Out := .next (s.aibComplete lane)

/-- R219: a convoy that waits begins again, now that its condition may hold; it commits with its result, or waits on. -/
def execWaitComplete (s : State) : Out :=
  match s.core.wait with
  | some (.waiting _) => if s.dev.stopped then .next s else s.startConvoy
  | _ => .next s

/-- R221: the interval of a polled page ends; the next is twice as long, and after 65,536 cycles the instruction completes. -/
def execWaitWPoll (s : State) : Out :=
  match s.core.wait with
  | some (.waiting (.polled a x n)) =>
    let m := if 65536 ≤ n then 0 else 2 * n
    if s.dev.stopped then .next s else (s.setCore { s.core with wait := some (.waiting (.polled a x m)) }).startConvoy
  | _ => .next s

/-! ### Hampers, home slices and translation -/

/-- R231. -/
def execHamperHomeOp (n : Nat) (s : State) : Out := onDevice (·.hopHome n) s
/-- R233, R234. -/
def execPairMatch (n : Nat) (s : State) : Out := onDevice (·.pairMatch n) s
/-- R233. -/
def execPairWindowExpiry (n : Nat) (s : State) : Out := onDevice (·.windowEnds n) s

/-- R408, R414: a walk that ends at a leaf makes an entry. -/
def execPageWalk (acc : AccKind) (va : Word) (s : State) : Out :=
  let c := s.core
  if c.pl = 2 then .next s
  else
    match lookupVirt s.dev c c.pl acc va.toNat with
    | .ok _ leaf => .next (s.setCore (c.fill va.toNat leaf))
    | .fault .. => .next s

/-- R429: a NOMAP fault of the oldest convoy is served from the pending-map table, or delivered. -/
def execTranslationServer (acc : AccKind) (va : FaultAt) (s : State) : Out :=
  let c := s.core
  if c.pl = 2 ∨ hwXlt s.dev = false ∨ c.discardable = false then .next s
  else
    match lookupVirt s.dev c c.pl acc va.val.toNat with
    | .ok .. => .next s
    | .fault kind lvl entry =>
      if kind ≠ kNomap then .next s
      else
        match s.dev.serve c va.val.toNat lvl entry with
        | some d => .next { s with dev := d }
        | none => .next (s.trapOldest (match acc with | .fetch => cFetch | _ => cData) va)

/-- R212, R226, R283: one indivisible step in the write queue. -/
def execWriteQueueExecution (op : HomeOp) (s : State) : Out :=
  let pa := match op with | .amo _ _ a _ _ => a | .arrive a => a | .claim a _ => a
  onDevice (fun d => if isMem pa then (d.homeOp none s.num op).1 else d) s

/-- R338. -/
def execSliceAcknowledgement (sl : SliceNo) (s : State) : Out :=
  .next (s.setCore { s.core with touched := s.core.touched &&& ~~~ (1#128 <<< sl.val) })

/-! ### The copy engine -/

/-- R295, R308 to R310. -/
def execCopyElement (k : Chan) (s : State) : Out := onDevice (·.stepChannel s.cur k) s

/-- R311: in hardware mode, once every page has been served. -/
def execSpillReplay (k : Chan) (s : State) : Out :=
  onDevice (fun d => d.onTransfer s.cur k fun d t => if t.served && !d.duty.getLsbD 2 then d.replaySpills s.cur k else d) s

/-- R300: nothing of the transfer is left. -/
def execTransferComplete (k : Chan) (s : State) : Out :=
  onDevice (fun d => d.onTransfer s.cur k fun d t => if t.pending.isEmpty then d.advance s.cur k t else d) s

/-- R264. -/
def execDmetaWrite (s : State) : Out := .next (s.setCore s.core.writeMeta)

/-- R461. -/
def execRemoteAcknowledge (k : Chan) (s : State) : Out := onDevice (·.acknowledge s.cur k) s

/-- R459, R460. -/
def execRemoteElementApply (addr : Nat) (data : List Byte) (s : State) : Out := onDevice (·.remoteApply addr data) s

/-! ### The command processor -/

/-- R389, R395. -/
def execSlotTake (q : QueueNo) (s : State) : Out := withRecord (·.readSlot q) s
/-- R389: the slot at the head is read again. -/
def execSlotReread (q : QueueNo) (s : State) : Out := withRecord (·.readSlot q) s
/-- R396. -/
def execStarvation (n : Nat) (s : State) : Out := onDevice (·.starve n) s
/-- R397 to R399. -/
def execDispatch (p : PartNo) (s : State) : Out := onDevice (·.dispatchStep p) s
/-- R431. -/
def execPreemptionComplete (n : Nat) (s : State) : Out := onDevice (·.preemptionDone n) s

/-- R395: a launch whose preloads cannot be applied ends before its first convoy. -/
def execPreloadFault (n : Nat) (s : State) : Out :=
  withRecord (fun d =>
    match d.launchNo n with
    | some l => if l.loading = .failed then d.endLaunch l 1 7 else d
    | none => d) s

/-- R29, R403. -/
def execLaunchComplete (n : Nat) (s : State) : Out :=
  withRecord (fun d =>
    match d.launchNo n with
    | some l => if d.complete l then d.endLaunch l (if l.killed then 2 else 0) 0 else d
    | none => d) s

/-- R402. -/
def execReplayStart (n : Nat) (s : State) : Out := withRecord (·.startReplay n) s

/-! ### The host -/

/-- R388, R449. -/
def execDoorbellTail (q : QueueNo) (u : Half) (s : State) : Out := withRecord (·.doorbell q u) s
/-- R451. -/
def execRing (c : CoreNo) (s : State) : Out := onDevice (·.ring c) s
/-- R451. -/
def execAlert (c : CoreNo) (s : State) : Out := onDevice (fun d => { d with msix := d.msix ++ [4 + c.val] }) s
/-- R454. -/
def execDispatchCommand (p : PartNo) (s : State) : Out := onDevice (·.runDispatch p) s
/-- R454. -/
def execPreemptCommand (p : PartNo) (s : State) : Out := onDevice (fun d => d.command p 2 (·.cmdPreempt p)) s
/-- R430, R454. -/
def execAnswer (p : PartNo) (s : State) : Out := onDevice (fun d => d.command p 3 (·.cmdAnswer p)) s
/-- R311, R454. -/
def execReplay (p : PartNo) (s : State) : Out := onDevice (fun d => d.command p 4 (·.cmdReplay p)) s
/-- R454, R460. -/
def execProceed (p : PartNo) (s : State) : Out := onDevice (fun d => d.command p 5 (·.cmdProceed p)) s
/-- R454, R469. -/
def execVerdict (p : PartNo) (s : State) : Out := onDevice (fun d => d.command p 6 (·.cmdVerdict p)) s
/-- R447. -/
def execHostWindowWrite (addr : Nat) (data : List Byte) (s : State) : Out := onDevice (·.hostWrite addr data) s
/-- R448. -/
def execHostWindowRead (addr n : Nat) (s : State) : Out := onDevice (·.hostRead addr n) s
/-- R6, R449 to R456, R464. -/
def execRegisterWrite (addr n : Nat) (v : Word) (s : State) : Out :=
  onDevice (fun d => if isDevReg addr then d.regWrite true 0 addr n v.toNat else d) s
/-- R453. -/
def execEread (p : PartNo) (v : Half) (s : State) : Out := onDevice (·.setEread p v) s
/-- R455. -/
def execFlitCrcRetry (p : PortNo) (s : State) : Out := onDevice (·.flitRetry p) s
/-- R455. -/
def execPortDown (p : PortNo) (s : State) : Out := withRecord (·.portDown p) s
/-- R455. -/
def execPortRetrain (p : PortNo) (s : State) : Out := onDevice (·.retrain p) s

/-! ### Bring-up, power and errors -/

/-- R467: a device reset stops whatever runs. -/
def execDeviceReset (s : State) : Out := .next ({ s with dev := s.dev.restart } : State).endConvoy
/-- R466 to R469. -/
def execImageVerify (s : State) : Out := onDevice (·.verifyImage) s
/-- R468. -/
def execSgo (s : State) : Out := onDevice (·.sgo) s
/-- R470. -/
def execAgo (s : State) : Out := onDevice (·.ago) s
/-- R473. -/
def execPlimit (v : Word) (s : State) : Out := onDevice (·.setPlimit v) s
/-- R474. -/
def execThrottleAdjust (up : Bool) (s : State) : Out := onDevice (·.throttle up) s
/-- R472. -/
def execOverTemperature (die : DieNo) (s : State) : Out := onDevice (·.overheat die) s
/-- R440. -/
def execLastingCoreFault (c : CoreNo) (s : State) : Out := withRecord (·.coreFault c) s

/-- An error that a read meets (R438): corrected and counted; or uncorrectable, where the retry succeeds, or does not. -/
def Device.storageError (d : Device) (site : ErrSite) (how : ErrHow) : Device :=
  let part (c : CoreNo) : PartNo := partNo (d.cores.get c).part.pid
  let add (n : Nat) (l : List Nat) : List Nat := if l.contains n then l else n :: l
  let core (c : CoreNo) : Device := d.logError (part c) 0x0010 c.val 0
  match how, site with
  | .corrected, _ => d.countCorrected
  | .transient, .glob a => d.logError 0 0x0010 0xFF (BitVec.ofNat 64 a)
  | .transient, .ab c _ | .transient, .wb c _ | .transient, .coreState c | .transient, .cache c _ => core c
  | .lasting, .glob a => ({ d with poison := add (a / 64) d.poison } : Device).logError 0 0x0011 0xFF (BitVec.ofNat 64 a)
  | .lasting, .ab c g =>
    (d.onCore c fun o => { o with abPoison := add g o.abPoison }).logError (part c) 0x0011 c.val (BitVec.ofNat 64 (128 * g))
  | .lasting, .wb c g =>
    (d.onCore c fun o => { o with wbPoison := add g o.wbPoison }).logError (part c) 0x0011 c.val (BitVec.ofNat 64 (128 * g))
  | .lasting, .coreState c => d.coreFault c
  | .lasting, .cache c n => (core c).onCore c fun o => { o with tlb := o.tlb.eraseIdx n }

/-- Whether a device's poison meets what a committed instruction of the vector queue is still to read, or the descriptor of an operation on its
way that can no longer be discarded. -/
def Device.strikesLate (d : Device) : Bool :=
  let reads (l : List Late) : Bool := l.any fun e => e.touches.any fun t => t.read && t.spot.poisoned d t.addr t.n
  (List.finRange 192).any (fun c => reads (d.cores.get c).late || (d.held.get c).any fun h => reads h.ahead.late) ||
    d.hops.any fun h => h.firm && poisoned 64 d.poison h.desc 64

/-- R438. DESIGN CHOICE: no poison strikes what a committed instruction is still to read, for none of those can trap any more (R42, R61; log
entries 97 and 109). -/
def execStorageError (site : ErrSite) (how : ErrHow) (s : State) : Out :=
  withRecord (fun d =>
    let e := d.storageError site how
    let poisons := match how, site with
      | .lasting, .glob _ | .lasting, .ab .. | .lasting, .wb .. => true
      | _, _ => false
    if poisons && e.strikesLate && !d.strikesLate then d else e) s

end Sys2Proof.Machine
end

