-- ==== Sys2Proof/Machine/Fp.lean ====
section
/-!
DEFINITION. Scalar floating instructions (07_isa_control R144 to R147). Under STO the element counter is 0 (R144).
-/

namespace Sys2Proof.Machine

/-- A register form on two patterns of type TY; the result is zero-extended (R144). -/
def float2 (ty : Ty) (d a b : XReg) (s : State) (f : Nat → Nat → Nat) : Out :=
  onThread s (.next (s.wx d (BitVec.ofNat 64 (f (xbits ty (s.rx a)) (xbits ty (s.rx b))))))
/-- A register form on one pattern. -/
def float1 (ty : Ty) (d a : XReg) (s : State) (f : Nat → Nat) : Out :=
  onThread s (.next (s.wx d (BitVec.ofNat 64 (f (xbits ty (s.rx a))))))
/-- A comparison: 1 or 0 as a whole integer; R108 applies to the operands (Table 7.4). -/
def floatCmp (ty : Ty) (d a b : XReg) (s : State) (f : Fp → Fp → Bool) : Out :=
  onThread s (.next (s.wx d (boolWord (f (fpIn s.num ty (xbits ty (s.rx a))) (fpIn s.num ty (xbits ty (s.rx b)))))))

/-- R145: rounded once. -/
def execFadd (ty : Ty) (d a b : XReg) (mode : Mode) (s : State) : Out :=
  float2 ty d a b s (faddBits s.num mode 0 ty)

/-- R145: rounded once. -/
def execFsub (ty : Ty) (d a b : XReg) (mode : Mode) (s : State) : Out :=
  float2 ty d a b s (fsubBits s.num mode 0 ty)

/-- R145: rounded once. -/
def execFmul (ty : Ty) (d a b : XReg) (mode : Mode) (s : State) : Out :=
  float2 ty d a b s (fmulBits s.num mode 0 ty)

/-- R145: rounded once. -/
def execFdiv (ty : Ty) (d a b : XReg) (mode : Mode) (s : State) : Out :=
  float2 ty d a b s (fdivBits s.num mode 0 ty)

/-- R145. -/
def execFsqrt (ty : Ty) (d a : XReg) (mode : Mode) (s : State) : Out :=
  float1 ty d a s (fsqrtBits s.num mode 0 ty)

/-- R145: no rounding. -/
def execFmin (ty : Ty) (d a b : XReg) (_mode : Mode) (s : State) : Out :=
  float2 ty d a b s (fminBits s.num ty)

/-- R145: no rounding. -/
def execFmax (ty : Ty) (d a b : XReg) (_mode : Mode) (s : State) : Out :=
  float2 ty d a b s (fmaxBits s.num ty)

/-- R145: a NaN result is canonical. -/
def execFneg (ty : Ty) (d a : XReg) (_mode : Mode) (s : State) : Out :=
  float1 ty d a s (fnegBits s.num ty)

/-- R145. -/
def execFabs (ty : Ty) (d a : XReg) (_mode : Mode) (s : State) : Out :=
  float1 ty d a s (fabsBits s.num ty)

/-- R145. -/
def execFeq (ty : Ty) (d a b : XReg) (_mode : Mode) (s : State) : Out :=
  floatCmp ty d a b s fpEq

/-- R145. -/
def execFlt (ty : Ty) (d a b : XReg) (_mode : Mode) (s : State) : Out :=
  floatCmp ty d a b s fpLt

/-- R145. -/
def execFle (ty : Ty) (d a b : XReg) (_mode : Mode) (s : State) : Out :=
  floatCmp ty d a b s (fpLe false)

/-- R146: an integer result is written as R138 writes one. -/
def execFcvt (ty u : Ty) (d a : XReg) (mode : Mode) (s : State) : Out :=
  onThread s (.next (s.wx d (xextBits ty (convBits s.num mode 0 ty u (xbits u (s.rx a))))))

/-- R145: fused or not by Table 5.8. -/
def execFma (ty : Ty) (d a b c : XReg) (mode : Mode) (s : State) : Out :=
  float2 ty d a b s fun x y => fmaBits s.num mode 0 ty ty x y (xbits ty (s.rx c))

/-- R147. -/
def execFli (ty : Ty) (d : XReg) (imm : BitVec 16) (s : State) : Out :=
  onThread s (.next (s.wx d (BitVec.ofNat 64 (immFloat ty imm))))

/-- R147: rounded under `NCTL.RM`. -/
def execFaddi (ty : Ty) (d a : XReg) (imm : BitVec 16) (s : State) : Out :=
  float1 ty d a s fun x => faddBits s.num .ctl 0 ty x (immFloat ty imm)

/-- R147. -/
def execFmuli (ty : Ty) (d a : XReg) (imm : BitVec 16) (s : State) : Out :=
  float1 ty d a s fun x => fmulBits s.num .ctl 0 ty x (immFloat ty imm)

end Sys2Proof.Machine
end

