-- ==== Sys2Proof/Machine/VecFp.lean ====
section
/-!
DEFINITION. Vector floating arithmetic, conversion, block quantisation, butterflies and random words (08_isa_vector R181 to R189).
Under STO the element counter is the element's number (R171).
-/

namespace Sys2Proof.Machine

/-- Floating forms on two sources. -/
def vecFp2 (ty : Ty) (m : MReg) (d : VReg) (a b : VSrc) (s : State) (f : Nat → Nat → Nat → Nat) : Out :=
  elementwise s [(a.reg, ty), (b.reg, ty)] ty.bits ty m d fun e => f e ((s.rv a.reg).elem ty e) ((s.rv b.reg).elem ty e)
/-- Floating forms on one source. -/
def vecFp1 (ty : Ty) (m : MReg) (d : VReg) (a : VSrc) (s : State) (f : Nat → Nat → Nat) : Out :=
  elementwise s [(a.reg, ty)] ty.bits ty m d fun e => f e ((s.rv a.reg).elem ty e)

/-- One element of a stage of a Hadamard transform of distance `g` (R187). -/
def butterfly (c : NumCtx) (mode : Mode) (ty : Ty) (g : Nat) (x : Nat → Nat) (e : Nat) : Nat :=
  if e / g % 2 = 0 then faddBits c mode e ty (x e) (x (e + g)) else fsubBits c mode e ty (x (e - g)) (x e)

/-- The sidecar with the scales of blocks from 0 up. -/
def putScales (side : BitVec 2048) (l : List Nat) : BitVec 2048 := elemPut side 8 0 l

/-- R181. -/
def execVaddF (ty : Ty) (m : MReg) (d : VReg) (a b : VSrc) (mode : Mode) (s : State) : Out :=
  vecFp2 ty m d a b s fun e x y => faddBits s.num mode e ty x y

/-- R181. -/
def execVsubF (ty : Ty) (m : MReg) (d : VReg) (a b : VSrc) (mode : Mode) (s : State) : Out :=
  vecFp2 ty m d a b s fun e x y => fsubBits s.num mode e ty x y

/-- R181. -/
def execVmulF (ty : Ty) (m : MReg) (d : VReg) (a b : VSrc) (mode : Mode) (s : State) : Out :=
  vecFp2 ty m d a b s fun e x y => fmulBits s.num mode e ty x y

/-- R181. -/
def execVdivF (ty : Ty) (m : MReg) (d : VReg) (a b : VSrc) (mode : Mode) (s : State) : Out :=
  vecFp2 ty m d a b s fun e x y => fdivBits s.num mode e ty x y

/-- R181. -/
def execVsqrt (ty : Ty) (m : MReg) (d : VReg) (a : VSrc) (mode : Mode) (s : State) : Out :=
  vecFp1 ty m d a s fun e x => fsqrtBits s.num mode e ty x

/-- R181: no rounding. -/
def execVminF (ty : Ty) (m : MReg) (d : VReg) (a b : VSrc) (_mode : Mode) (s : State) : Out :=
  vecFp2 ty m d a b s fun _ x y => fminBits s.num ty x y

/-- R181: no rounding. -/
def execVmaxF (ty : Ty) (m : MReg) (d : VReg) (a b : VSrc) (_mode : Mode) (s : State) : Out :=
  vecFp2 ty m d a b s fun _ x y => fmaxBits s.num ty x y

/-- R181. -/
def execVnegF (ty : Ty) (m : MReg) (d : VReg) (a : VSrc) (_mode : Mode) (s : State) : Out :=
  vecFp1 ty m d a s fun _ x => fnegBits s.num ty x

/-- R181. -/
def execVabsF (ty : Ty) (m : MReg) (d : VReg) (a : VSrc) (_mode : Mode) (s : State) : Out :=
  vecFp1 ty m d a s fun _ x => fabsBits s.num ty x

/-- R181: fused or not by Table 5.8. -/
def execVfma (ty : Ty) (m : MReg) (d : VReg) (a b c : VSrc) (mode : Mode) (s : State) : Out :=
  elementwise s [(a.reg, ty), (b.reg, ty), (c.reg, ty)] ty.bits ty m d fun e =>
    fmaBits s.num mode e ty ty ((s.rv a.reg).elem ty e) ((s.rv b.reg).elem ty e) ((s.rv c.reg).elem ty e)

/-- R181: `vd` carries `f32` and is read at every active element. -/
def execVfmaw (u : Ty) (m : MReg) (d : VReg) (a b : VSrc) (mode : Mode) (s : State) : Out :=
  elementwise s [(a.reg, u), (b.reg, u), (d, .f32)] 32 .f32 m d fun e =>
    fmaBits s.num mode e .f32 u ((s.rv a.reg).elem u e) ((s.rv b.reg).elem u e) ((s.rv d).elem .f32 e)

/-- R182: rounded under `NCTL.RM`. -/
def execVaddiF (ty : Ty) (m : MReg) (d : VReg) (a : VSrc) (imm : BitVec 16) (s : State) : Out :=
  vecFp1 ty m d a s fun e x => faddBits s.num .ctl e ty x (immFloat ty imm)

/-- R182. -/
def execVmuliF (ty : Ty) (m : MReg) (d : VReg) (a : VSrc) (imm : BitVec 16) (s : State) : Out :=
  vecFp1 ty m d a s fun e x => fmulBits s.num .ctl e ty x (immFloat ty imm)

/-- R182. -/
def execVminiF (ty : Ty) (m : MReg) (d : VReg) (a : VSrc) (imm : BitVec 16) (s : State) : Out :=
  vecFp1 ty m d a s fun _ x => fminBits s.num ty x (immFloat ty imm)

/-- R182. -/
def execVmaxiF (ty : Ty) (m : MReg) (d : VReg) (a : VSrc) (imm : BitVec 16) (s : State) : Out :=
  vecFp1 ty m d a s fun _ x => fmaxBits s.num ty x (immFloat ty imm)

/-- R184: W is the larger of the two widths. -/
def execVcvt (ty u : Ty) (m : MReg) (d : VReg) (a : VSrc) (mode : Mode) (s : State) : Out :=
  elementwise s [(a.reg, u)] (max ty.bits u.bits) ty m d fun e =>
    convBits s.num mode e ty u ((s.rv a.reg).elem u e)

/-- R185, R188: sources are read unflushed; a stage of `vbfly` with NW = 1 stands in place of the register. -/
def execVqnt (u : Ty) (kind : QKind) (d : VReg) (a : VSrc) (s : State) : Out :=
  let src := (s.ctx.stage).getD (s.rv a.reg).data
  let tags := if s.ctx.stage.isSome then [] else [(a.reg, u)]
  onVector s <| needTags s tags <| needEw s u.bits <| needOperand s (decide (s.vl % 32 = 0)) <|
    let one (b : Nat) : Nat × List Nat :=
      let xs := (upFrom (32 * b) 32).map fun e => fpOf u (elemGet src u.bits e)
      match kind with
      | .auto => autoChoice xs
      | .t0 => quantise 0 xs
      | .t1 => quantise 1 xs
      | .t2 => quantise 2 xs
      | .t3 => quantise 3 xs
    let blocks := (upFrom 0 (s.vl / 32)).map one
    let v := s.thr.v.get d
    let codes := (blocks.map Prod.snd).flatten
    let w := v.write .q4 ((upFrom 0 s.vl).zip codes)
    let s1 := s.finish (groupsOf s.vl u.bits) (s.thr.setV d
      { w with side := putScales v.side (blocks.map Prod.fst), sdirty := v.sdirty || decide (0 < s.vl) })
    .next { s1 with ctx := { s1.ctx with stage := none } }

/-- R186. -/
def execVdqnt (ty : Ty) (m : MReg) (d : VReg) (a : VSrc) (mode : Mode) (s : State) : Out :=
  elementwise s [(a.reg, .q4)] ty.bits ty m d fun e =>
    fpOut s.num mode e ty (q4Value (elemGet (s.rv a.reg).side 8 (e / 32)) ((s.rv a.reg).elem .q4 e))

/-- R187, R188: with NW = 1 no register is written, and the stage is what the register would hold. -/
def execVbfly (ty : Ty) (d : VReg) (a : VSrc) (j : BitVec 4) (nw : Bool) (mode : Mode) (s : State) : Out :=
  let g := 2 ^ j.toNat
  onVector s <| needTags s [(a.reg, ty)] <| needEw s ty.bits <| needOperand s (decide (s.vl % (2 * g) = 0)) <|
    let x := (s.rv a.reg).elem ty
    let l := (upFrom 0 s.vl).map fun e => (e, butterfly s.num mode ty g x e)
    if nw then
      let s1 := s.finish (groupsOf s.vl ty.bits) s.thr
      .next { s1 with ctx := { s1.ctx with stage := some (l.foldl (fun b p => elemSet b ty.bits p.1 p.2) (s.thr.v.get d).data) } }
    else .next (s.finish (groupsOf s.vl ty.bits) (s.thr.setV d ((s.thr.v.get d).write ty l)))

/-- R189. -/
def execVrnd (m : MReg) (d : VReg) (a b : XReg) (s : State) : Out :=
  elementwise s [] 32 .z32 m d fun e =>
    (hash ((s.rx b).setWidth 32 + BitVec.ofNat 32 e) ((s.rx a).setWidth 32)).toNat

end Sys2Proof.Machine
end

