-- ==== Sys2Proof/Machine/Dispatch.lean ====
section
/-!
DEFINITION. One arm for each instruction and event of the opcode table.
-/

namespace Sys2Proof.Machine

def exec (i : Instr) (s : State) : Host.Outcome State Fault Refusal :=
  match i with
  | .add ty d a b => Sys2Proof.Machine.execAdd ty d a b s
  | .sub ty d a b => Sys2Proof.Machine.execSub ty d a b s
  | .and ty d a b => Sys2Proof.Machine.execAnd ty d a b s
  | .or ty d a b => Sys2Proof.Machine.execOr ty d a b s
  | .xor ty d a b => Sys2Proof.Machine.execXor ty d a b s
  | .sll ty d a b => Sys2Proof.Machine.execSll ty d a b s
  | .srl ty d a b => Sys2Proof.Machine.execSrl ty d a b s
  | .sra ty d a b => Sys2Proof.Machine.execSra ty d a b s
  | .slt ty d a b => Sys2Proof.Machine.execSlt ty d a b s
  | .min ty d a b => Sys2Proof.Machine.execMin ty d a b s
  | .max ty d a b => Sys2Proof.Machine.execMax ty d a b s
  | .csel ty d a b c => Sys2Proof.Machine.execCsel ty d a b c s
  | .addsl ty d a b n => Sys2Proof.Machine.execAddsl ty d a b n s
  | .mul ty d a b => Sys2Proof.Machine.execMul ty d a b s
  | .mulh ty d a b => Sys2Proof.Machine.execMulh ty d a b s
  | .div ty d a b => Sys2Proof.Machine.execDiv ty d a b s
  | .rem ty d a b => Sys2Proof.Machine.execRem ty d a b s
  | .clz ty d a => Sys2Proof.Machine.execClz ty d a s
  | .ctz ty d a => Sys2Proof.Machine.execCtz ty d a s
  | .popc ty d a => Sys2Proof.Machine.execPopc ty d a s
  | .ext ty d a => Sys2Proof.Machine.execExt ty d a s
  | .addi ty d a imm => Sys2Proof.Machine.execAddi ty d a imm s
  | .andi ty d a imm => Sys2Proof.Machine.execAndi ty d a imm s
  | .ori ty d a imm => Sys2Proof.Machine.execOri ty d a imm s
  | .xori ty d a imm => Sys2Proof.Machine.execXori ty d a imm s
  | .slli ty d a n => Sys2Proof.Machine.execSlli ty d a n s
  | .srli ty d a n => Sys2Proof.Machine.execSrli ty d a n s
  | .srai ty d a n => Sys2Proof.Machine.execSrai ty d a n s
  | .slti ty d a imm => Sys2Proof.Machine.execSlti ty d a imm s
  | .muli ty d a imm => Sys2Proof.Machine.execMuli ty d a imm s
  | .lim d imm => Sys2Proof.Machine.execLim d imm s
  | .lih d imm => Sys2Proof.Machine.execLih d imm s
  | .addpc d imm => Sys2Proof.Machine.execAddpc d imm s
  | .nop => Sys2Proof.Machine.execNop s
  | .mov d a => Sys2Proof.Machine.execMov d a s
  | .addiR d imm => Sys2Proof.Machine.execAddiR d imm s
  | .addR d a => Sys2Proof.Machine.execAddR d a s
  | .subR d a => Sys2Proof.Machine.execSubR d a s
  | .andR d a => Sys2Proof.Machine.execAndR d a s
  | .orR d a => Sys2Proof.Machine.execOrR d a s
  | .xorR d a => Sys2Proof.Machine.execXorR d a s
  | .shli d n => Sys2Proof.Machine.execShli d n s
  | .shri d n => Sys2Proof.Machine.execShri d n s
  | .sraiR d n => Sys2Proof.Machine.execSraiR d n s
  | .ldR d a off => Sys2Proof.Machine.execLdR d a off s
  | .stR v a off => Sys2Proof.Machine.execStR v a off s
  | .beqz a off => Sys2Proof.Machine.execBeqz a off s
  | .bnez a off => Sys2Proof.Machine.execBnez a off s
  | .wmovR d a => Sys2Proof.Machine.execWmovR d a s
  | .waddiR d imm => Sys2Proof.Machine.execWaddiR d imm s
  | .waddR d a => Sys2Proof.Machine.execWaddR d a s
  | .wfaddR d a => Sys2Proof.Machine.execWfaddR d a s
  | .wfmulR d a => Sys2Proof.Machine.execWfmulR d a s
  | .wlatR a l => Sys2Proof.Machine.execWlatR a l s
  | .wfmalR d a l => Sys2Proof.Machine.execWfmalR d a l s
  | .vaddiR d imm => Sys2Proof.Machine.execVaddiR d imm s
  | .vmov d a => Sys2Proof.Machine.execVmov d a s
  | .setvli d n => Sys2Proof.Machine.execSetvli d n s
  | .tfetchR off => Sys2Proof.Machine.execTfetchR off s
  | .tstopR => Sys2Proof.Machine.execTstopR s
  | .fadd ty d a b mode => Sys2Proof.Machine.execFadd ty d a b mode s
  | .fsub ty d a b mode => Sys2Proof.Machine.execFsub ty d a b mode s
  | .fmul ty d a b mode => Sys2Proof.Machine.execFmul ty d a b mode s
  | .fdiv ty d a b mode => Sys2Proof.Machine.execFdiv ty d a b mode s
  | .fsqrt ty d a mode => Sys2Proof.Machine.execFsqrt ty d a mode s
  | .fmin ty d a b mode => Sys2Proof.Machine.execFmin ty d a b mode s
  | .fmax ty d a b mode => Sys2Proof.Machine.execFmax ty d a b mode s
  | .fneg ty d a mode => Sys2Proof.Machine.execFneg ty d a mode s
  | .fabs ty d a mode => Sys2Proof.Machine.execFabs ty d a mode s
  | .feq ty d a b mode => Sys2Proof.Machine.execFeq ty d a b mode s
  | .flt ty d a b mode => Sys2Proof.Machine.execFlt ty d a b mode s
  | .fle ty d a b mode => Sys2Proof.Machine.execFle ty d a b mode s
  | .fcvt ty u d a mode => Sys2Proof.Machine.execFcvt ty u d a mode s
  | .fma ty d a b c mode => Sys2Proof.Machine.execFma ty d a b c mode s
  | .fli ty d imm => Sys2Proof.Machine.execFli ty d imm s
  | .faddi ty d a imm => Sys2Proof.Machine.execFaddi ty d a imm s
  | .fmuli ty d a imm => Sys2Proof.Machine.execFmuli ty d a imm s
  | .branch cond a b off => Sys2Proof.Machine.execBranch cond a b off s
  | .jal d off => Sys2Proof.Machine.execJal d off s
  | .jr d a => Sys2Proof.Machine.execJr d a s
  | .svc code => Sys2Proof.Machine.execSvc code s
  | .brk code => Sys2Proof.Machine.execBrk code s
  | .halt => Sys2Proof.Machine.execHalt s
  | .yield => Sys2Proof.Machine.execYield s
  | .csrr d csr => Sys2Proof.Machine.execCsrr d csr s
  | .csrw csr a => Sys2Proof.Machine.execCsrw csr a s
  | .setvl d a => Sys2Proof.Machine.execSetvl d a s
  | .setew ew => Sys2Proof.Machine.execSetew ew s
  | .setslip n => Sys2Proof.Machine.execSetslip n s
  | .setvp a => Sys2Proof.Machine.execSetvp a s
  | .vfetch off => Sys2Proof.Machine.execVfetch off s
  | .tfetch off => Sys2Proof.Machine.execTfetch off s
  | .tfsel a l1 l2 => Sys2Proof.Machine.execTfsel a l1 l2 s
  | .tstop => Sys2Proof.Machine.execTstop s
  | .vrejoin => Sys2Proof.Machine.execVrejoin s
  | .wmov d a => Sys2Proof.Machine.execWmov d a s
  | .wadd ty d a b => Sys2Proof.Machine.execWadd ty d a b s
  | .wsub ty d a b => Sys2Proof.Machine.execWsub ty d a b s
  | .wmul ty d a b => Sys2Proof.Machine.execWmul ty d a b s
  | .wand d a b => Sys2Proof.Machine.execWand d a b s
  | .wor d a b => Sys2Proof.Machine.execWor d a b s
  | .wxor d a b => Sys2Proof.Machine.execWxor d a b s
  | .wshl d a b => Sys2Proof.Machine.execWshl d a b s
  | .wshr d a b => Sys2Proof.Machine.execWshr d a b s
  | .wsra d a b => Sys2Proof.Machine.execWsra d a b s
  | .wmin ty d a b => Sys2Proof.Machine.execWmin ty d a b s
  | .wmax ty d a b => Sys2Proof.Machine.execWmax ty d a b s
  | .wseq ty d a b => Sys2Proof.Machine.execWseq ty d a b s
  | .wslt ty d a b => Sys2Proof.Machine.execWslt ty d a b s
  | .wfeq d a b mode => Sys2Proof.Machine.execWfeq d a b mode s
  | .wflt d a b mode => Sys2Proof.Machine.execWflt d a b mode s
  | .wfle d a b mode => Sys2Proof.Machine.execWfle d a b mode s
  | .wsel d a b c => Sys2Proof.Machine.execWsel d a b c s
  | .wfadd d a b mode => Sys2Proof.Machine.execWfadd d a b mode s
  | .wfsub d a b mode => Sys2Proof.Machine.execWfsub d a b mode s
  | .wfmul d a b mode => Sys2Proof.Machine.execWfmul d a b mode s
  | .wfma d a b c mode => Sys2Proof.Machine.execWfma d a b c mode s
  | .wfmal d a l mode => Sys2Proof.Machine.execWfmal d a l mode s
  | .wlat a l mode => Sys2Proof.Machine.execWlat a l mode s
  | .wcvt ty u d a mode => Sys2Proof.Machine.execWcvt ty u d a mode s
  | .wfmin d a b mode => Sys2Proof.Machine.execWfmin d a b mode s
  | .wfmax d a b mode => Sys2Proof.Machine.execWfmax d a b mode s
  | .wget d a => Sys2Proof.Machine.execWget d a s
  | .wput d a => Sys2Proof.Machine.execWput d a s
  | .wli ty d imm => Sys2Proof.Machine.execWli ty d imm s
  | .waddi ty d a imm => Sys2Proof.Machine.execWaddi ty d a imm s
  | .wandi d a imm => Sys2Proof.Machine.execWandi d a imm s
  | .wori d a imm => Sys2Proof.Machine.execWori d a imm s
  | .wxori d a imm => Sys2Proof.Machine.execWxori d a imm s
  | .wshli d a n => Sys2Proof.Machine.execWshli d a n s
  | .wshri d a n => Sys2Proof.Machine.execWshri d a n s
  | .wsrai d a n => Sys2Proof.Machine.execWsrai d a n s
  | .wseqi ty d a imm => Sys2Proof.Machine.execWseqi ty d a imm s
  | .wslti ty d a imm => Sys2Proof.Machine.execWslti ty d a imm s
  | .wld ty d a off sp => Sys2Proof.Machine.execWld ty d a off sp s
  | .wst ty v a off => Sys2Proof.Machine.execWst ty v a off s
  | .vadd ty m d a b => Sys2Proof.Machine.execVadd ty m d a b s
  | .vsub ty m d a b => Sys2Proof.Machine.execVsub ty m d a b s
  | .vmul ty m d a b => Sys2Proof.Machine.execVmul ty m d a b s
  | .vmulh ty m d a b => Sys2Proof.Machine.execVmulh ty m d a b s
  | .vdiv ty m d a b => Sys2Proof.Machine.execVdiv ty m d a b s
  | .vrem ty m d a b => Sys2Proof.Machine.execVrem ty m d a b s
  | .vmin ty m d a b => Sys2Proof.Machine.execVmin ty m d a b s
  | .vmax ty m d a b => Sys2Proof.Machine.execVmax ty m d a b s
  | .vabs ty m d a => Sys2Proof.Machine.execVabs ty m d a s
  | .vneg ty m d a => Sys2Proof.Machine.execVneg ty m d a s
  | .vmadd ty m d a b c => Sys2Proof.Machine.execVmadd ty m d a b c s
  | .vsll ty m d a b => Sys2Proof.Machine.execVsll ty m d a b s
  | .vsrl ty m d a b => Sys2Proof.Machine.execVsrl ty m d a b s
  | .vsra ty m d a b => Sys2Proof.Machine.execVsra ty m d a b s
  | .vand ty m d a b => Sys2Proof.Machine.execVand ty m d a b s
  | .vor ty m d a b => Sys2Proof.Machine.execVor ty m d a b s
  | .vxor ty m d a b => Sys2Proof.Machine.execVxor ty m d a b s
  | .vandn ty m d a b => Sys2Proof.Machine.execVandn ty m d a b s
  | .vnot ty m d a => Sys2Proof.Machine.execVnot ty m d a s
  | .vaddi ty m d a imm => Sys2Proof.Machine.execVaddi ty m d a imm s
  | .vmuli ty m d a imm => Sys2Proof.Machine.execVmuli ty m d a imm s
  | .vmini ty m d a imm => Sys2Proof.Machine.execVmini ty m d a imm s
  | .vmaxi ty m d a imm => Sys2Proof.Machine.execVmaxi ty m d a imm s
  | .vandi ty m d a imm => Sys2Proof.Machine.execVandi ty m d a imm s
  | .vori ty m d a imm => Sys2Proof.Machine.execVori ty m d a imm s
  | .vxori ty m d a imm => Sys2Proof.Machine.execVxori ty m d a imm s
  | .vslli ty m d a n => Sys2Proof.Machine.execVslli ty m d a n s
  | .vsrli ty m d a n => Sys2Proof.Machine.execVsrli ty m d a n s
  | .vsrai ty m d a n => Sys2Proof.Machine.execVsrai ty m d a n s
  | .vcmpi rel ty m d a imm => Sys2Proof.Machine.execVcmpi rel ty m d a imm s
  | .vcmp rel ty m d a b => Sys2Proof.Machine.execVcmp rel ty m d a b s
  | .vsel ty d a b c => Sys2Proof.Machine.execVsel ty d a b c s
  | .vbcast ty m d a => Sys2Proof.Machine.execVbcast ty m d a s
  | .vtag d a tag span => Sys2Proof.Machine.execVtag d a tag span s
  | .vidx ty m d start step => Sys2Proof.Machine.execVidx ty m d start step s
  | .vaddF ty m d a b mode => Sys2Proof.Machine.execVaddF ty m d a b mode s
  | .vsubF ty m d a b mode => Sys2Proof.Machine.execVsubF ty m d a b mode s
  | .vmulF ty m d a b mode => Sys2Proof.Machine.execVmulF ty m d a b mode s
  | .vdivF ty m d a b mode => Sys2Proof.Machine.execVdivF ty m d a b mode s
  | .vsqrt ty m d a mode => Sys2Proof.Machine.execVsqrt ty m d a mode s
  | .vminF ty m d a b mode => Sys2Proof.Machine.execVminF ty m d a b mode s
  | .vmaxF ty m d a b mode => Sys2Proof.Machine.execVmaxF ty m d a b mode s
  | .vnegF ty m d a mode => Sys2Proof.Machine.execVnegF ty m d a mode s
  | .vabsF ty m d a mode => Sys2Proof.Machine.execVabsF ty m d a mode s
  | .vfma ty m d a b c mode => Sys2Proof.Machine.execVfma ty m d a b c mode s
  | .vfmaw u m d a b mode => Sys2Proof.Machine.execVfmaw u m d a b mode s
  | .vaddiF ty m d a imm => Sys2Proof.Machine.execVaddiF ty m d a imm s
  | .vmuliF ty m d a imm => Sys2Proof.Machine.execVmuliF ty m d a imm s
  | .vminiF ty m d a imm => Sys2Proof.Machine.execVminiF ty m d a imm s
  | .vmaxiF ty m d a imm => Sys2Proof.Machine.execVmaxiF ty m d a imm s
  | .vcvt ty u m d a mode => Sys2Proof.Machine.execVcvt ty u m d a mode s
  | .vqnt u kind d a => Sys2Proof.Machine.execVqnt u kind d a s
  | .vdqnt ty m d a mode => Sys2Proof.Machine.execVdqnt ty m d a mode s
  | .vbfly ty d a j nw mode => Sys2Proof.Machine.execVbfly ty d a j nw mode s
  | .vrnd m d a b => Sys2Proof.Machine.execVrnd m d a b s
  | .vredsum ty m d a b => Sys2Proof.Machine.execVredsum ty m d a b s
  | .vredmin ty m d a b => Sys2Proof.Machine.execVredmin ty m d a b s
  | .vredmax ty m d a b => Sys2Proof.Machine.execVredmax ty m d a b s
  | .vredand ty m d a b => Sys2Proof.Machine.execVredand ty m d a b s
  | .vredor ty m d a b => Sys2Proof.Machine.execVredor ty m d a b s
  | .vredxor ty m d a b => Sys2Proof.Machine.execVredxor ty m d a b s
  | .vscansum ty m d a c ex => Sys2Proof.Machine.execVscansum ty m d a c ex s
  | .vscanmin ty m d a c ex => Sys2Proof.Machine.execVscanmin ty m d a c ex s
  | .vscanmax ty m d a c ex => Sys2Proof.Machine.execVscanmax ty m d a c ex s
  | .vsegsum ty m d a c => Sys2Proof.Machine.execVsegsum ty m d a c s
  | .vsegmin ty m d a c => Sys2Proof.Machine.execVsegmin ty m d a c s
  | .vsegmax ty m d a c => Sys2Proof.Machine.execVsegmax ty m d a c s
  | .vslideup ty m d a b => Sys2Proof.Machine.execVslideup ty m d a b s
  | .vslidedn ty m d a b => Sys2Proof.Machine.execVslidedn ty m d a b s
  | .vrot ty m d a b => Sys2Proof.Machine.execVrot ty m d a b s
  | .vperm ty m d a b => Sys2Proof.Machine.execVperm ty m d a b s
  | .vcompress ty d a c => Sys2Proof.Machine.execVcompress ty d a c s
  | .vexpand ty d a c => Sys2Proof.Machine.execVexpand ty d a c s
  | .vxch ty d a b c => Sys2Proof.Machine.execVxch ty d a b c s
  | .mand d a b => Sys2Proof.Machine.execMand d a b s
  | .mor d a b => Sys2Proof.Machine.execMor d a b s
  | .mxor d a b => Sys2Proof.Machine.execMxor d a b s
  | .mandn d a b => Sys2Proof.Machine.execMandn d a b s
  | .mnot d a => Sys2Proof.Machine.execMnot d a s
  | .mset d => Sys2Proof.Machine.execMset d s
  | .mpopc d a => Sys2Proof.Machine.execMpopc d a s
  | .mfirst d a => Sys2Proof.Machine.execMfirst d a s
  | .ld ty sp d a off => Sys2Proof.Machine.execLd ty sp d a off s
  | .st ty sp v a off => Sys2Proof.Machine.execSt ty sp v a off s
  | .vld ty sp m d a b off => Sys2Proof.Machine.execVld ty sp m d a b off s
  | .vst ty sp m v a b off => Sys2Proof.Machine.execVst ty sp m v a b off s
  | .vlds ty sp m d a b off => Sys2Proof.Machine.execVlds ty sp m d a b off s
  | .vsts ty sp m v a b off => Sys2Proof.Machine.execVsts ty sp m v a b off s
  | .vldx ty sp m d a b off sc => Sys2Proof.Machine.execVldx ty sp m d a b off sc s
  | .vstx ty sp m v a b off sc => Sys2Proof.Machine.execVstx ty sp m v a b off sc s
  | .vldseg ty u sp m d a n1 mode => Sys2Proof.Machine.execVldseg ty u sp m d a n1 mode s
  | .vstseg ty u sp m v a n1 mode => Sys2Proof.Machine.execVstseg ty u sp m v a n1 mode s
  | .amoadd ty ord scope d a b => Sys2Proof.Machine.execAmoadd ty ord scope d a b s
  | .amomin ty ord scope d a b => Sys2Proof.Machine.execAmomin ty ord scope d a b s
  | .amomax ty ord scope d a b => Sys2Proof.Machine.execAmomax ty ord scope d a b s
  | .amoand ty ord scope d a b => Sys2Proof.Machine.execAmoand ty ord scope d a b s
  | .amoor ty ord scope d a b => Sys2Proof.Machine.execAmoor ty ord scope d a b s
  | .amoxor ty ord scope d a b => Sys2Proof.Machine.execAmoxor ty ord scope d a b s
  | .amoswap ty ord scope d a b => Sys2Proof.Machine.execAmoswap ty ord scope d a b s
  | .amocas ty ord scope d a b c => Sys2Proof.Machine.execAmocas ty ord scope d a b c s
  | .amofadd ord scope d a b => Sys2Proof.Machine.execAmofadd ord scope d a b s
  | .vredm op ty scope m a b c => Sys2Proof.Machine.execVredm op ty scope m a b c s
  | .fence scope => Sys2Proof.Machine.execFence scope s
  | .vdrain => Sys2Proof.Machine.execVdrain s
  | .vdrainl => Sys2Proof.Machine.execVdrainl s
  | .vdrains => Sys2Proof.Machine.execVdrains s
  | .waitArr d a b => Sys2Proof.Machine.execWaitArr d a b s
  | .waitW sp d a b => Sys2Proof.Machine.execWaitW sp d a b s
  | .waitWatch d => Sys2Proof.Machine.execWaitWatch d s
  | .vwatch m d a b => Sys2Proof.Machine.execVwatch m d a b s
  | .gsync d a => Sys2Proof.Machine.execGsync d a s
  | .gsyncW d a => Sys2Proof.Machine.execGsyncW d a s
  | .hinit scope d a => Sys2Proof.Machine.execHinit scope d a s
  | .hpush scope d a b => Sys2Proof.Machine.execHpush scope d a b s
  | .hpop scope d a => Sys2Proof.Machine.execHpop scope d a s
  | .hstat scope d a => Sys2Proof.Machine.execHstat scope d a s
  | .hpushVp scope d a b => Sys2Proof.Machine.execHpushVp scope d a b s
  | .hpopVp scope d a => Sys2Proof.Machine.execHpopVp scope d a s
  | .wmpub k a => Sys2Proof.Machine.execWmpub k a s
  | .aarm d a b => Sys2Proof.Machine.execAarm d a b s
  | .msetdl mode a => Sys2Proof.Machine.execMsetdl mode a s
  | .dlda sp h a b c => Sys2Proof.Machine.execDlda sp h a b c s
  | .dldb sp h a b c => Sys2Proof.Machine.execDldb sp h a b c s
  | .dhold ha hb wa wb => Sys2Proof.Machine.execDhold ha hb wa wb s
  | .dzero k c => Sys2Proof.Machine.execDzero k c s
  | .dsetfill a => Sys2Proof.Machine.execDsetfill a s
  | .dbudget a => Sys2Proof.Machine.execDbudget a s
  | .dmeta sp a b c => Sys2Proof.Machine.execDmeta sp a b c s
  | .dmovV ty d k row c => Sys2Proof.Machine.execDmovV ty d k row c s
  | .dmovA m k a => Sys2Proof.Machine.execDmovA m k a s
  | .dcvt ty uf d k row c => Sys2Proof.Machine.execDcvt ty uf d k row c s
  | .dmacV ty k a b c => Sys2Proof.Machine.execDmacV ty k a b c s
  | .dmacL ty k c => Sys2Proof.Machine.execDmacL ty k c s
  | .dmacTriV ty k a b c => Sys2Proof.Machine.execDmacTriV ty k a b c s
  | .dmacTriL ty k c => Sys2Proof.Machine.execDmacTriL ty k c s
  | .dmacs ty k c => Sys2Proof.Machine.execDmacs ty k c s
  | .dsweep ty k tri sp c => Sys2Proof.Machine.execDsweep ty k tri sp c s
  | .dmacVI ty k a b p q => Sys2Proof.Machine.execDmacVI ty k a b p q s
  | .dmacLI ty k p q => Sys2Proof.Machine.execDmacLI ty k p q s
  | .dmacsI ty k mo p q => Sys2Proof.Machine.execDmacsI ty k mo p q s
  | .dmovi ty k n1 imm => Sys2Proof.Machine.execDmovi ty k n1 imm s
  | .sopenAff ty sp sj a b c => Sys2Proof.Machine.execSopenAff ty sp sj a b c s
  | .sopenInd ty vsp isp iw16 sj a b c => Sys2Proof.Machine.execSopenInd ty vsp isp iw16 sj a b c s
  | .sopenFib ty isp vsp enc sj a b c => Sys2Proof.Machine.execSopenFib ty isp vsp enc sj a b c s
  | .snext d ve sj b => Sys2Proof.Machine.execSnext d ve sj b s
  | .sdone d md sj => Sys2Proof.Machine.execSdone d md sj s
  | .sseek coord sj b => Sys2Proof.Machine.execSseek coord sj b s
  | .sclose sj => Sys2Proof.Machine.execSclose sj s
  | .cxopen union tol sj sk => Sys2Proof.Machine.execCxopen union tol sj sk s
  | .cxnext d vc va vb => Sys2Proof.Machine.execCxnext d vc va vb s
  | .cxsplit a => Sys2Proof.Machine.execCxsplit a s
  | .cxclaim scope d a => Sys2Proof.Machine.execCxclaim scope d a s
  | .cxstat d sel => Sys2Proof.Machine.execCxstat d sel s
  | .cxsave sp a => Sys2Proof.Machine.execCxsave sp a s
  | .cxload sp a => Sys2Proof.Machine.execCxload sp a s
  | .cpset k reg sp a => Sys2Proof.Machine.execCpset k reg sp a s
  | .cpget d k reg => Sys2Proof.Machine.execCpget d k reg s
  | .cplaunch d k => Sys2Proof.Machine.execCplaunch d k s
  | .cpwait d a => Sys2Proof.Machine.execCpwait d a s
  | .cpwm d k a => Sys2Proof.Machine.execCpwm d k a s
  | .cpcancel k => Sys2Proof.Machine.execCpcancel k s
  | .cparm d k a b => Sys2Proof.Machine.execCparm d k a b s
  | .cpexport d a b => Sys2Proof.Machine.execCpexport d a b s
  | .tret => Sys2Proof.Machine.execTret s
  | .tlbinv kind g a b => Sys2Proof.Machine.execTlbinv kind g a b s
  | .ctxsave d a b => Sys2Proof.Machine.execCtxsave d a b s
  | .ctxload a => Sys2Proof.Machine.execCtxload a s
  | .dspill k a => Sys2Proof.Machine.execDspill k a s
  | .dfill k a => Sys2Proof.Machine.execDfill k a s
  | .wbtag d => Sys2Proof.Machine.execWbtag d s
  | .wbtagSet d a => Sys2Proof.Machine.execWbtagSet d a s
  | .idle => Sys2Proof.Machine.execIdle s
  | .pmode a => Sys2Proof.Machine.execPmode a s
  | .qpost d a b => Sys2Proof.Machine.execQpost d a b s
  | .errlog a b => Sys2Proof.Machine.execErrlog a b s
  | .dutyset d a => Sys2Proof.Machine.execDutyset d a s
  | .hint odd bits => Sys2Proof.Machine.execHint odd bits s
  | .convoyCommit => Sys2Proof.Machine.execConvoyCommit s
  | .elementGroupOperation lane => Sys2Proof.Machine.execElementGroupOperation lane s
  | .trapEntry cause tval => Sys2Proof.Machine.execTrapEntry cause tval s
  | .vpTrap => Sys2Proof.Machine.execVpTrap s
  | .preempt => Sys2Proof.Machine.execPreempt s
  | .resume => Sys2Proof.Machine.execResume s
  | .spill => Sys2Proof.Machine.execSpill s
  | .kill => Sys2Proof.Machine.execKill s
  | .mailbox => Sys2Proof.Machine.execMailbox s
  | .aibBegin lane => Sys2Proof.Machine.execAibBegin lane s
  | .aibComplete lane => Sys2Proof.Machine.execAibComplete lane s
  | .waitComplete => Sys2Proof.Machine.execWaitComplete s
  | .waitWPoll => Sys2Proof.Machine.execWaitWPoll s
  | .hamperHomeOp n => Sys2Proof.Machine.execHamperHomeOp n s
  | .pairMatch n => Sys2Proof.Machine.execPairMatch n s
  | .pairWindowExpiry n => Sys2Proof.Machine.execPairWindowExpiry n s
  | .pageWalk acc va => Sys2Proof.Machine.execPageWalk acc va s
  | .translationServer acc va => Sys2Proof.Machine.execTranslationServer acc va s
  | .copyElement k => Sys2Proof.Machine.execCopyElement k s
  | .spillReplay k => Sys2Proof.Machine.execSpillReplay k s
  | .transferComplete k => Sys2Proof.Machine.execTransferComplete k s
  | .dmetaWrite => Sys2Proof.Machine.execDmetaWrite s
  | .slotTake q => Sys2Proof.Machine.execSlotTake q s
  | .slotReread q => Sys2Proof.Machine.execSlotReread q s
  | .starvation n => Sys2Proof.Machine.execStarvation n s
  | .dispatch p => Sys2Proof.Machine.execDispatch p s
  | .preemptionComplete n => Sys2Proof.Machine.execPreemptionComplete n s
  | .preloadFault n => Sys2Proof.Machine.execPreloadFault n s
  | .launchComplete n => Sys2Proof.Machine.execLaunchComplete n s
  | .replayStart n => Sys2Proof.Machine.execReplayStart n s
  | .doorbellTail q u => Sys2Proof.Machine.execDoorbellTail q u s
  | .ring c => Sys2Proof.Machine.execRing c s
  | .alert c => Sys2Proof.Machine.execAlert c s
  | .dispatchCommand p => Sys2Proof.Machine.execDispatchCommand p s
  | .preemptCommand p => Sys2Proof.Machine.execPreemptCommand p s
  | .answer p => Sys2Proof.Machine.execAnswer p s
  | .replay p => Sys2Proof.Machine.execReplay p s
  | .proceed p => Sys2Proof.Machine.execProceed p s
  | .verdict p => Sys2Proof.Machine.execVerdict p s
  | .hostWindowWrite addr data => Sys2Proof.Machine.execHostWindowWrite addr data s
  | .hostWindowRead addr n => Sys2Proof.Machine.execHostWindowRead addr n s
  | .registerWrite addr n v => Sys2Proof.Machine.execRegisterWrite addr n v s
  | .flitCrcRetry p => Sys2Proof.Machine.execFlitCrcRetry p s
  | .portDown p => Sys2Proof.Machine.execPortDown p s
  | .remoteElementApply addr data => Sys2Proof.Machine.execRemoteElementApply addr data s
  | .remoteAcknowledge k => Sys2Proof.Machine.execRemoteAcknowledge k s
  | .deviceReset => Sys2Proof.Machine.execDeviceReset s
  | .imageVerify => Sys2Proof.Machine.execImageVerify s
  | .sgo => Sys2Proof.Machine.execSgo s
  | .ago => Sys2Proof.Machine.execAgo s
  | .plimit v => Sys2Proof.Machine.execPlimit v s
  | .throttleAdjust up => Sys2Proof.Machine.execThrottleAdjust up s
  | .overTemperature die => Sys2Proof.Machine.execOverTemperature die s
  | .storageError site how => Sys2Proof.Machine.execStorageError site how s
  | .lastingCoreFault c => Sys2Proof.Machine.execLastingCoreFault c s
  | .writeQueueExecution op => Sys2Proof.Machine.execWriteQueueExecution op s
  | .sliceAcknowledgement sl => Sys2Proof.Machine.execSliceAcknowledgement sl s
  | .eread p v => Sys2Proof.Machine.execEread p v s
  | .portRetrain p => Sys2Proof.Machine.execPortRetrain p s

end Sys2Proof.Machine
end

