-- ==== Sys2Proof/Machine/Queue.lean ====
section
/-!
DEFINITION. The vector queue (03_execution_model R42, R47, R50, R51; 09 R206, R217, R238; 12 R302, R304): a load that must wait for bytes waits
in its lane, and its convoy commits; the vector-unit instructions after it stand behind it, and the scalar instructions that need nothing of
it go on. The traps of an instruction that waits are found when it issues; it runs once its bytes are there, on the scalar registers it issued
with and the lanes as the instructions before it leave them.
-/

namespace Sys2Proof.Machine

/-- The rest of a turn after a part of it. -/
def andThen (o : Out) (f : State → Out) : Out :=
  match o with
  | .next s => f s
  | .fault r => .fault r
  | .refused r => .refused r

/-! ### The two sides of a core -/

/-- The lanes of a core as those of another: what vector-unit instructions alone write. -/
def Core.lanesOf (c o : Core) : Core :=
  { c with
    am := o.am, md := o.md, dmeta := o.dmeta, opBase := o.opBase, opSlips := o.opSlips, laneDone := o.laneDone
    thr := { c.thr with
      v := o.thr.v, m := o.thr.m, latchA := o.thr.latchA, latchB := o.thr.latchB, fill := o.thr.fill, budget := o.thr.budget } }

/-- The scalar side of a core as that of another: the registers that an instruction of the queue has taken with it. -/
def Core.scalarsOf (c o : Core) : Core :=
  { c with
    pl := o.pl, ptbr := o.ptbr, asid := o.asid, x1 := o.x1, x2 := o.x2
    thr := { c.thr with
      x := o.thr.x, vl := o.thr.vl, ew := o.thr.ew, slip := o.thr.slip, dl := o.thr.dl, dmode := o.thr.dmode, mn := o.thr.mn
      nctl := o.thr.nctl, srseed := o.thr.srseed, streams := o.thr.streams, cde := o.thr.cde } }

/-! ### Instructions -/

/-- The instructions that can wait in the queue: scalar loads, and the vector-unit instructions but those whose checks or whose scalar results
need what they read, those that wait themselves, and those of the supervisor. DESIGN CHOICE: these hold their convoy instead (R302; log entry
97). -/
def queues (i : Instr) : Bool :=
  match i with
  | .ld .. | .ldR .. => true
  | .vxch .. | .vwatch .. | .cxnext .. | .cxload .. | .cxsave .. | .dspill .. | .dfill .. | .dbudget .. | .dmacs .. | .dmacsI .. => false
  | .dsweep _ _ _ sp _ => !sp
  | _ => (info i).vec

/-- The x registers an instruction writes from the lanes or from memory, not from the scalar side (R50). -/
def laneX (i : Instr) : List XReg :=
  match i with
  | .snext .. | .sdone .. | .cxstat .. => []
  | _ => (info i).wx.filter (· != 0)

/-- The masks an instruction writes. -/
def masksWritten (i : Instr) : List MReg :=
  match i with
  | .vcmpi _ _ _ d _ _ | .vcmp _ _ _ d _ _ | .mand d _ _ | .mor d _ _ | .mxor d _ _ | .mandn d _ _ | .mnot d _ | .mset d => [d]
  | .sdone _ d _ => [d]
  | _ => []

/-- The vector registers and the masks that give the addresses of an instruction (R42, R204 to R206). -/
def addressedBy (i : Instr) : List VReg × List MReg :=
  match i with
  | .vld _ _ m _ _ _ _ | .vst _ _ m _ _ _ _ | .vlds _ _ m _ _ _ _ | .vsts _ _ m _ _ _ _ | .vldseg _ _ _ m _ _ _ _
  | .vstseg _ _ _ m _ _ _ _ => ([], [m])
  | .vldx _ _ m _ _ b _ _ | .vstx _ _ m _ _ b _ _ => ([b.reg], [m])
  | .vredm _ _ _ m _ b _ => ([b.reg], [m])
  | _ => ([], [])

/-- Whether an instruction must wait for one of the queue: for a scalar register that it has still to write (R51), or for what gives the
addresses of its own accesses, which its convoy checks before it commits (R42). -/
def State.owed (s : State) (i : Instr) : Bool :=
  let f := info i
  let mine (l : List Late) (rs : List XReg) : Bool := l.any fun e => e.pl == s.core.pl && rs.any (laneX e.instr).contains
  let a := addressedBy i
  mine s.srcCore.late f.rx || mine s.core.late f.wx ||
    s.core.late.any fun e => e.vec && (a.1.any (info e.instr).wv.contains || a.2.any (masksWritten e.instr).contains)

/-! ### An instruction of the queue runs -/

/-- The state in which an instruction of the queue runs: its own scalar side, and the lanes and the memory as they are. -/
def State.asLate (s : State) (e : Late) (mode : LateMode) : State :=
  let c := s.core
  let own : Core := { c with pl := e.pl, ptbr := e.ptbr, asid := e.asid, thr := e.src }
  { (s.setCore (c.scalarsOf (own.setBank e.bank))) with
    base := s.dev
    ctx := {
      active := true, addr := e.wordAddr, word := e.word, wordAddr := e.wordAddr, wordIdx := e.wordIdx, high := e.high
      stage := e.stage, pin := e.pin, queued := some { mode := mode, no := e.no, got := e.got, span := e.span } } }

/-- The lanes of the core as the queue will leave them, but for the values it reads: their tags are what the checks of later instructions
need. -/
def State.ahead (s : State) : Core :=
  (s.core.late.filter Late.vec).foldl (fun c e =>
    match exec e.instr ((s.setCore c).asLate e .behind) with
    | .next t => if t.ctx.active then c.lanesOf t.core else c
    | _ => c) s.core

/-- An instruction enters the queue (R42): the scalar side goes on as it leaves it, the lanes stay, and so do the registers it is to write from
them. -/
def State.enqueue (s s1 : State) (i : Instr) : State :=
  let c := s.core
  let q : LateRun := s1.ctx.queued.getD { mode := .first, no := c.lateNo }
  let e : Late :=
    { no := c.lateNo, instr := i, word := s.ctx.word, wordAddr := s.ctx.wordAddr, wordIdx := s.ctx.wordIdx, high := s.ctx.high
      src := s.srcCore.thr, bank := s.srcCore.bank, pl := c.pl, ptbr := c.ptbr, asid := c.asid, pin := s1.ctx.pin ++ s1.core.tlb
      stage := s.ctx.stage, touches := q.touches, got := q.got, span := q.span }
  let u := (laneX i).foldl (fun o d => o.setX d (c.getX d)) (s1.core.lanesOf c)
  { (s1.setCore { u with late := c.late ++ [e], lateNo := c.lateNo + 1 }) with ctx := { s1.ctx with blocked := false, queued := none } }

/-- An instruction is checked, as the first of the queue or behind others, and enters it where it does not trap. -/
def State.defer (s : State) (mode : LateMode) (i : Instr) : Out :=
  let a := match mode with | .behind => s.ahead | _ => s.core
  let t : State := { (s.setCore (s.core.lanesOf a)) with ctx := { s.ctx with
    src := s.ctx.src.map fun c => c.lanesOf a, queued := some { mode := mode, no := s.core.lateNo } } }
  andThen (exec i t) fun s1 => .next (if s1.ctx.active then s.enqueue s1 i else s1)

/-- An instruction issues: it waits for what one of the queue owes it (R51); a vector-unit instruction stands behind those that wait there (R47);
one that meets bytes it must wait for enters the queue itself (R238, R302); any other has its effect. -/
def State.issue (s : State) (i : Instr) : Out :=
  if s.ctx.vp.isSome then exec i s
  else if s.owed i then stall s
  else if (info i).vec && s.core.late.any Late.vec then (if queues i then s.defer .behind i else stall s)
  else
    andThen (exec i s) fun s1 =>
      if s1.ctx.blocked then
        let s2 : State := { s with base := s1.base }
        if queues i then s2.defer .first i else stall s2
      else .next s1

/-! ### The queue drains -/

/-- The stage of a `vbfly` goes to the instruction that takes it (R188): in the queue, or in the rest of its convoy. -/
def Core.giveStage (c : Core) (g : BitVec 65536) : Core :=
  match c.late.find? fun e => e.stage.isSome with
  | some e => { c with late := c.late.map fun f => if f.no = e.no then { f with stage := some g } else f }
  | none => { c with split := c.split.map fun x => x.map fun p =>
      { p with rest := { p.rest with stage := p.rest.stage.map fun _ => g } } }

/-- An instruction of the queue has run: the lanes and the memory are as it leaves them, and it gives the registers it owes. -/
def State.tookLate (s s1 : State) (e : Late) : State :=
  let c := s1.core
  let own := c.scalarsOf s.core
  let given := (laneX e.instr).foldl (fun o d => ({ o with pl := e.pl } : Core).setX d (c.getX d)) own
  let left : Core := { given with pl := s.core.pl, tlb := s.core.tlb, late := s.core.late.filter fun f => f.no != e.no }
  ({ s with dev := s1.dev } : State).setCore (match s1.ctx.stage with | some g => left.giveStage g | none => left)

/-- An instruction of the queue still waits: what it has read stays read, and what the transfers have done stays done. -/
def State.keptLate (s s1 : State) (e : Late) : State :=
  let q : LateRun := s1.ctx.queued.getD { mode := .turn, no := e.no }
  let on (f : Late) : Late :=
    if f.no = e.no then { f with got := q.got, touches := if f.touches.any Touch.write then f.touches else q.touches } else f
  let s2 : State := { s with dev := s1.base }
  s2.setCore { s2.core with late := s2.core.late.map on }

/-- An instruction of the queue, by number, has its turn: a vector-unit instruction after those before it (R47). None traps any more: its checks
were made when it issued (R42). -/
def State.tryLate (s : State) (no : Nat) : State :=
  match s.core.late.find? fun e => e.no == no with
  | none => s
  | some e =>
    if e.vec && s.core.late.any fun f => f.vec && decide (f.no < no) then s
    else
      match exec e.instr (s.asLate e .turn) with
      | .next s1 =>
        if s1.ctx.active then (if s1.ctx.blocked then s.keptLate s1 e else s.tookLate s1 e) else { s with dev := s1.base }
      | _ => s

/-- The queue of the core drains as far as it can. -/
def State.drainLate (s : State) : State := (s.core.late.map Late.no).foldl State.tryLate s

end Sys2Proof.Machine
end

