-- ==== Sys2Proof/Machine/Convoy.lean ====
section
/-!
DEFINITION. The run of a convoy, one instruction at a time (03 R39, R42, R45), and the turn of a core: the convoy it begins, the wait it
is in, or the interrupt it takes.
-/

namespace Sys2Proof.Machine

/-- The instruction of a word that runs: of a pair the high slot first, then the low (R39). -/
def nowRuns (b : Body) (low : Bool) : Instr :=
  match b with
  | .full i => i
  | .pair h l => if low then l else h
/-- Whether the high slot of a pair runs. -/
def highRuns (b : Body) (low : Bool) : Bool :=
  match b with
  | .full _ => false
  | .pair _ _ => !low

/-- After the high slot of a pair: the low slot reads its sources as they stood before the word (R39). -/
def State.toLow (s before : State) : State :=
  { s with ctx := { s.ctx with low := true, src := some before.core, vpSrc := before.ctx.vp.map VpRun.st } }
/-- After a word. -/
def State.nextWord (s : State) : State :=
  { s with ctx := { s.ctx with
      words := s.ctx.words.drop 1, low := false, src := none, vpSrc := none
      wordAddr := s.ctx.wordAddr + 8, wordIdx := s.ctx.wordIdx + 1 } }

/-- After an instruction: the next one stands ready, or the convoy commits; nothing where the convoy is over. -/
def State.afterSlot (s before : State) (high : Bool) : Out :=
  if !s.ctx.active then .next s
  else if high then .next (s.toLow before)
  else
    let s1 := s.nextWord
    if s1.ctx.words.isEmpty then execConvoyCommit s1 else .next s1

/-- A state in which the instruction of a decoded word is about to run. -/
def State.atSlot (s : State) (w : Word) (b : Body) : State :=
  { s with ctx := { s.ctx with checked := true, word := w, high := highRuns b s.ctx.low } }

/-- What an AIB knows after an instruction that ran while the value of its hamper operation was out (R61, R159): what the instruction wrote
from that value is not known yet. -/
def VpRun.learn (r : VpRun) (i : Instr) (old : VpRun) : VpRun :=
  let f := info i
  let open_ := f.rw.any old.unk.contains || old.unkHeld
  { r with
    unk := if open_ then f.ww ++ old.unk else old.unk.filter fun w => !f.ww.contains w
    unkHeld := old.unkHeld || (open_ && f.ww.isEmpty) }

/-- What stands after an instruction. One that comes after the convoy's stop (R42) runs for its traps alone. In an AIB, one whose sources wait
for the value of the hamper operation does not end it, nor does a trap once that is sent: the AIB completes (R61; log entry 24). So does
a convoy that commits whatever it meets (R42, R427); an exchange that fails traps all the same (R194). -/
def State.standing (s1 s0 : State) (i : Instr) : State :=
  let ends := !s1.ctx.active
  match s0.ctx.vp with
  | none =>
    if ends && !s1.ctx.trapped then (if s0.ctx.stop.isSome then s0 else s1)
    else if ends && s0.ctx.sent && !isExchange i then s0
    else s1
  | some r =>
    if s0.ctx.sent then (if ends && (s1.thr.vps.getD r.vp {}).trap.isSome then s0 else s1)
    else if r.unk.isEmpty then s1
    else if ends && (info i).rw.any r.unk.contains then s0.setRun (r.learn i r)
    else
      match s1.ctx.vp with
      | some q => s1.setRun (q.learn i r)
      | none => s1

/-- The next instruction of the convoy that runs; decode checks the whole convoy before its first (R135). -/
noncomputable def State.runSlot (s : State) : Out :=
  match s.ctx.words with
  | [] => execConvoyCommit s
  | w :: _ =>
    match (if s.ctx.checked then none else convoyFault s.ctx.vp.isSome s.ctx.words), decodeWord w with
    | some bad, _ => .next (s.trap cIllegal bad)
    | none, .error _ => .next (s.trap cIllegal w)
    | none, .ok b =>
      let i := nowRuns b s.ctx.low
      let s0 := s.atSlot w b
      andThen (s0.issue i) fun s1 => (s1.standing s0 i).afterSlot s (highRuns b s.ctx.low)

/-- A convoy that was fetched runs its first instruction. -/
noncomputable def State.runStarted (s : State) : Out := if s.ctx.active then s.runSlot else .next s

/-- The value of a hamper operation has returned: it is written, and the operation and the words before it stand for good (R427); those after
it are to run, and commit whatever they meet. -/
def State.resumeValue (s : State) (d : XReg) (v : Word) : State :=
  let r : Rest := s.core.splitHere.getD { words := [], idx := 0 }
  let after : Rest := { r with words := r.words.drop 1, idx := r.idx + 1, sent := true }
  let c := { (s.core.setX d v) with wait := none }
  { (s.setCore (c.setSplit none)) with
    base := (s.setCore (c.setSplit (if after.words.isEmpty then none else some after))).dev
    ctx := restCtx c.pc after }

/-- A `halt` that has committed ends its thread once the vector queue has drained (R65). -/
def State.endIfDrained (s : State) : State := if s.core.late.isEmpty then { s with dev := s.dev.endThread s.cur } else s

/-- A killed thread ends once its committed stores have been performed (R66, R437), and there is space for its record (R453). -/
def State.dieIfDrained (s : State) (code : BitVec 16) : State :=
  if s.core.late.isEmpty then
    let d := s.dev.endKilled s.cur code
    if s.dev.needsSpace d 5 then s else { s with dev := d }
  else s

/-- The turn of a core that runs convoys: the vector queue drains as far as it can; then the wait the core is in, or its next convoy. -/
noncomputable def State.runTurn (s : State) : Out :=
  let s1 := s.drainLate
  let go (s : State) : Out := andThen s.startConvoy State.runStarted
  let irqOr (s : State) (k : Out) : Out := match s.interrupt with | some s1 => .next s1 | none => k
  match s1.core.wait with
  | some (.value _ d (some v)) => (s1.resumeValue d v).runSlot
  | some (.value _ _ none) => .next s1
  | some (.host _) => irqOr s1 (.next s1)
  | some .ending => irqOr s1 (.next s1.endIfDrained)
  | some (.dying code) => .next (s1.dieIfDrained code)
  | some (.waiting (.polled ..)) => irqOr s1 (.next s1)
  | some (.waiting _) =>
    let s2 := s1.setCore (s1.core.leftBehind s1.dev.mem)
    irqOr s2 (go s2)
  | some .retry => irqOr s1 (go s1)
  | some .firm | some .saving | none => go s1

/-- The turn of a core: while no firmware runs, the image is verified; a core without a thread takes what interrupts it. -/
noncomputable def State.coreTurn (s : State) : Out :=
  if s.dev.stopped then .next s
  else
    match s.core.mode with
    | .off => .next (if s.dev.boot.phase.toNat ≤ 1 then { s with dev := s.dev.verifyImage } else s)
    | .free => .next (s.interrupt.getD s)
    | .run => s.runTurn

/-- A turn of the agenda (log entry 2). -/
noncomputable def State.takeTurn (s : State) (t : Turn) : Out :=
  let s1 : State := { s with cur := t.core }
  match t.event with
  | none => s1.coreTurn
  | some e => if (info e).place = .event then exec e s1 else .next s1

/-- A trap of a convoy that was waiting has withdrawn its arrival (R219). -/
def State.unwait (s : State) : State :=
  if s.ctx.trapped then
    { s with
      dev := (s.dev.squashWait s.cur (s.base.cores.get s.cur).wait).getD s.dev
      ctx := { s.ctx with trapped := false } }
  else s

/-- Time passes. -/
def Device.pass (d : Device) (n : Nat) : Device := { d with time := d.time + n }

/-- The end of a turn: time has passed, and outside a convoy the device is where the next one begins. -/
def State.closeTurn (s : State) : State :=
  let s1 := s.unwait
  let n := Config.elapsed s1.tick
  let d := s1.dev.pass n
  { s1 with tick := s1.tick + 1, dev := d, base := if s1.ctx.active then s1.base.pass n else d }

/-- The turn that comes next: the convoy that runs goes on; else the agenda, and without one the core's own. -/
noncomputable def State.turn (s : State) : Out :=
  if s.ctx.active then s.runSlot
  else
    match s.agenda with
    | [] => s.coreTurn
    | t :: rest => ({ s with agenda := rest } : State).takeTurn t

/-- A word with its convoy-end bit set. -/
def endWord (w : Word) : Word := w ||| 1
/-- A word with that bit clear. -/
def midWord (w : Word) : Word := w &&& ~~~ 1#64
/-- `tstop` as the last word of a convoy (R157). -/
def tstopWord : Word := 0x1D00000000001001

/-- The core ready to fetch from plain memory by its physical address, at level 2 (R406). -/
def Core.readyToFetch (c : Core) : Core :=
  { c with
    mode := .run, pl := 2, wait := none, pc := if isMem c.pc.toNat ∧ c.pc.toNat % 8 = 0 then c.pc else 0
    split := Vector.replicate 4 none, late := [], thr := { c.thr with xchg := none } }

/-- A virtual processor about to run the AIB at the core's next convoy: the word, and the terminator that follows it. -/
def State.readyVp (s : State) (w : Word) (ends : Bool) : State :=
  let c := s.core
  let ws := if ends then [endWord w] else [midWord w, tstopWord]
  let p : Vp := { next := c.pc, runnable := true }
  let s1 := s.setThr { c.thr with
    vps := [p], threadMode := true, vpLevel := 2, aib := Vector.replicate 64 none, lastVp := Vector.replicate 64 none }
  let s2 : State := { s1 with
    dev := { s1.dev with mem := memStore (memStore s1.dev.mem c.pc.toNat (ws.headD 0).toNat 8) (c.pc.toNat + 8) tstopWord.toNat 8 } }
  ({ s2 with base := s2.dev, ctx := { active := true, lane := 0, vp := some { vp := 0, st := p, pc := c.pc } } } : State).openConvoy c.pc ws

/-- A word placed where the core whose turn it is fetches next, as a convoy of its own; an instruction of virtual processors is
placed in an AIB of VP 0 that is about to run. -/
noncomputable def State.placeWord (s : State) (w : Word) : State :=
  let s0 : State := { s with ctx := {}, agenda := [] }
  let s1 := s0.setCore s0.core.readyToFetch
  let is := (wordInstrs w).getD []
  if is.any fun i => (info i).place == .vp then s1.readyVp w (is.any fun i => (info i).term)
  else
    let d : Device := { s1.dev with mem := memStore s1.dev.mem s1.core.pc.toNat (endWord w).toNat 8 }
    { s1 with dev := d, base := d }

end Sys2Proof.Machine
end

