-- ==== Sys2Proof/Machine/Step.lean ====
section
/-!
DEFINITION. One step: the turn that comes next, and its end; and an instruction word placed where step fetches next.
-/

namespace Sys2Proof.Machine

/-- One step. -/
noncomputable def step (s : State) : Host.Outcome State Fault Refusal := andThen s.turn fun s1 => .next s1.closeTurn

/-- The state with the instruction whose bits are `w` where step fetches its next instruction. A word of this hardware has 64
bits, so `nbits` is at most 64. -/
noncomputable def State.withFetchWord (s : State) (nbits w : Nat) : State := s.placeWord (BitVec.ofNat 64 (w % 2 ^ nbits))

end Sys2Proof.Machine
end

