-- ==== Sys2Proof/Safety.lean ====
section
/-!
DEFINITION. What statements about runs speak of: the conditions under which an instruction runs, what an instruction leaves as it
was, the elements a vector instruction writes, and the invariant every step keeps.
-/

namespace Sys2Proof.Machine

/-! ### Conditions -/

/-- The convoy that runs is the control thread's. -/
def State.Control (s : State) : Prop := s.ctx.vp = none

/-- It is, and the vector unit is not in thread mode (R56). -/
def State.VectorReady (s : State) : Prop := s.ctx.vp = none ∧ s.thr.threadMode = false

/-- The convoy that runs has not stopped at an instruction that waits, so one that ends it acts at once (R38). -/
def State.Committing (s : State) : Prop := s.ctx.vp = none ∧ s.ctx.stop = none

/-- No interrupt and no trap of a virtual processor comes before the commit of the convoy (R425, R426, R428): interrupts are disabled, or none
was pending when it began, or what the convoy has sent, or its `idle`, commits first (R381, R427). -/
def State.Undisturbed (s : State) : Prop :=
  let c := s.base.cores.get s.cur
  s.ctx.sent = true ∨ s.ctx.idled = true ∨ c.ie = false ∨ (c.irq = {} ∧ ∀ p ∈ c.thr.vps, p.trap = none)

/-- A core's next convoy of the one word `w`, its instruction about to run on the device as it stands. -/
def State.begun (s : State) (w : Word) : State :=
  { s with
    base := s.dev
    ctx := { active := true, words := [w], checked := true, addr := s.core.pc, next := s.core.pc + 8, npc := s.core.pc + 8, word := w
             wordAddr := s.core.pc } }

/-- `n` bytes of global memory that an access of the thread at a virtual address `a` reads or writes plainly, at whatever level: aligned,
translated to plain memory at `pa` (at level 2 the address itself, R406; below it by a page of kind 0 or 4, R410), not poisoned, and with no
transfer in flight and no instruction in the vector queue that it must come after. -/
def State.PlainAt (s : State) (acc : AccKind) (a : Word) (n pa : Nat) (leaf : Option Leaf) : Prop :=
  s.ctx.vp = none ∧ a.toNat % n = 0 ∧ pa % n = 0 ∧ lookup s.dev s.viewer s.core.pl acc a = .ok pa leaf ∧ isMem pa = true ∧
    (∀ l, leaf = some l → l.kind = 0 ∨ l.kind = 4) ∧ poisoned 64 s.dev.poison pa n = false ∧ s.core.late = [] ∧ s.ctx.queued = none ∧
    ∀ k, s.thr.transfers.get k = none

/-- The place of an access at whatever level: as above but for the poison and the transfers. -/
def State.PlacedAt (s : State) (acc : AccKind) (a : Word) (n pa : Nat) (leaf : Option Leaf) : Prop :=
  s.ctx.vp = none ∧ a.toNat % n = 0 ∧ pa % n = 0 ∧ lookup s.dev s.viewer s.core.pl acc a = .ok pa leaf ∧ isMem pa = true ∧
    (∀ l, leaf = some l → l.kind = 0 ∨ l.kind = 4) ∧ s.core.late = [] ∧ s.ctx.queued = none

/-- A plain access at level 2, where an address is its own translation. -/
def State.Plain (s : State) (a : Word) (n : Nat) : Prop := s.core.pl = 2 ∧ ∀ acc, s.PlainAt acc a n a.toNat none

/-- The same of an element of a vector access at a translation the TLB holds, below every link watermark (R238). -/
def State.PlainElem (s : State) (acc : AccKind) (a : Word) (n pa : Nat) : Prop :=
  ∃ leaf, s.PlainAt acc a n pa leaf ∧ s.filled a leaf = s ∧ (s.core.pl = 0 → linkStalls s.thr a.toNat n = false)

/-- `n` bytes of a local buffer it reads or writes plainly (R199, R200): aligned, at a place it may reach, not poisoned. -/
def State.PlainLocal (s : State) (sp : Space) (a : Word) (n : Nat) (l : Local) : Prop :=
  s.ctx.vp = none ∧ a.toNat % n = 0 ∧ sp ≠ .glob ∧ s.dev.locate s.cur sp a n = some l ∧ s.dev.localPoisoned l n = false ∧
    s.core.late = [] ∧ s.ctx.queued = none ∧ ∀ k, s.thr.transfers.get k = none

/-- `n` bytes of a space that a vector read of the thread plainly gives, at whatever level: their value. -/
def State.Reads (s : State) (sp : Space) (a : Word) (n v : Nat) : Prop :=
  (sp = .glob ∧ ∃ pa, s.PlainElem .vecRead a n pa ∧ v = memLoad s.dev.mem pa n) ∨
    ∃ l, s.PlainLocal sp a n l ∧ v = memLoad ((s.dev.cores.get l.core).buf l.wb) l.off n

/-- The next coordinate of a fibre, whatever element of a delivery it is; none at its end (R274). -/
def State.Peeks (s : State) (f : Stream) (n : Option Next) : Prop := ∀ e, s.peek f e = .ok n s

/-- A walk of `k` coordinates along a fibre: the fibre before each, and the coordinate (R275). -/
def State.Walk (s : State) (k : Nat) (f : Nat → Stream) (n : Nat → Next) : Prop :=
  ∀ i, i < k → s.Peeks (f i) (some (n i)) ∧ f (i + 1) = (f i).consume (n i)

/-! ### Frames -/

/-- No byte of global, remote or local memory and no byte of a metadata memory differs. -/
def SameBytes (s t : State) : Prop :=
  (∀ a, memRead t.dev.mem a = memRead s.dev.mem a) ∧ (∀ a, memRead t.dev.remote a = memRead s.dev.remote a) ∧
    ∀ (c : CoreNo) (a : Nat),
      memRead (t.dev.cores.get c).ab a = memRead (s.dev.cores.get c).ab a ∧
      memRead (t.dev.cores.get c).wb a = memRead (s.dev.cores.get c).wb a ∧
      memRead (t.dev.cores.get c).md a = memRead (s.dev.cores.get c).md a

/-- No byte of global memory outside `p`, and none of remote and local memory, differs. -/
def SameBut (p : Nat → Prop) (s t : State) : Prop :=
  (∀ a, ¬ p a → memRead t.dev.mem a = memRead s.dev.mem a) ∧ (∀ a, memRead t.dev.remote a = memRead s.dev.remote a) ∧
    ∀ (c : CoreNo) (a : Nat),
      memRead (t.dev.cores.get c).ab a = memRead (s.dev.cores.get c).ab a ∧
      memRead (t.dev.cores.get c).wb a = memRead (s.dev.cores.get c).wb a ∧
      memRead (t.dev.cores.get c).md a = memRead (s.dev.cores.get c).md a

/-- Only x register `d` of the current level may differ. -/
def OnlyX (d : XReg) (s t : State) : Prop :=
  SameBytes s t ∧ (∀ r, r ≠ d → t.core.getX r = s.core.getX r) ∧ ∃ b, t = s.setCore (s.core.setBank b)

/-- Only vector register `d` and the lanes' queue of operations may differ. -/
def OnlyV (d : VReg) (s t : State) : Prop :=
  SameBytes s t ∧ (∀ r, r ≠ d → t.thr.v.get r = s.thr.v.get r) ∧
    ∃ v n, t = s.finish n (s.thr.setV d v) ∨ t = s.finishBarrier n (s.thr.setV d v)

/-- Only mask register `d` and the lanes' queue may differ. -/
def OnlyM (d : MReg) (s t : State) : Prop :=
  SameBytes s t ∧ (∀ r, r ≠ d → t.thr.m.get r = s.thr.m.get r) ∧ ∃ m n, t = s.finish n { s.thr with m := m }

/-- Only w register `d` of the AIB that runs may differ: nothing of the device is written before the AIB completes (R61). -/
def OnlyW (d : WReg) (r : VpRun) (s t : State) : Prop :=
  ∃ w, t = s.setRun { r with st := { r.st with w := w } } ∧ ∀ k, k ≠ d → w.get k = r.st.w.get k

/-- The destination of an instruction that writes one x register and nothing else (chapter 07). -/
def scalarDest : Instr → Option XReg
  | .add _ d _ _ => some d
  | .sub _ d _ _ => some d
  | .and _ d _ _ => some d
  | .or _ d _ _ => some d
  | .xor _ d _ _ => some d
  | .sll _ d _ _ => some d
  | .srl _ d _ _ => some d
  | .sra _ d _ _ => some d
  | .slt _ d _ _ => some d
  | .min _ d _ _ => some d
  | .max _ d _ _ => some d
  | .csel _ d _ _ _ => some d
  | .addsl _ d _ _ _ => some d
  | .mul _ d _ _ => some d
  | .mulh _ d _ _ => some d
  | .div _ d _ _ => some d
  | .rem _ d _ _ => some d
  | .clz _ d _ => some d
  | .ctz _ d _ => some d
  | .popc _ d _ => some d
  | .ext _ d _ => some d
  | .addi _ d _ _ => some d
  | .andi _ d _ _ => some d
  | .ori _ d _ _ => some d
  | .xori _ d _ _ => some d
  | .slli _ d _ _ => some d
  | .srli _ d _ _ => some d
  | .srai _ d _ _ => some d
  | .slti _ d _ _ => some d
  | .muli _ d _ _ => some d
  | .lim d _ => some d
  | .lih d _ => some d
  | .addpc d _ => some d
  | .mov d _ => some d
  | .addiR d _ => some d
  | .addR d _ => some d
  | .subR d _ => some d
  | .andR d _ => some d
  | .orR d _ => some d
  | .xorR d _ => some d
  | .shli d _ => some d
  | .shri d _ => some d
  | .sraiR d _ => some d
  | .fadd _ d _ _ _ => some d
  | .fsub _ d _ _ _ => some d
  | .fmul _ d _ _ _ => some d
  | .fdiv _ d _ _ _ => some d
  | .fsqrt _ d _ _ => some d
  | .fmin _ d _ _ _ => some d
  | .fmax _ d _ _ _ => some d
  | .fneg _ d _ _ => some d
  | .fabs _ d _ _ => some d
  | .feq _ d _ _ _ => some d
  | .flt _ d _ _ _ => some d
  | .fle _ d _ _ _ => some d
  | .fcvt _ _ d _ _ => some d
  | .fma _ d _ _ _ _ => some d
  | .fli _ d _ => some d
  | .faddi _ d _ _ => some d
  | .fmuli _ d _ _ => some d
  | .cpget d _ _ => some d
  | .wbtag d => some d
  | _ => none

/-- The destination of an instruction that writes one w register, reads none but w registers and never traps (chapter 07). -/
def vpDest : Instr → Option WReg
  | .wmovR d _ => some d
  | .waddiR d _ => some d
  | .waddR d _ => some d
  | .wfaddR d _ => some d
  | .wfmulR d _ => some d
  | .wmov d _ => some d
  | .wadd _ d _ _ => some d
  | .wsub _ d _ _ => some d
  | .wmul _ d _ _ => some d
  | .wand d _ _ => some d
  | .wor d _ _ => some d
  | .wxor d _ _ => some d
  | .wshl d _ _ => some d
  | .wshr d _ _ => some d
  | .wsra d _ _ => some d
  | .wmin _ d _ _ => some d
  | .wmax _ d _ _ => some d
  | .wseq _ d _ _ => some d
  | .wslt _ d _ _ => some d
  | .wfeq d _ _ _ => some d
  | .wflt d _ _ _ => some d
  | .wfle d _ _ _ => some d
  | .wsel d _ _ _ => some d
  | .wfadd d _ _ _ => some d
  | .wfsub d _ _ _ => some d
  | .wfmul d _ _ _ => some d
  | .wfma d _ _ _ _ => some d
  | .wcvt _ _ d _ _ => some d
  | .wfmin d _ _ _ => some d
  | .wfmax d _ _ _ => some d
  | .wli _ d _ => some d
  | .waddi _ d _ _ => some d
  | .wandi d _ _ => some d
  | .wori d _ _ => some d
  | .wxori d _ _ => some d
  | .wshli d _ _ => some d
  | .wshri d _ _ => some d
  | .wsrai d _ _ => some d
  | .wseqi _ d _ _ => some d
  | .wslti _ d _ _ => some d
  | _ => none

/-- The destination of an instruction that writes one vector register and nothing else (chapter 08). -/
def vectorDest : Instr → Option VReg
  | .vadd _ _ d _ _ => some d
  | .vsub _ _ d _ _ => some d
  | .vmul _ _ d _ _ => some d
  | .vmulh _ _ d _ _ => some d
  | .vdiv _ _ d _ _ => some d
  | .vrem _ _ d _ _ => some d
  | .vmin _ _ d _ _ => some d
  | .vmax _ _ d _ _ => some d
  | .vsll _ _ d _ _ => some d
  | .vsrl _ _ d _ _ => some d
  | .vsra _ _ d _ _ => some d
  | .vand _ _ d _ _ => some d
  | .vor _ _ d _ _ => some d
  | .vxor _ _ d _ _ => some d
  | .vandn _ _ d _ _ => some d
  | .vabs _ _ d _ => some d
  | .vneg _ _ d _ => some d
  | .vnot _ _ d _ => some d
  | .vmadd _ _ d _ _ _ => some d
  | .vaddi _ _ d _ _ => some d
  | .vmuli _ _ d _ _ => some d
  | .vmini _ _ d _ _ => some d
  | .vmaxi _ _ d _ _ => some d
  | .vandi _ _ d _ _ => some d
  | .vori _ _ d _ _ => some d
  | .vxori _ _ d _ _ => some d
  | .vslli _ _ d _ _ => some d
  | .vsrli _ _ d _ _ => some d
  | .vsrai _ _ d _ _ => some d
  | .vaddiF _ _ d _ _ => some d
  | .vmuliF _ _ d _ _ => some d
  | .vminiF _ _ d _ _ => some d
  | .vmaxiF _ _ d _ _ => some d
  | .vsel _ d _ _ _ => some d
  | .vbcast _ _ d _ => some d
  | .vtag d _ _ _ => some d
  | .vidx _ _ d _ _ => some d
  | .vaddiR d _ => some d
  | .vmov d _ => some d
  | .vaddF _ _ d _ _ _ => some d
  | .vsubF _ _ d _ _ _ => some d
  | .vmulF _ _ d _ _ _ => some d
  | .vdivF _ _ d _ _ _ => some d
  | .vminF _ _ d _ _ _ => some d
  | .vmaxF _ _ d _ _ _ => some d
  | .vsqrt _ _ d _ _ => some d
  | .vnegF _ _ d _ _ => some d
  | .vabsF _ _ d _ _ => some d
  | .vdqnt _ _ d _ _ => some d
  | .vfma _ _ d _ _ _ _ => some d
  | .vfmaw _ _ d _ _ _ => some d
  | .vcvt _ _ _ d _ _ => some d
  | .vbfly _ d _ _ false _ => some d
  | .vrnd _ d _ _ => some d
  | .vscansum _ _ d _ _ _ => some d
  | .vscanmin _ _ d _ _ _ => some d
  | .vscanmax _ _ d _ _ _ => some d
  | .vsegsum _ _ d _ _ => some d
  | .vsegmin _ _ d _ _ => some d
  | .vsegmax _ _ d _ _ => some d
  | .vslideup _ _ d _ _ => some d
  | .vslidedn _ _ d _ _ => some d
  | .vrot _ _ d _ _ => some d
  | .vperm _ _ d _ _ => some d
  | .vcompress _ d _ _ => some d
  | .vexpand _ d _ _ => some d
  | _ => none

/-- The vector registers that any other instruction with such a destination writes: loads, deliveries, quantisation, exchanges and moves out of
slots (chapters 08 to 11); a butterfly whose result goes to the instruction that follows writes none (R188). -/
def vectorsTo : Instr → Option (List VReg)
  | .vld _ _ _ d _ _ _ => some [d]
  | .vlds _ _ _ d _ _ _ => some [d]
  | .vldx _ _ _ d _ _ _ _ => some [d]
  | .vldseg _ _ _ _ d _ n _ => some (vrange d n)
  | .vqnt _ _ d _ => some [d]
  | .vbfly _ _ _ _ true _ => some []
  | .vxch _ d _ _ _ => some [d]
  | .dmovV _ d _ _ _ => some [d]
  | .dcvt _ _ d _ _ _ => some [d]
  | .snext d e _ _ => some (d :: e.toList)
  | .cxnext _ c a b => some [c, a, b]
  | _ => none

/-- The destination of an instruction that writes one mask register and nothing else (chapter 08). -/
def maskDest : Instr → Option MReg
  | .vcmp _ _ _ d _ _ => some d
  | .vcmpi _ _ _ d _ _ => some d
  | .mand d _ _ => some d
  | .mor d _ _ => some d
  | .mxor d _ _ => some d
  | .mandn d _ _ => some d
  | .mnot d _ => some d
  | .mset d => some d
  | _ => none

/-! ### Values -/

/-- The low bits of a word at the width of `t`, extended by its sign (R138). -/
def narrow (t : Ty) (w : Word) : Word :=
  match t with
  | .s32 => (w.setWidth 32).signExtend 64
  | .z32 => (w.setWidth 32).setWidth 64
  | _ => w

/-- Order by the sign of a type. -/
def below (t : Ty) (x y : Word) : Bool := if t.signed then x.slt y else x.ult y

/-- What an element-wise instruction leaves in its destination: type, span, and element by element the new value where the
element is below `VL` and its mask bit is set, the old one elsewhere (R70, R71, R169). -/
def Elements (s : State) (ty : Ty) (m : MReg) (d : VReg) (f : Nat → Nat) (v : VecReg) : Prop :=
  v.ty = ty ∧ v.span = 0 ∧ v.side = (s.thr.v.get d).side ∧ ∀ e, (e + 1) * ty.bits ≤ 65536 →
    v.elem ty e = if e < s.vl ∧ s.srcCore.thr.maskBit m e = true then f e % 2 ^ ty.bits else (s.thr.v.get d).elem ty e

/-- The instruction completes with those elements in vector register `d`. -/
def Computes (s : State) (i : Instr) (w : Nat) (ty : Ty) (m : MReg) (d : VReg) (f : Nat → Nat) : Prop :=
  ∃ v, exec i s = .next (s.finish (groupsOf s.vl w) (s.thr.setV d v)) ∧ Elements s ty m d f v

/-- The same for an instruction that is an implicit lane barrier (R172), with the elements it writes named. -/
def Crosses (s : State) (i : Instr) (w : Nat) (ty : Ty) (d : VReg) (p : Nat → Bool) (f : Nat → Nat) : Prop :=
  ∃ v, exec i s = .next (s.finishBarrier (groupsOf s.vl w) (s.thr.setV d v)) ∧ v.ty = ty ∧ v.span = 0 ∧
    v.side = (s.thr.v.get d).side ∧ ∀ e, (e + 1) * ty.bits ≤ 65536 →
      v.elem ty e = if p e = true then f e % 2 ^ ty.bits else (s.thr.v.get d).elem ty e

/-- The instruction completes with `f` in mask register `d`: at the bits named, the others as before (R70, R196). -/
def Masks (s : State) (i : Instr) (w : Nat) (d : MReg) (p f : Nat → Bool) : Prop :=
  ∃ m : BitVec 8192, exec i s = .next (s.finish (groupsOf s.vl w) { s.thr with m := s.thr.m.set d.val m d.isLt }) ∧
    ∀ e, e < 8192 → m.getLsbD e = if p e = true then f e else (s.thr.m.get d).getLsbD e

/-! ### The diagonal multiply engine -/

/-- A slot that no other launch owns (R74). -/
def State.Mine (s : State) (k : Nat) : Prop := (s.core.slot k).owner = none ∨ (s.core.slot k).owner = some s.thr.lnch

/-- The values of a slot as an instruction finds them: a slot it claims reads zero (R74). -/
def State.owned (s : State) (k : Nat) : BitVec 4096 :=
  if (s.core.slot k).owner = some s.thr.lnch then (s.core.slot k).vals else 0

/-- Value `v` of the range of slots from `k` on (R244). -/
def State.cell (s : State) (k v : Nat) : Nat := elemGet (s.owned (k + v / 128)) 32 (v % 128)

/-- The number of slots a product goes to. -/
def Mac.span (m : Mac) (s : State) : Nat := if m.sweep then s.thr.mn.toNat else (s.thr.dl + 127) / 128

/-- A multiply instruction whose checks of R246 and R262 are met in a mode, its operands apart. -/
def State.MacReady (s : State) (m : Mac) (mode : DForm) : Prop :=
  s.VectorReady ∧ s.thr.dmode = some mode ∧ 1 ≤ s.thr.mn.toNat ∧ s.thr.mn.toNat ≤ s.thr.dl ∧
    (mode = .pack ∨ s.thr.dl ≤ 65536 / s.thr.ew.bits) ∧ m.k + m.span s ≤ 512 ∧
    (m.sweep = true ∨ (m.p.natAbs < s.thr.mn.toNat ∧ m.q.natAbs < s.thr.mn.toNat)) ∧
    (m.sparse = true → m.off % 8 = 0 ∧ ∀ e ∈ m.positions s.thr.mn.toNat, metaOk s.thr s.core.md s.thr.latchA.ty m.off e = true) ∧
    ∀ k, m.k ≤ k → k < m.k + m.span s → s.Mine k

/-- What a product leaves in value `v` of its slots (R242, R247, R252, R253). -/
def Mac.result (m : Mac) (s : State) (dot : Nat → Nat → DVal) (v : Nat) : Nat :=
  let n := s.thr.mn.toNat
  let old := s.cell m.k v
  let r := m.p + m.q
  let row : Int := v + max 0 (-r)
  if m.sweep = true then
    if v / 128 < n ∧ v % 128 < n then
      let i := v % 128
      let j := (i + v / 128) % n
      if m.tri = true ∧ m.t < (j : Int) - i then s.thr.fill.toNat else accValue s.num v old (dot i j)
    else old
  else if n ≤ r.natAbs then old
  else if m.tri = true ∧ m.t < r then (if v + r.natAbs < n then s.thr.fill.toNat else old)
  else if max 0 (max (-m.p) (max 0 (-m.q) - m.p)) ≤ row ∧ row < min ((n : Int) - max 0 m.p) (n - max 0 m.q - m.p) then
    accValue s.num v old (dot (row - max 0 (-m.p)).toNat (row + m.p - max 0 (-m.q)).toNat)
  else old

/-- The instruction completes, with that in each value of its slots, and the thread as `after` makes it. -/
def Multiplies (s : State) (i : Instr) (m : Mac) (dot : Nat → Nat → DVal) (after : Thread → Thread) : Prop :=
  ∃ t, exec i s = .next t ∧ t.thr = after s.thr ∧ t.dev.mem = s.dev.mem ∧
    ∀ v, v < 128 * m.span s → t.cell m.k v = m.result s dot v

/-- What taking a trap or an interrupt between two convoys leaves in a core: the saved registers of the level it enters, and the
vector (R371). -/
def Taken (q t : Core) (code : BitVec 8) (int vp : Bool) (vpn : BitVec 10) (tval : Word) : Prop :=
  let l : BitVec 2 := if q.pl = 0 then 1 else 2
  let r := t.trapRegs l
  t.pl = l ∧ t.ie = false ∧ t.pc = (q.trapRegs l).tvec &&& ~~~ 7#64 ∧ r.tepc = q.pc &&& ~~~ 7#64 ∧ r.tval = tval ∧
    r.tcause = 0#41 ++ BitVec.ofBool q.ie ++ q.pl ++ vpn ++ BitVec.ofBool vp ++ BitVec.ofBool int ++ code

/-- The partition map retires no core that is not known to be retired, and no launch of the partition is larger than it (R424). -/
def Device.Quiet (d : Device) (p : PartNo) : Prop :=
  d.mapRetired p (d.parts.get p).qmask ||| (d.parts.get p).retired = (d.parts.get p).retired ∧
    ∀ l ∈ d.launches, l.pid = p → l.nthr ≤ (d.partCores p).length

/-- The completion record of a queue's slot lies at consecutive bytes from `pa` (R403). -/
def Device.RecordAt (d : Device) (e : QEntry) (pos : Half) (pa : Nat) : Prop :=
  ∀ i, i < 32 → d.qplace e .vecStore (e.comp + 32 * (pos.toNat % e.size) + i) = some (pa + i)

/-! ### The invariant -/

/-- Between two turns no convoy runs, or one that has words left; outside a convoy nothing of one is left, and a trap is over. -/
def State.Settled (s : State) : Prop :=
  s.ctx.trapped = false ∧ s.ctx.blocked = false ∧ s.ctx.queued = none ∧ (s.ctx.active = true → s.ctx.words ≠ []) ∧
    (s.ctx.active = false → s.base = s.dev ∧ s.ctx.words = [] ∧ s.ctx.checked = false ∧ s.ctx.low = false ∧ s.ctx.high = false ∧
      s.ctx.src = none ∧ s.ctx.vp = none ∧ s.ctx.vpSrc = none ∧ s.ctx.stage = none ∧ s.ctx.stop = none ∧
      s.ctx.sent = false ∧ s.ctx.idled = false ∧ s.ctx.pin = [])

/-- Every memory of the device is in its canonical form: addresses rise, and no zero byte is listed. -/
def Device.Canonical (d : Device) : Prop :=
  d.mem.wf = true ∧ d.remote.wf = true ∧ d.flash.wf = true ∧
    ∀ c : CoreNo, (d.cores.get c).ab.wf = true ∧ (d.cores.get c).wb.wf = true ∧ (d.cores.get c).md.wf = true

/-- So is every device the state holds. -/
def State.Canonical (s : State) : Prop :=
  s.dev.Canonical ∧ s.base.Canonical ∧ ∀ x, s.ctx.stop = some x → x.dev.Canonical

end Sys2Proof.Machine
end

