-- ==== Sys2Proof/Certificates/Slice0/Obligations.lean ====
section
/-!
DEFINITION. The statements the provers are asked for.
-/

open Sys2Proof Sys2Proof.Machine

/-! ### Encoding -/

/-- R115, R121, R125: the word of a well-formed full-word instruction decodes to that instruction, whatever its convoy-end bit. -/
def Obligations.EncodeThenDecode : Prop :=
  ∀ (i : Instr) (w : Word), i.WellFormed → encode i = some w → w.getLsbD 63 = false →
    decodeWord w = .ok (.full i) ∧ decodeWord (w &&& ~~~ 1#64) = .ok (.full i)

/-- R131 to R133: two well-formed restricted instructions make a word that decodes to the pair where the pairing limits allow it,
and is refused for them elsewhere. -/
def Obligations.PairDecodes : Prop :=
  ∀ (hi lo : Instr) (f g : SlotF) (e : Bool), hi.WellFormed → lo.WellFormed → fields hi = some (.slot f) →
    fields lo = some (.slot g) →
    decodeWord (1#1 ++ f.bits ++ g.bits ++ BitVec.ofBool e) =
      if pairOk hi lo = true then .ok (.pair hi lo) else .error .pairingLimit

/-- R124, R125: a word that decodes to a full-word instruction is the word of that instruction, which is well-formed, so that a word
with a reserved field that is not zero is no instruction; and a full word whose major opcode names no instruction is refused as
unassigned. -/
def Obligations.DecodeThenEncode : Prop :=
  (∀ (i : Instr) (w : Word), decodeWord w = .ok (.full i) → i.WellFormed ∧ encode i = some (w ||| 1#64)) ∧
  (∀ w : Word, w.getLsbD 63 = false →
     (w.extractLsb' 56 7).toNat ∉ [0x00, 0x01, 0x02, 0x08, 0x0E, 0x10, 0x16, 0x18, 0x19, 0x1A, 0x1B, 0x1C, 0x1D, 0x1E, 0x1F, 0x20, 0x21,
       0x22, 0x23, 0x2C, 0x30, 0x31, 0x39, 0x3A, 0x3C, 0x3D, 0x3E, 0x3F, 0x40, 0x44, 0x45, 0x46, 0x47, 0x48, 0x50, 0x51, 0x58, 0x59,
       0x5A, 0x5B, 0x5C, 0x60, 0x61, 0x64, 0x68, 0x69, 0x70, 0x71, 0x76, 0x7C, 0x7D] →
     decodeWord w = .error .unassigned)

/-- Words the spec writes out: `sopen.fib.idx16 s0, x10, x11, x0` and `cxnext x17, v4, v5, v6` (11_isa_coordinate), `hpush x20, (x10),
x11` (R229), the pair of two `wfmal` (06_encoding, after R134), and `vadd.f32 v3, v1, v2` in the fields 08_isa_vector gives it. -/
def Obligations.WordsDecode : Prop :=
  decodeWord 0x6800A2C000002000 = .ok (.full (.sopenFib .s8 .glob .glob .idx16 0 10 11 0)) ∧
  decodeWord 0x6944414030001000 = .ok (.full (.cxnext 17 4 5 6)) ∧
  decodeWord 0x5B50A2C000001101 = .ok (.full (.hpush .device 20 10 11)) ∧
  decodeWord 0xD4200000A8608002 = .ok (.pair (.wfmalR 2 0 0) (.wfmalR 3 1 1)) ∧
  decodeWord 0b0_0110000_000011_000001_000010_000_1_1_000000_0_01010_000000000_00000000111_1 =
    .ok (.full (.vaddF .f32 0 3 ⟨1, true⟩ ⟨2, true⟩ .ctl))

/-- R126: a hint executes as a no-operation, whatever its other bits hold: it is speculative, that is, no commit instruction, changes nothing
and takes no trap. -/
def Obligations.HintDoesNothing : Prop :=
  ∀ (w : Word) (s : State), w.getLsbD 63 = false → (w.extractLsb' 56 7 = 0x7C#7 ∨ w.extractLsb' 56 7 = 0x7D#7) →
    ∃ odd bits, decodeWord w = .ok (.full (.hint odd bits)) ∧ exec (.hint odd bits) s = .next s ∧
      info (.hint odd bits) = { place := .both, vec := false, transfer := false, commit := false, value := none, waiting := false
                                rx := [], wx := [], rv := [], wv := [], rw := [], ww := [] }

/-! ### Steps -/

/-- A step in the middle of a convoy issues the instruction of the word that stands next, and then what stands around it: the low slot
or the next word made ready, or the commit (R39, R42), and the end of the turn. `standing` is what is left of an
instruction after one its convoy stops at (R42), or before the value of its AIB's hamper operation (R61). An instruction that issues has its
effect: one of a virtual processor always, one of the control thread where nothing waits in the vector queue and it meets no byte it must wait
for there (R238, R302; what waits there is the model's: log entry 85). -/
def Obligations.StepRunsDecoded : Prop :=
  (∀ (s : State) (w : Word) (ws : List Word) (b : Body), s.ctx.active = true → s.ctx.words = w :: ws → s.ctx.checked = true →
    decodeWord w = .ok b →
    step s = andThen (andThen ((s.atSlot w b).issue (nowRuns b s.ctx.low)) fun t =>
      (t.standing (s.atSlot w b) (nowRuns b s.ctx.low)).afterSlot s (highRuns b s.ctx.low)) fun t => .next t.closeTurn) ∧
  (∀ (s t : State) (i : Instr), exec i s = .next t →
    (s.ctx.vp.isSome = true → s.issue i = .next t) ∧
    (s.core.late = [] → s.srcCore.late = [] → t.ctx.blocked = false → s.issue i = .next t))

/-- A core at level 2 at rest fetches its next word from the physical address in its pc, and a well-formed convoy of that one word
runs (R36, R116, R406): the instruction acts on the device as it stands, with the convoy's own addresses (R123), and waits in the vector queue
alone where it meets bytes that it must wait for (R238, R302; log entry 85). -/
def Obligations.StepFetchesAndRuns : Prop :=
  ∀ (s : State) (w : Word) (i : Instr), s.ctx.active = false → s.agenda = [] → s.dev.stopped = false → s.core.mode = .run →
    s.core.pl = 2 → s.core.wait = none → s.core.split.get 2 = none → s.core.late = [] →
    isMem s.core.pc.toNat = true →
    poisoned 64 s.dev.poison s.core.pc.toNat 8 = false → memLoad s.dev.mem s.core.pc.toNat 8 = w.toNat → lastBit w = true →
    decodeWord w = .ok (.full i) → convoyFault false [w] = none →
    step s = (andThen (andThen ((s.begun w).issue i) fun t => t.afterSlot (s.begun w) false) fun t => .next t.closeTurn) ∧
      ∀ t, exec i (s.begun w) = .next t → t.ctx.blocked = false → (s.begun w).issue i = .next t

/-- R42: the convoy whose words have all run commits, where no interrupt and no trap of a virtual processor comes before it: the pc is the
address of the convoy that follows, what waited is over, the replay of a convoy that faulted clears `VSTART` (R84), and nothing of the convoy
is left. -/
def Obligations.CommitAdvances : Prop :=
  ∀ s : State, s.ctx.active = true → s.ctx.words = [] → s.Committing → s.Undisturbed →
    ∃ t, exec .convoyCommit s = .next t ∧ t = (s.setCore { s.core with
        pc := s.ctx.npc, wait := none, thr := s.thr.replayed s.core.pc s.core.pl }).endConvoy ∧
      t.core.pc = s.ctx.npc ∧ t.ctx.active = false ∧ SameBytes s t

/-- Every step keeps the invariant of the boundary between two turns. -/
def Obligations.StepKeepsSettled : Prop :=
  ∀ s t : State, s.Settled → step s = .next t → t.Settled

/-- No instruction and no event ends in a fault or a refusal: each answers a next state, whatever the state and its operands. -/
def Obligations.EveryInstructionAnswers : Prop :=
  ∀ (i : Instr) (s : State), ∃ t, exec i s = .next t

/-- The device after reset (R467, Tables 19.2, 19.3, 4.2): on every core no convoy runs, the level is 2, interrupts are disabled,
`TVEC` of both levels and `PTBR` are 0, memory holds zeros, every accumulator slot is free, and the extents of every copy channel are 1. The
values of registers the spec states no reset value for are the model's (log entry 4). Both invariants hold there. -/
def Obligations.ResetValues : Prop :=
  State.reset.Settled ∧ State.reset.Canonical ∧ ∀ c : CoreNo, let o := State.reset.dev.cores.get c
    o.mode = .off ∧ o.pl = 2 ∧ o.ie = false ∧ o.t1.tvec = 0 ∧ o.t2.tvec = 0 ∧ o.ptbr = 0 ∧ o.asid = 0 ∧
    (∀ k : Slot, (o.am.get k).owner = none) ∧ (∀ k : Chan, ∀ r : Fin 29, 3 ≤ r.val → r.val ≤ 8 → (o.thr.shadow.get k).get r = 1) ∧
    (∀ r : XReg, o.getX r = 0) ∧ o.thr.vl = 0 ∧ o.thr.ew = .w32 ∧
    (∀ a, memRead State.reset.dev.mem a = 0) ∧ (∀ q : Fin 4, State.reset.dev.pwin.get q = 4)

/-! ### Traps and levels -/

/-- R371: what taking a trap writes, and that it writes nothing else of the core. -/
def Obligations.TrapEntry : Prop :=
  ∀ (c : Core) (code : BitVec 8) (int vp : Bool) (vpn : BitVec 10) (tval tepc : Word), tepc.toNat % 8 = 0 → c.pl ≤ 2 →
    (c.trapRegs (trapLevel c.pl)).tvec.toNat % 8 = 0 →
    let t := c.enterTrap code int vp vpn tval tepc
    let r := t.trapRegs (trapLevel c.pl)
    trapLevel c.pl = (if c.pl = 0 then 1 else 2) ∧ t.pl = trapLevel c.pl ∧ t.ie = false ∧
    r.tepc = tepc ∧ r.tval = tval ∧ r.tcause.extractLsb' 0 8 = code ∧ r.tcause.getLsbD 8 = int ∧ r.tcause.getLsbD 9 = vp ∧
    r.tcause.extractLsb' 10 10 = vpn ∧ r.tcause.extractLsb' 20 2 = c.pl ∧ r.tcause.getLsbD 22 = c.ie ∧
    r.tvec = (c.trapRegs (trapLevel c.pl)).tvec ∧ t.pc = (c.trapRegs (trapLevel c.pl)).tvec ∧
    t = { c with pc := t.pc, pl := t.pl, ie := t.ie, t1 := t.t1, t2 := t.t2 } ∧
    (trapLevel c.pl = 1 → t.t2 = c.t2) ∧ (trapLevel c.pl = 2 → t.t1 = c.t1)

/-- R45: a synchronous trap of the control thread discards its convoy whole. The device is the one the convoy began with, but for the
core's trap registers, level, pc and interrupt enable, and an instruction it waited for; `TEPC` is the address of the convoy. -/
def Obligations.TrapsArePrecise : Prop :=
  ∀ (s : State) (code : BitVec 8) (tval : Word), s.Control →
    let c := s.base.cores.get s.cur
    let c1 : Core := { (c.enterTrap code false false 0 tval c.pc) with wait := none }
    let d : Device := { s.base with cores := s.base.cores.set s.cur.val c1 s.cur.isLt }
    s.trap code tval = { s with dev := d, ctx := { (s.endConvoy).ctx with trapped := true } }

/-- R375: `tret` where its checks pass and no interrupt comes before its commit: level, interrupt enable and pc come from the trap registers of
the level it leaves; a thread's core keeps everything else, but for a VP it serves (R428) and for the thread mode of a loaded context, which
begins here (R378). A thread of a launch that is being restored stands until the others are restored (R34, R398; how it stands is the
model's reading: log entry 93). And the two traps of `tret`. -/
def Obligations.TrapReturn : Prop :=
  (∀ s : State, s.Committing → s.Undisturbed → 1 ≤ s.core.pl.toNat →
     let r := s.core.trapRegs s.core.pl
     let l := r.tcause.extractLsb' 20 2
     l.toNat ≤ s.core.pl.toNat → r.tepc.toNat % 8 = 0 → (l = 0 → s.core.ended = false ∧ s.core.idleBelow = false) →
     ∃ t, exec .tret s = .next t ∧ t.core.pl = l ∧ t.core.ie = r.tcause.getLsbD 22 ∧ t.core.pc = r.tepc ∧ t.ctx.active = false ∧
       t.core.x1 = s.core.x1 ∧ t.core.x2 = s.core.x2 ∧ t.thr.x = s.thr.x ∧ t.core.t1 = s.core.t1 ∧ t.core.t2 = s.core.t2 ∧ SameBytes s t ∧
       (l = 0 → s.thr.modeDue = true → (∃ p ∈ s.thr.vps, p.runnable = true) → t.thr.threadMode = true ∧ t.thr.modeDue = false) ∧
       (l = 0 → ∀ q k, s.dev.launchOn s.cur = some q → s.dev.launchNo q.arrival = some q → s.thr.tid.toNat ∈ q.resuming → k ∈ q.resuming →
         k ≠ s.thr.tid.toNat → t.core.mode = .free ∧ ∃ m, t.dev.launchNo q.arrival = some m ∧ k ∈ m.resuming ∧
           s.thr.tid.toNat ∉ m.resuming)) ∧
  (∀ s : State, s.Control → 1 ≤ s.core.pl.toNat →
     let r := s.core.trapRegs s.core.pl
     (s.core.pl.toNat < (r.tcause.extractLsb' 20 2).toNat → exec .tret s = .next (s.trap cOperand s.ctx.word)) ∧
     ((r.tcause.extractLsb' 20 2).toNat ≤ s.core.pl.toNat → r.tepc.toNat % 8 ≠ 0 →
       exec .tret s = .next (s.trap cInstrAddr r.tepc)))

/-- R374: an instruction executed below its level raises an illegal-instruction trap, whatever its operands. R151: `svc` and `brk` commit
their convoy and take the trap, with the code in `TVAL` and the next convoy in `TEPC`. R136: an instruction of virtual processors
alone is illegal in the control thread, and one of the control thread in an AIB. -/
def Obligations.InstructionTraps : Prop :=
  (∀ (s : State) (kind : TlbKind) (g : Bool) (d a b : XReg) (k : Slot) (ca : BitVec 12), s.Control →
     (s.core.pl = 0 → ∀ i ∈ [Instr.tret, .tlbinv kind g a b, .ctxsave d a b, .ctxload a, .dspill k a, .dfill k a, .wbtagSet d a, .idle,
       .qpost d a b, .errlog a b, .cpexport d a b], exec i s = .next (s.trap cIllegal s.ctx.word)) ∧
     (s.core.pl.toNat < 2 → ∀ i ∈ [Instr.pmode a, .dutyset d a], exec i s = .next (s.trap cIllegal s.ctx.word)) ∧
     (s.core.pl = 0 → 0x100 ≤ ca.toNat → exec (.csrr d ca) s = .next (s.trap cIllegal s.ctx.word) ∧
       exec (.csrw ca a) s = .next (s.trap cIllegal s.ctx.word))) ∧
  (∀ (s : State) (n : BitVec 11), s.Committing →
     let c : Core := { s.core with wait := none, thr := s.thr.replayed s.core.pc s.core.pl }
     exec (.svc n) s = .next (s.setCore (c.enterTrap 0x09 false false 0 (n.setWidth 64) s.ctx.next)).endConvoy ∧
     exec (.brk n) s = .next (s.setCore (c.enterTrap 0x0A false false 0 (n.setWidth 64) s.ctx.next)).endConvoy) ∧
  (∀ (s : State) (i : Instr), ((info i).place = .vp → s.ctx.vp = none → exec i s = .next (s.trap cIllegal s.ctx.word)) ∧
     (∀ r, (info i).place = .thread → s.ctx.vp = some r → exec i s = .next (s.trapVp r cIllegal s.ctx.word)))

/-- R69: `x0` reads as zero at every level, and a write to it is discarded. -/
def Obligations.X0ReadsZero : Prop :=
  ∀ (s : State) (c : Core) (v : Word), c.getX 0 = 0 ∧ c.setX 0 v = c ∧ s.rx 0 = 0 ∧
    ∀ r : XReg, r ≠ 0 → (c.setX r v).getX r = v ∧ ∀ k, k ≠ r → (c.setX r v).getX k = c.getX k

/-! ### Scalar instructions -/

/-- R138, R139: addition, subtraction, low product and shifted addition, at the width and sign of TY, and the high half of the exact
product, by the sign of TY. R93, R139: integer division and remainder, which never trap. -/
def Obligations.ScalarArithmetic : Prop :=
  ((∀ (s : State) (ty : Ty) (d a b : XReg) (n : BitVec 3), s.Control → ty.isXInt = true →
      exec (.add ty d a b) s = .next (s.wx d (narrow ty (s.rx a + s.rx b))) ∧
      exec (.sub ty d a b) s = .next (s.wx d (narrow ty (s.rx a - s.rx b))) ∧
      exec (.mul ty d a b) s = .next (s.wx d (narrow ty (s.rx a * s.rx b))) ∧
      exec (.addsl ty d a b n) s = .next (s.wx d (narrow ty (s.rx a + s.rx b <<< n.toNat)))) ∧
   (∀ (s : State) (d a b : XReg), s.Control →
      exec (.mulh .s64 d a b) s =
        .next (s.wx d (((s.rx a).signExtend 128 * (s.rx b).signExtend 128).extractLsb' 64 64)) ∧
      exec (.mulh .z64 d a b) s =
        .next (s.wx d (((s.rx a).setWidth 128 * (s.rx b).setWidth 128).extractLsb' 64 64)) ∧
      exec (.mulh .s32 d a b) s =
        .next (s.wx d ((narrow .s32 (s.rx a) * narrow .s32 (s.rx b)).sshiftRight 32)) ∧
      exec (.mulh .z32 d a b) s = .next (s.wx d ((narrow .z32 (s.rx a) * narrow .z32 (s.rx b)) >>> 32)))) ∧
  (∀ (s : State) (ty : Ty) (d a b : XReg), s.Control → ty.isXInt = true →
     ∃ q r : Int, exec (.div ty d a b) s = .next (s.wx d (narrow ty (BitVec.ofInt 64 q))) ∧
       exec (.rem ty d a b) s = .next (s.wx d (narrow ty (BitVec.ofInt 64 r))) ∧
       let x : Int := if ty.signed then (narrow ty (s.rx a)).toInt else (narrow ty (s.rx a)).toNat
       let y : Int := if ty.signed then (narrow ty (s.rx b)).toInt else (narrow ty (s.rx b)).toNat
       (y = 0 → narrow ty (BitVec.ofInt 64 q) = narrow ty (BitVec.allOnes 64) ∧ r = x) ∧
       (y ≠ 0 → x = q * y + r ∧ r.natAbs < y.natAbs ∧ (r ≠ 0 → (r < 0 ↔ x < 0))))

/-- R139, R140: logic of the unsigned types; shifts by a count taken modulo the width, where a right shift reads the operand at the
width, logical with zeros, arithmetic with bit N − 1 whatever the sign of TY; comparison, minimum, maximum by the sign of TY, and
selection, which tests the whole register; leading zeros, trailing zeros and one bits at the width of the type, and extension from
the width of a narrow type. -/
def Obligations.ScalarLogicAndCompares : Prop :=
  ((∀ (s : State) (ty : Ty) (d a b : XReg) (imm : BitVec 16), s.Control → ty.isXUns = true →
      exec (.and ty d a b) s = .next (s.wx d (narrow ty (s.rx a &&& s.rx b))) ∧
      exec (.or ty d a b) s = .next (s.wx d (narrow ty (s.rx a ||| s.rx b))) ∧
      exec (.xor ty d a b) s = .next (s.wx d (narrow ty (s.rx a ^^^ s.rx b))) ∧
      exec (.andi ty d a imm) s = .next (s.wx d (narrow ty (s.rx a &&& imm.setWidth 64))) ∧
      exec (.ori ty d a imm) s = .next (s.wx d (narrow ty (s.rx a ||| imm.setWidth 64))) ∧
      exec (.xori ty d a imm) s = .next (s.wx d (narrow ty (s.rx a ^^^ imm.setWidth 64)))) ∧
   (∀ (s : State) (ty : Ty) (d a b : XReg) (n : BitVec 6), s.Control → ty.isXInt = true →
      let z : Ty := if ty.bits = 32 then .z32 else .z64
      let g : Ty := if ty.bits = 32 then .s32 else .s64
      let k := (s.rx b).toNat % ty.bits
      exec (.sll ty d a b) s = .next (s.wx d (narrow ty (s.rx a <<< k))) ∧
      exec (.srl ty d a b) s = .next (s.wx d (narrow ty (narrow z (s.rx a) >>> k))) ∧
      exec (.sra ty d a b) s = .next (s.wx d (narrow ty ((narrow g (s.rx a)).sshiftRight k))) ∧
      (n.toNat < ty.bits →
        exec (.slli ty d a n) s = .next (s.wx d (narrow ty (s.rx a <<< n.toNat))) ∧
        exec (.srli ty d a n) s = .next (s.wx d (narrow ty (narrow z (s.rx a) >>> n.toNat))) ∧
        exec (.srai ty d a n) s = .next (s.wx d (narrow ty ((narrow g (s.rx a)).sshiftRight n.toNat)))))) ∧
  ((∀ (s : State) (ty : Ty) (d a b c : XReg) (imm : BitVec 16), s.Control → ty.isXInt = true →
      let x := narrow ty (s.rx a)
      let y := narrow ty (s.rx b)
      exec (.slt ty d a b) s = .next (s.wx d (if below ty x y then 1 else 0)) ∧
      exec (.slti ty d a imm) s = .next (s.wx d (if below ty x (narrow ty (imm.signExtend 64)) then 1 else 0)) ∧
      exec (.min ty d a b) s = .next (s.wx d (if below ty y x then y else x)) ∧
      exec (.max ty d a b) s = .next (s.wx d (if below ty y x then x else y)) ∧
      exec (.csel ty d a b c) s = .next (s.wx d (if s.rx c = 0 then s.rx b else s.rx a))) ∧
   (∀ (s : State) (ty : Ty) (d a : XReg), s.Control →
      (ty.isXUns = true →
        let x := s.rx a
        (∃ n, exec (.clz ty d a) s = .next (s.wx d (BitVec.ofNat 64 n)) ∧ n ≤ ty.bits ∧
          (∀ k, ty.bits - n ≤ k → k < ty.bits → x.getLsbD k = false) ∧ (n < ty.bits → x.getLsbD (ty.bits - 1 - n) = true)) ∧
        (∃ n, exec (.ctz ty d a) s = .next (s.wx d (BitVec.ofNat 64 n)) ∧ n ≤ ty.bits ∧
          (∀ k, k < n → x.getLsbD k = false) ∧ (n < ty.bits → x.getLsbD n = true)) ∧
        exec (.popc ty d a) s = .next (s.wx d (BitVec.ofNat 64 ((List.range ty.bits).filter x.getLsbD).length))) ∧
      (ty.isVInt = true → ∃ v, exec (.ext ty d a) s = .next (s.wx d v) ∧
        (∀ k, k < ty.bits → v.getLsbD k = (s.rx a).getLsbD k) ∧
        ∀ k, ty.bits ≤ k → k < 64 → v.getLsbD k = (ty.signed && (s.rx a).getLsbD (ty.bits - 1)))))

/-- R129, R140, R141: immediate arithmetic with the immediate sign-extended, long immediates, and the convoy's own address. R132, R142: the
scalar forms of the restricted slots. -/
def Obligations.ScalarImmediates : Prop :=
  (∀ (s : State) (ty : Ty) (d a : XReg) (imm : BitVec 16) (long : BitVec 32), s.Control →
     (ty.isXInt = true →
       exec (.addi ty d a imm) s = .next (s.wx d (narrow ty (s.rx a + imm.signExtend 64))) ∧
       exec (.muli ty d a imm) s = .next (s.wx d (narrow ty (s.rx a * imm.signExtend 64)))) ∧
     exec (.lim d long) s = .next (s.wx d (long.signExtend 64)) ∧
     (∃ v, exec (.lih d long) s = .next (s.wx d v) ∧ v.extractLsb' 32 32 = long ∧
       v.extractLsb' 0 32 = (s.rx d).extractLsb' 0 32) ∧
     exec (.addpc d long) s = .next (s.wx d (s.ctx.addr + long.signExtend 64))) ∧
  (∀ (s : State) (d a : XReg) (imm : BitVec 14) (n : BitVec 6), s.Control →
     exec .nop s = .next s ∧
     exec (.mov d a) s = .next (s.wx d (s.rx a)) ∧
     exec (.addiR d imm) s = .next (s.wx d (s.rx d + imm.signExtend 64)) ∧
     exec (.addR d a) s = .next (s.wx d (s.rx d + s.rx a)) ∧
     exec (.subR d a) s = .next (s.wx d (s.rx d - s.rx a)) ∧
     exec (.andR d a) s = .next (s.wx d (s.rx d &&& s.rx a)) ∧
     exec (.orR d a) s = .next (s.wx d (s.rx d ||| s.rx a)) ∧
     exec (.xorR d a) s = .next (s.wx d (s.rx d ^^^ s.rx a)) ∧
     exec (.shli d n) s = .next (s.wx d (s.rx d <<< n.toNat)) ∧
     exec (.shri d n) s = .next (s.wx d (s.rx d >>> n.toNat)) ∧
     exec (.sraiR d n) s = .next (s.wx d ((s.rx d).sshiftRight n.toNat)))

/-- R144 to R147: scalar floating instructions round once under their mode and the numeric state of the thread, with element counter 0;
a comparison gives 1 or 0, and a result of `f32` has its upper half zero. -/
def Obligations.ScalarFloating : Prop :=
  ∀ (s : State) (ty : Ty) (d a b c : XReg) (mode : Mode) (imm : BitVec 16), s.Control → ty.isXFloat = true →
    let q : NumCtx := ⟨s.thr.nctl, s.thr.srseed, BitVec.ofNat 32 (2 * (s.ctx.wordAddr.toNat / 8) + (if s.ctx.high then 1 else 0))⟩
    let x := fpIn q ty (xbits ty (s.rx a))
    let y := fpIn q ty (xbits ty (s.rx b))
    let rdn := rdnFor q mode ty
    let writes (i : Instr) (v : Fp) : Prop := exec i s = .next (s.wx d (BitVec.ofNat 64 (fpOut q mode 0 ty v)))
    let exact (i : Instr) (v : Fp) : Prop := exec i s = .next (s.wx d (BitVec.ofNat 64 (fpOut q .rne 0 ty v)))
    writes (.fadd ty d a b mode) (fpAdd rdn x y) ∧ writes (.fsub ty d a b mode) (fpSub rdn x y) ∧
    writes (.fmul ty d a b mode) (fpMul x y) ∧ writes (.fdiv ty d a b mode) (fpDiv x y) ∧ writes (.fsqrt ty d a mode) (fpSqrt x) ∧
    exact (.fmin ty d a b mode) (fpMin x y) ∧ exact (.fmax ty d a b mode) (fpMax x y) ∧ exact (.fneg ty d a mode) x.neg ∧
    exact (.fabs ty d a mode) x.abs ∧
    exec (.feq ty d a b mode) s = .next (s.wx d (if fpEq x y then 1 else 0)) ∧
    exec (.flt ty d a b mode) s = .next (s.wx d (if fpLt x y then 1 else 0)) ∧
    exec (.fle ty d a b mode) s = .next (s.wx d (if fpLe false x y then 1 else 0)) ∧
    writes (.fma ty d a b c mode) (fpAdd rdn
      (if nbvOf s.thr.nctl = 0 ∨ ty = .f64 then fpMul x y else fpOf ty (fpOut q mode 0 ty (fpMul x y))) (fpIn q ty (xbits ty (s.rx c)))) ∧
    exec (.fli ty d imm) s = .next (s.wx d (BitVec.ofNat 64 (immFloat ty imm))) ∧
    exec (.faddi ty d a imm) s =
      .next (s.wx d (BitVec.ofNat 64 (fpOut q .ctl 0 ty (fpAdd (rdnFor q .ctl ty) x (fpIn q ty (immFloat ty imm)))))) ∧
    exec (.fmuli ty d a imm) s = .next (s.wx d (BitVec.ofNat 64 (fpOut q .ctl 0 ty (fpMul x (fpIn q ty (immFloat ty imm))))))

/-- R104, R105, R146: a conversion between an integer and a floating type, or between the two floating types. An integer result is rounded
under the mode, saturated and extended by its sign; NaN gives 0. -/
def Obligations.ScalarConversion : Prop :=
  ∀ (s : State) (ty u : Ty) (d a : XReg) (mode : Mode), s.Control → fcvtTypes ty u = true →
    let q := s.num
    let v := xbits u (s.rx a)
    (u.isXInt = true → exec (.fcvt ty u d a mode) s =
      .next (s.wx d (BitVec.ofNat 64 (fpOut q mode 0 ty (fpOfInt (intOf u v)))))) ∧
    (u.isXFloat = true → ty.isXFloat = true → exec (.fcvt ty u d a mode) s =
      .next (s.wx d (BitVec.ofNat 64 (fpOut q mode 0 ty (fpIn q u v))))) ∧
    (u.isXFloat = true → ty.isXInt = true → ∃ n : Int, exec (.fcvt ty u d a mode) s = .next (s.wx d (BitVec.ofInt 64 n)) ∧
      match fpIn q u v with
      | .nan => n = 0
      | .inf neg => n = if neg then intMin ty else intMax ty
      | .fin neg man exp => n = max (intMin ty) (min (intMax ty) (roundToInt (modeFor q mode ty) (randWord q 0) neg man exp)))

/-- R102: `Round` leaves a value that the format holds alone, in every mode and with every random word: rounding the exact value of a pattern
that is not a NaN gives that pattern. -/
def Obligations.RoundIsExact : Prop :=
  ∀ (t : Ty) (mode : Mode) (rnd bits : Nat), t = .f16 ∨ t = .bf16 ∨ t = .f32 ∨ t = .f64 ∨ t = .e4m3 ∨ t = .e5m2 →
    bits < 2 ^ t.bits → fpOf t bits ≠ .nan → rnd < 65536 → roundFp t mode rnd (fpOf t bits) = bits

/-- What a scalar register instruction leaves unchanged: every register but its destination, every flag and special register, every
byte of memory, every other core. -/
def Obligations.ScalarFrame : Prop :=
  ∀ (s t : State) (i : Instr) (d : XReg), s.Control → scalarDest i = some d → exec i s = .next t → OnlyX d s t

/-! ### Control -/

/-- R123, R132, R148 to R150: branches, jumps and calls. A target counts 8-byte words from the first word of the convoy; a link is the
address of the word after its last. -/
def Obligations.ControlTransfers : Prop :=
  ∀ (s : State) (d a b : XReg) (off : BitVec 32) (near : BitVec 14), s.Control →
    let jump (s : State) (t : Word) : State := { s with ctx := { s.ctx with npc := t } }
    let away : Word := s.ctx.addr + 8 * off.signExtend 64
    let away14 : Word := s.ctx.addr + 8 * near.signExtend 64
    let x := s.rx a
    let y := s.rx b
    exec (.branch .eq a b off) s = .next (if x = y then jump s away else s) ∧
    exec (.branch .ne a b off) s = .next (if x = y then s else jump s away) ∧
    exec (.branch .lt a b off) s = .next (if x.slt y then jump s away else s) ∧
    exec (.branch .ge a b off) s = .next (if x.slt y then s else jump s away) ∧
    exec (.branch .ltu a b off) s = .next (if x.ult y then jump s away else s) ∧
    exec (.branch .geu a b off) s = .next (if x.ult y then s else jump s away) ∧
    exec (.branch .al a b off) s = .next (jump s away) ∧
    exec (.beqz a near) s = .next (if x = 0 then jump s away14 else s) ∧
    exec (.bnez a near) s = .next (if x = 0 then s else jump s away14) ∧
    exec (.jal d off) s = .next (jump (s.wx d s.ctx.next) away) ∧
    (x.toNat % 8 = 0 → exec (.jr d a) s = .next (jump (s.wx d s.ctx.next) x)) ∧
    (x.toNat % 8 ≠ 0 → exec (.jr d a) s = .next (s.trap cInstrAddr x))

/-- R143, R152, R81, R48: the setters of `VL`, `EW` and `SLIP`; and R81 by each of the two ways to write `EW`: `setew`, and `csrw` of
register 0x001. -/
def Obligations.LengthSetters : Prop :=
  (∀ (s : State) (d a : XReg) (n : BitVec 14) (ew : Ew) (k : BitVec 4), s.Control →
     (let v := min n.toNat (65536 / s.thr.ew.bits)
      exec (.setvli d n) s = .next ((s.setThr { s.thr with vl := v }).wx d (BitVec.ofNat 64 v))) ∧
     (let v := min (s.rx a).toNat (65536 / s.thr.ew.bits)
      exec (.setvl d a) s = .next ((s.setThr { s.thr with vl := v }).wx d (BitVec.ofNat 64 v))) ∧
     exec (.setew ew) s = .next (s.setThr { s.thr with ew := ew, vl := min s.thr.vl (65536 / ew.bits) }) ∧
     exec (.setslip k) s = .next (s.setThr { s.thr with slip := k })) ∧
  (∀ (s t : State) (ew : Ew) (a : XReg), s.Control → s.rx a = BitVec.ofNat 64 ew.bits →
     (exec (.setew ew) s = .next t ∨ exec (.csrw 0x001 a) s = .next t) →
     t.thr.ew = ew ∧ t.thr.vl = min s.thr.vl (65536 / ew.bits) ∧ t.thr.v = s.thr.v ∧ t.thr.m = s.thr.m ∧ t.thr.x = s.thr.x)

/-- R79, R80, R153, Tables 4.3, 19.1, 19.2: `csrr` of each control and status register gives it, zero-extended; a number the map does not
assign, and a privileged one below its level, is illegal. -/
def Obligations.CsrReads : Prop :=
  ∀ (s : State) (d : XReg), s.Control →
    let gives (n : BitVec 12) (v : Word) : Prop := exec (.csrr d n) s = .next (s.wx d v)
    let l := s.core.pl.toNat
    gives 0x000 (BitVec.ofNat 64 s.thr.vl) ∧ gives 0x001 (BitVec.ofNat 64 s.thr.ew.bits) ∧
    gives 0x002 (BitVec.ofNat 64 (65536 / s.thr.ew.bits)) ∧ gives 0x003 (s.thr.slip.setWidth 64) ∧
    gives 0x004 (BitVec.ofNat 64 s.thr.vps.length) ∧ gives 0x005 (BitVec.ofNat 64 s.thr.dl) ∧
    (s.thr.dmode = none → gives 0x006 0) ∧ (s.thr.dmode = some .elem → gives 0x006 1) ∧ (s.thr.dmode = some .pack → gives 0x006 2) ∧
    gives 0x007 (s.thr.mn.setWidth 64) ∧
    gives 0x008 ((s.thr.nctl &&& 0x37F).setWidth 64) ∧ gives 0x009 (s.thr.srseed.setWidth 64) ∧
    gives 0x00A (BitVec.ofNat 64 (s.thr.vstart.elem.toNat + 65536 * s.thr.vstart.word.toNat)) ∧
    gives 0x00B (s.thr.tid.setWidth 64) ∧ gives 0x00C (s.thr.lnch.setWidth 64) ∧ gives 0x00D (s.thr.gmem.setWidth 64) ∧
    (∀ k : Fin 16, gives (BitVec.ofNat 12 (0x40 + k.val)) (s.thr.wm.get k)) ∧
    (∀ k : Fin 8, gives (BitVec.ofNat 12 (0x50 + k.val)) (BitVec.ofBool (s.thr.lw.get k).en ++ (s.thr.lw.get k).mark)) ∧
    (1 ≤ l → l ≤ 2 →
      gives 0x100 (BitVec.ofNat 64 (l + 4 * s.core.ie.toNat + 256 * s.dev.dstate.toNat)) ∧
      gives 0x101 (s.core.trapRegs s.core.pl).tvec ∧ gives 0x102 (s.core.trapRegs s.core.pl).tcause ∧
      gives 0x103 (s.core.trapRegs s.core.pl).tval ∧ gives 0x104 (s.core.trapRegs s.core.pl).tepc ∧ gives 0x105 s.core.ptbr ∧
      gives 0x106 (s.core.asid.setWidth 64) ∧
      (∀ q : Fin 4, s.core.part.qmask.getLsbD q.val = true → (∀ p : Fin 4, p < q → s.core.part.qmask.getLsbD p.val = false) →
        gives 0x107 ((s.dev.pwin.get q).setWidth 64)) ∧
      gives 0x108 (BitVec.ofNat 64 (s.core.part.pid.toNat + 2 ^ 8 * s.core.part.qmask.toNat + 2 ^ 12 * s.core.part.ncore.toNat +
        2 ^ 20 * s.cur.val)) ∧
      (l = 2 → gives 0x180 (s.dev.duty.setWidth 64)) ∧ (l = 1 → exec (.csrr d 0x180) s = .next (s.trap cIllegal s.ctx.word))) ∧
    (l = 0 → ∀ n : BitVec 12, (0x100 ≤ n.toNat ∧ n.toNat ≤ 0x108 ∨ n.toNat = 0x180) → exec (.csrr d n) s = .next (s.trap cIllegal s.ctx.word)) ∧
    ∀ n : BitVec 12, (0x00E ≤ n.toNat ∧ n.toNat < 0x040 ∨ 0x058 ≤ n.toNat ∧ n.toNat < 0x100 ∨ 0x109 ≤ n.toNat ∧ n.toNat < 0x180 ∨
        0x181 ≤ n.toNat) → exec (.csrr d n) s = .next (s.trap cIllegal s.ctx.word)

/-- R83, R153, Tables 4.3, 19.2: `csrw` writes the register's own field and nothing else; a value it does not take is an operand trap; a
read-only register takes no write; and a number the map does not assign is illegal. -/
def Obligations.CsrWrites : Prop :=
  ∀ (s : State) (a : XReg), s.Control →
    let x := s.rx a
    let r := s.core.trapRegs s.core.pl
    let l := s.core.pl.toNat
    exec (.csrw 0x000 a) s = .next (s.setThr { s.thr with vl := min x.toNat (65536 / s.thr.ew.bits) }) ∧
    (∀ w : Ew, x.toNat % 64 = w.bits →
      exec (.csrw 0x001 a) s = .next (s.setThr { s.thr with ew := w, vl := min s.thr.vl (65536 / w.bits) })) ∧
    ((∀ w : Ew, x.toNat % 64 ≠ w.bits) → exec (.csrw 0x001 a) s = .next (s.trap cOperand s.ctx.word)) ∧
    exec (.csrw 0x003 a) s = .next (s.setThr { s.thr with slip := x.setWidth 4 }) ∧
    exec (.csrw 0x007 a) s = .next (s.setThr { s.thr with mn := x.setWidth 16 }) ∧
    (x.extractLsb' 8 2 ≠ 3 → (x.extractLsb' 0 3).toNat ≤ 5 →
      exec (.csrw 0x008 a) s = .next (s.setThr { s.thr with nctl := x.setWidth 10 &&& 0x37F })) ∧
    (x.extractLsb' 8 2 = 3 ∨ 6 ≤ (x.extractLsb' 0 3).toNat → exec (.csrw 0x008 a) s = .next (s.trap cOperand s.ctx.word)) ∧
    exec (.csrw 0x009 a) s = .next (s.setThr { s.thr with srseed := x.setWidth 32 }) ∧
    (∀ n : BitVec 12, n.toNat ∈ [0x002, 0x004, 0x005, 0x006, 0x00A, 0x00B, 0x00C, 0x00D] ∨ 0x040 ≤ n.toNat ∧ n.toNat < 0x058 →
      exec (.csrw n a) s = .next s) ∧
    (1 ≤ l → l ≤ 2 →
      exec (.csrw 0x100 a) s = .next (s.setCore { s.core with ie := x.getLsbD 2 }) ∧
      exec (.csrw 0x101 a) s = .next (s.setCore (s.core.setTrapRegs s.core.pl { r with tvec := x &&& ~~~ 7#64 })) ∧
      exec (.csrw 0x102 a) s = .next (s.setCore (s.core.setTrapRegs s.core.pl { r with tcause := x &&& 0x7FFFFF })) ∧
      exec (.csrw 0x103 a) s = .next (s.setCore (s.core.setTrapRegs s.core.pl { r with tval := x })) ∧
      exec (.csrw 0x104 a) s = .next (s.setCore (s.core.setTrapRegs s.core.pl { r with tepc := x &&& ~~~ 7#64 })) ∧
      exec (.csrw 0x105 a) s = .next (s.setCore { s.core with ptbr := x &&& 0x00FFFFFFFFFFF000 }) ∧
      exec (.csrw 0x106 a) s = .next (s.setCore { s.core with asid := x.setWidth 16 }) ∧
      (∃ p : Vector (BitVec 4) 4, exec (.csrw 0x107 a) s = .next { s with dev := { s.dev with pwin := p } } ∧ ∀ q : Fin 4,
        p.get q = if s.core.part.qmask.getLsbD q.val = true then x.setWidth 4 else s.dev.pwin.get q) ∧
      exec (.csrw 0x108 a) s = .next s ∧
      (l = 2 → exec (.csrw 0x180 a) s = .next s) ∧ (l = 1 → exec (.csrw 0x180 a) s = .next (s.trap cIllegal s.ctx.word))) ∧
    (l = 0 → ∀ n : BitVec 12, (0x100 ≤ n.toNat ∧ n.toNat ≤ 0x108 ∨ n.toNat = 0x180) → exec (.csrw n a) s = .next (s.trap cIllegal s.ctx.word)) ∧
    ∀ n : BitVec 12, (0x00E ≤ n.toNat ∧ n.toNat < 0x040 ∨ 0x058 ≤ n.toNat ∧ n.toNat < 0x100 ∨ 0x109 ≤ n.toNat ∧ n.toNat < 0x180 ∨
        0x181 ≤ n.toNat) → exec (.csrw n a) s = .next (s.trap cIllegal s.ctx.word)

/-- R65, R66, R437: `halt` of a user thread outside thread mode ends it with its convoy, and above level 0 it kills the user thread of its core,
which ends once its committed stores have been performed, or gives a core without one back.
R67, R399, R431, R436: `yield` at level 0 pre-empts its launch where the command processor grants it and has no effect elsewhere; above
level 0 it hands the core back, saved, or from a SPILL handler lets the thread on the core go on. R56, R80, R82, R154, R156, R158: `setvp`
makes the VPs, every register of theirs zero; `vfetch` makes each runnable with the target as its next AIB and the numeric state of the
thread; `vrejoin` outside thread mode only lets the lanes catch up. In thread mode each of them, and `halt`, waits: its convoy is tried
again, or, where its own convoy began thread mode, stands as far as it (the model's choice: log entry 62). A `halt` that commits while vector
loads and stores of its thread are not performed ends it once they are (R65). That level 0 and its interrupts stand on a core handed back is log
entry 26, and which launch a yield is granted for log entry 41, of the model. -/
def Obligations.ThreadControl : Prop :=
  (∀ (s : State) (l : Launch), s.Committing → s.Undisturbed → s.dev.launchOn s.cur = some l → s.dev.launchNo l.arrival = some l →
     s.core.ended = false →
     (s.core.pl = 0 → s.core.late = [] → s.thr.threadMode = false →
       ∃ t m, exec .halt s = .next t ∧ t.core.mode = .free ∧ t.core.ended = true ∧ t.ctx.active = false ∧ SameBytes s t ∧
         t.dev.launchNo l.arrival = some m ∧ s.thr.tid.toNat ∈ m.endedThreads ∧ m.killed = l.killed) ∧
     (s.core.pl = 0 → s.core.late ≠ [] → s.thr.threadMode = false →
       ∃ t, exec .halt s = .next t ∧ t.core.wait = some .ending ∧ t.core.late = s.core.late ∧ t.core.ended = false ∧
         t.core.mode = s.core.mode ∧ t.ctx.active = false ∧ SameBytes s t ∧ t.dev.launches = s.dev.launches) ∧
     (s.core.pl ≠ 0 → s.dev.duty.getLsbD 3 = false →
       ((∀ e ∈ s.core.late, ∀ u ∈ e.touches, u.write = false) →
         ∃ t m, exec .halt s = .next t ∧ t.core.mode = .free ∧ t.core.ended = true ∧ t.ctx.active = false ∧
           t.dev.launchNo l.arrival = some m ∧ s.thr.tid.toNat ∈ m.endedThreads ∧ m.killed = true) ∧
       ∀ e rest, s.core.late = rest ++ [e] → (∃ u ∈ e.touches, u.write = true) →
         ∃ t, exec .halt s = .next t ∧ t.core.wait = some (.dying 0x0030) ∧ t.core.late = s.core.late ∧ t.core.ended = false ∧
           t.ctx.active = false ∧ SameBytes s t ∧ ∀ k, t.thr.transfers.get k = none)) ∧
  (∀ (s : State) (l : Launch) (code : BitVec 16), s.core.wait = some (.dying code) → s.core.late = [] → s.dev.duty.getLsbD 3 = false →
     s.dev.launchOn s.cur = some l → s.dev.launchNo l.arrival = some l → s.core.ended = false →
     ∃ t m, s.runTurn = .next t ∧ t.core.mode = .free ∧ t.core.ended = true ∧ t.dev.launchNo l.arrival = some m ∧
       s.thr.tid.toNat ∈ m.endedThreads ∧ m.killed = true) ∧
  (∀ s : State, s.Committing → s.Undisturbed → 1 ≤ s.core.pl.toNat → s.dev.launchOn s.cur = none → s.thr.threadMode = false →
     s.core.late = [] → ∃ t, exec .halt s = .next t ∧ t.core.mode = .free ∧ t.core.pl = 0 ∧ t.core.ie = true ∧ t.ctx.active = false ∧
       SameBytes s t ∧ t.dev.launches = s.dev.launches) ∧
  (∀ (s : State) (l w : Launch), s.Committing → s.core.pl = 0 →
     (s.dev.launchOn s.cur = none → exec .yield s = .next s) ∧
     (s.dev.launchOn s.cur = some l →
       (s.dev.yieldGranted l = false → exec .yield s = .next s) ∧
       (s.dev.yieldGranted l = true → s.dev.launchNo l.arrival = some l → ∃ t, exec .yield s = .next t ∧ t.ctx = s.ctx ∧ SameBytes s t ∧
         t.dev.launchNo l.arrival = some { l with st := .preempting } ∧
         ∀ c ∈ l.cores, (s.dev.cores.get c).launch = some l.id →
           (t.dev.cores.get c).irq.preempt.isSome = true ∧ (t.dev.cores.get c).thr = (s.dev.cores.get c).thr) ∧
       (s.dev.readyList l.pid = [] → s.dev.yieldGranted l = false) ∧
       (s.dev.readyList l.pid = [w] → (w.dropLate = false ∨ w.st = .preempted) →
         (s.dev.yieldGranted l = true ↔ s.dev.duty.getLsbD 0 = false ∧ s.dev.dstate = 0 ∧ l.st = .resident ∧
           (s.dev.freeCores l.pid).length < w.nthr ∧ w.nthr ≤ (s.dev.freeCores l.pid).length + l.nthr)))) ∧
  (∀ s : State, s.Committing → s.Undisturbed → s.core.pl ≠ 0 →
     let r := s.core.trapRegs s.core.pl
     let ppl := r.tcause.extractLsb' 20 2
     let spill := r.tcause.getLsbD 8 = true ∧ r.tcause.extractLsb' 0 8 = 3
     (¬ spill → s.core.irq.kill = false →
       ∃ t, exec .yield s = .next t ∧ t.core.mode = .free ∧ t.core.pl = 0 ∧ t.core.launch = none ∧ t.ctx.active = false ∧ SameBytes s t ∧
         ∀ l a, s.dev.launchOn s.cur = some l → s.dev.launchNo l.arrival = some l → s.core.saved = some a →
           ∃ m, t.dev.launchNo l.arrival = some m ∧ (s.thr.tid.toNat, a) ∈ m.images) ∧
     (spill → s.core.launch.isSome = true → ppl.toNat ≤ s.core.pl.toNat → r.tepc.toNat % 8 = 0 →
       (ppl = 0 → s.core.ended = false ∧ s.core.idleBelow = false ∧ ∀ l ∈ s.dev.launches, l.resuming = []) →
       ∃ t, exec .yield s = .next t ∧ t.core.mode = s.core.mode ∧ t.core.pl = ppl ∧ t.core.pc = r.tepc ∧
         t.core.ie = r.tcause.getLsbD 22 ∧ t.core.launch = s.core.launch ∧ t.ctx.active = false ∧ SameBytes s t ∧
         ∀ (l : Launch) (k : Nat) (c : CoreNo), s.dev.launches = [l] → l.moving = [(k, s.cur)] → l.images = [(k, r.tval)] →
           l.cores[k]? = some c → (t.dev.cores.get c).irq.resume = some r.tval)) ∧
  (∀ (s : State) (a : XReg) (off : BitVec 32), s.VectorReady →
     ((s.rx a).toNat ≤ 1024 → exec (.setvp a) s = .next (s.setThr { s.thr with vps := List.replicate (s.rx a).toNat {} })) ∧
     (1024 < (s.rx a).toNat → exec (.setvp a) s = .next (s.trap cOperand s.ctx.word)) ∧
     (s.core.late ≠ [] → exec (.vfetch off) s = stall s) ∧ (s.core.late.any Late.vec = true → exec .vrejoin s = stall s) ∧
     (s.core.late = [] → ∃ t, exec (.vfetch off) s = .next t ∧ t.thr.vps.length = s.thr.vps.length ∧
       t.thr.threadMode = !s.thr.vps.isEmpty ∧
       t.thr.x = s.thr.x ∧ t.thr.v = s.thr.v ∧ t.thr.m = s.thr.m ∧ SameBytes s t ∧
       ∀ n, n < s.thr.vps.length → (t.thr.vps.getD n {}).runnable = true ∧
         (t.thr.vps.getD n {}).next = s.ctx.addr + 8 * off.signExtend 64 ∧ (t.thr.vps.getD n {}).w = (s.thr.vps.getD n {}).w ∧
         (t.thr.vps.getD n {}).nctl = s.thr.nctl ∧ (t.thr.vps.getD n {}).seed = s.thr.srseed) ∧
     (s.core.late.any Late.vec = false →
       ∃ t, exec .vrejoin s = .next t ∧ t.thr = s.thr ∧ SameBytes s t ∧ ∀ l, t.core.laneDone.get l = s.core.opBase + s.core.opSlips.length)) ∧
  (∀ (s : State) (a : XReg) (off : BitVec 32), s.Committing → s.thr.threadMode = true →
     let waits (i : Instr) : Prop := exec i s = .next (if (s.base.cores.get s.cur).thr.threadMode = true then s.stallFor .retry
       else s.stopAt .mode s.restHere)
     waits (.vfetch off) ∧ waits .vrejoin ∧ ((s.rx a).toNat ≤ 1024 → waits (.setvp a)) ∧
     (s.core.pl = 0 → waits .halt)) ∧
  (∀ (s : State) (x : Stop), s.Control → s.thr.threadMode = true → (s.base.cores.get s.cur).thr.threadMode = true → s.ctx.stop = some x →
     let again : State := { s with ctx := { s.ctx with stop := some { x with why := .again } } }
     exec .vrejoin s = .next again ∧ (s.core.pl = 0 → exec .halt s = .next again) ∧
     (s.ctx.words = [] → s.ctx.active = true → s.Undisturbed → exec .convoyCommit again = .next (again.stallFor .retry)))


/-! ### Virtual processors -/

/-- R160: integer arithmetic of a VP is exact, then saturated or wrapped by the `NCTL` the VP took; the restricted forms read `s32`.
R159, R161, R164: logic, shifts by a count modulo 32, order, equality, selection, moves and immediates of a VP. -/
def Obligations.VpInteger : Prop :=
  (∀ (s : State) (r : VpRun) (ty : Ty) (d a b : WReg) (imm : BitVec 16) (near : BitVec 14), s.ctx.vp = some r → ty.isWInt = true →
     let num (t : Ty) (h : Half) : Int := if t.signed then h.toInt else h.toNat
     let fit (t : Ty) (v : Int) : Half := BitVec.ofInt 32 (if r.st.nctl.getLsbD 5 then max (intMin t) (min (intMax t) v) else v)
     let x := num ty (s.rw r a)
     let y := num ty (s.rw r b)
     let w (i : Instr) (v : Half) : Prop := exec i s = .next (s.ww r d v)
     w (.wadd ty d a b) (fit ty (x + y)) ∧ w (.wsub ty d a b) (fit ty (x - y)) ∧ w (.wmul ty d a b) (fit ty (x * y)) ∧
     w (.waddi ty d a imm) (fit ty (x + num ty (imm.signExtend 32))) ∧
     w (.waddR d a) (fit .s32 ((s.rw r d).toInt + (s.rw r a).toInt)) ∧
     w (.waddiR d near) (fit .s32 ((s.rw r d).toInt + near.toInt))) ∧
  (∀ (s : State) (r : VpRun) (ty : Ty) (d a b c : WReg) (imm : BitVec 16) (n : BitVec 5), s.ctx.vp = some r → ty.isWInt = true →
     let x := s.rw r a
     let y := s.rw r b
     let z := imm.signExtend 32
     let less (u v : Half) : Bool := if ty.signed then u.slt v else u.ult v
     let w (i : Instr) (v : Half) : Prop := exec i s = .next (s.ww r d v)
     w (.wand d a b) (x &&& y) ∧ w (.wor d a b) (x ||| y) ∧ w (.wxor d a b) (x ^^^ y) ∧
     w (.wandi d a imm) (x &&& imm.setWidth 32) ∧ w (.wori d a imm) (x ||| imm.setWidth 32) ∧
     w (.wxori d a imm) (x ^^^ imm.setWidth 32) ∧
     w (.wshl d a b) (x <<< (y.toNat % 32)) ∧ w (.wshr d a b) (x >>> (y.toNat % 32)) ∧
     w (.wsra d a b) (x.sshiftRight (y.toNat % 32)) ∧
     w (.wshli d a n) (x <<< n.toNat) ∧ w (.wshri d a n) (x >>> n.toNat) ∧ w (.wsrai d a n) (x.sshiftRight n.toNat) ∧
     w (.wmin ty d a b) (if less y x then y else x) ∧ w (.wmax ty d a b) (if less y x then x else y) ∧
     w (.wseq ty d a b) (if x = y then 1 else 0) ∧ w (.wslt ty d a b) (if less x y then 1 else 0) ∧
     w (.wseqi ty d a imm) (if x = z then 1 else 0) ∧ w (.wslti ty d a imm) (if less x z then 1 else 0) ∧
     w (.wsel d a b c) (if s.rw r c = 0 then y else x) ∧ w (.wmov d a) x ∧ w (.wmovR d a) x ∧ w (.wli ty d imm) z ∧
     w (.wli .f32 d imm) (BitVec.ofNat 32 (immFloat .f32 imm)))

/-- R160 to R162: `f32` instructions of a VP round once under their mode and the numeric state the VP took, with the VP's number as
element counter; comparisons give 1 or 0. -/
def Obligations.VpFloating : Prop :=
  ∀ (s : State) (r : VpRun) (d a b c : WReg) (mode : Mode), s.ctx.vp = some r →
    let q : NumCtx := ⟨r.st.nctl, r.st.seed, BitVec.ofNat 32 (2 * (s.ctx.wordAddr.toNat / 8) + (if s.ctx.high then 1 else 0))⟩
    let x := fpIn q .f32 (s.rw r a).toNat
    let y := fpIn q .f32 (s.rw r b).toNat
    let v := fpIn q .f32 (s.rw r d).toNat
    let w (i : Instr) (m : Mode) (e : Nat) (f : Fp) : Prop := exec i s = .next (s.ww r d (BitVec.ofNat 32 (fpOut q m e .f32 f)))
    let flag (i : Instr) (p : Bool) : Prop := exec i s = .next (s.ww r d (if p then 1 else 0))
    w (.wfadd d a b mode) mode r.vp (fpAdd (rdnFor q mode .f32) x y) ∧ w (.wfsub d a b mode) mode r.vp (fpSub (rdnFor q mode .f32) x y) ∧
    w (.wfmul d a b mode) mode r.vp (fpMul x y) ∧ w (.wfaddR d a) .ctl r.vp (fpAdd (rdnFor q .ctl .f32) v x) ∧
    w (.wfmulR d a) .ctl r.vp (fpMul v x) ∧ w (.wfmin d a b mode) .rne 0 (fpMin x y) ∧ w (.wfmax d a b mode) .rne 0 (fpMax x y) ∧
    w (.wfma d a b c mode) mode r.vp (fpAdd (rdnFor q mode .f32)
      (if nbvOf r.st.nctl = 0 then fpMul x y else fpOf .f32 (fpOut q mode r.vp .f32 (fpMul x y))) (fpIn q .f32 (s.rw r c).toNat)) ∧
    flag (.wfeq d a b mode) (fpEq x y) ∧ flag (.wflt d a b mode) (fpLt x y) ∧ flag (.wfle d a b mode) (fpLe false x y) ∧
    (∀ u, u.isWInt = true → w (.wcvt .f32 u d a mode) mode r.vp (fpOfInt (intOf u (s.rw r a).toNat)) ∧
      exec (.wcvt u .f32 d a mode) s =
        .next (s.ww r d (BitVec.ofNat 32 (wrapInt u (fpToInt u (modeFor q mode u) (randWord q r.vp) x)))))

/-- R162: `wlat` fills an operand latch and sets its hold bit; `wfmal` multiplies by a held latch and adds into its destination, and traps
where the latch is not held. R159, R163, R165, R166: what a VP reads and writes outside its w registers. `wget` reads its element, or what
the latest earlier `wput` of its AIB wrote there; `wput` and `wst` are held with the AIB; `wld` reads a buffer of its core, each byte of the
AB as the latest store that its AIB holds over it left it. -/
def Obligations.VpLatchesAndMemory : Prop :=
  (∀ (s : State) (r : VpRun) (d a : WReg) (l : LatchNo) (mode : Mode), s.ctx.vp = some r →
     let src := s.ctx.vpSrc.getD r.st
     let filled := s.setRun { r with st := { r.st with
       latch := r.st.latch.set l.val (s.rw r a) l.isLt, hold := r.st.hold.set l.val true l.isLt } }
     exec (.wlat a l mode) s = .next filled ∧ exec (.wlatR a l) s = .next filled ∧
     (src.hold.get l = true →
       exec (.wfmal d a l mode) s = .next (s.ww r d (BitVec.ofNat 32
         (fmaBits s.num mode r.vp .f32 .f32 (src.w.get a).toNat (src.latch.get l).toNat (src.w.get d).toNat))) ∧
       exec (.wfmalR d a l) s = .next (s.ww r d (BitVec.ofNat 32
         (fmaBits s.num .ctl r.vp .f32 .f32 (src.w.get a).toNat (src.latch.get l).toNat (src.w.get d).toNat)))) ∧
     (src.hold.get l = false → exec (.wfmal d a l mode) s = .next (s.trap cOperand s.ctx.word) ∧
       exec (.wfmalR d a l) s = .next (s.trap cOperand s.ctx.word))) ∧
  (∀ (s s1 : State) (r : VpRun) (ty : Ty) (d a : WReg) (v : VSrc) (k : VReg) (off : BitVec 16) (sp : Space) (l : Local),
     s.ctx.vp = some r →
     (vpTagOk (s.rv v.reg).ty = true → ∃ x, exec (.wget d v) s = .next (s.ww r d x) ∧
       ((∀ p ∈ r.puts, p.1 ≠ v.reg) → x = BitVec.ofNat 32 (elemGet (s.rv v.reg).data 32 r.vp)) ∧
       ∀ p, r.puts.find? (fun q => q.1 == v.reg) = some p → x = p.2) ∧
     (vpTagOk (s.rv k).ty = true → exec (.wput k a) s = .next (s.setRun { r with puts := (k, s.rw r a) :: r.puts })) ∧
     (vpPlace s sp (vpAddr s r a off) ty.size = some l → s.settle false ⟨l.bufNo, l.off, l.off + ty.size⟩ = .ok () s1 →
       s1.dev.localPoisoned l ty.size = false →
       ∃ bs : List Byte, exec (.wld ty d a off sp) s = .next (s1.ww r d (BitVec.ofInt 32 (intOf ty (bytesVal bs)))) ∧ bs.length = ty.size ∧
         ∀ i, i < ty.size → bs.getD i 0 =
           let o := l.off + i
           match (if l.wb then [] else r.stores.filter fun h => decide (h.addr ≤ o) && decide (o < h.addr + h.n)).getLast? with
           | some h => BitVec.ofNat 8 (h.v.toNat / 256 ^ (o - h.addr))
           | none => memRead ((s1.dev.cores.get l.core).buf l.wb) o) ∧
     (vpPlace s .ab (vpAddr s r a off) ty.size = some l → s.settle true ⟨l.bufNo, l.off, l.off + ty.size⟩ = .ok () s1 →
       exec (.wst ty d a off) s = .next (s1.setRun { r with stores := r.stores ++ [{ addr := l.off, n := ty.size, v := s.rw r d }] })))

/-- R157: what each terminator leaves to be done when its AIB completes. R61: when the AIB of a lane completes, its VP is the one its
instructions left: at its next AIB, or stopped with its latches released. -/
def Obligations.VpTerminators : Prop :=
  (∀ (s : State) (r : VpRun) (a : WReg) (off : BitVec 32) (near : BitVec 14) (l1 l2 : BitVec 16), s.ctx.vp = some r →
     let ends (i : Instr) (t : VpTerm) : Prop := exec i s = .next (s.setRun { r with term := some t })
     ends (.tfetch off) (.goto (s.ctx.addr + 8 * off.signExtend 64)) ∧ ends (.tfetchR near) (.goto (s.ctx.addr + 8 * near.signExtend 64)) ∧
     (s.rw r a ≠ 0 → ends (.tfsel a l1 l2) (.goto (s.ctx.addr + 8 * l1.signExtend 64))) ∧
     (s.rw r a = 0 → ends (.tfsel a l1 l2) (.goto (s.ctx.addr + 8 * l2.signExtend 64))) ∧ ends .tstop .stop ∧ ends .tstopR .stop) ∧
  (∀ (s : State) (lane : LaneNo) (r : VpRun), s.thr.aib.get lane = some r → r.hop = none → r.vp < s.thr.vps.length →
     (∀ k, s.thr.transfers.get k = none) → ∃ t, exec (.aibComplete lane) s = .next t ∧ t.thr.aib.get lane = none ∧
       (t.thr.vps.getD r.vp {}).w = r.st.w ∧
       (∀ a, r.term = some (.goto a) → (t.thr.vps.getD r.vp {}).next = a ∧ (t.thr.vps.getD r.vp {}).runnable = true) ∧
       (r.term = some .stop → (t.thr.vps.getD r.vp {}).runnable = false ∧
         ∀ l, (t.thr.vps.getD r.vp {}).hold.get l = false))

/-- What an instruction on w registers leaves unchanged: every other w register of its VP, and the whole device. -/
def Obligations.VpFrame : Prop :=
  ∀ (s t : State) (r : VpRun) (i : Instr) (d : WReg), s.ctx.vp = some r → vpDest i = some d → exec i s = .next t →
    OnlyW d r s t ∧ t.dev = s.dev

/-! ### Vector instructions -/

/-- R173 to R175, R178, R180: element-wise integer instructions, under R92 where R173 says so; the checks of R168 are met. Elements at or
above `VL`, and those a mask leaves out, keep their bits (R70, R169). -/
def Obligations.VectorInteger : Prop :=
  ∀ (s : State) (ty : Ty) (m k : MReg) (d : VReg) (a b c : VSrc) (r : XReg) (imm step : BitVec 16) (n : BitVec 5), s.VectorReady →
    ty.isVInt = true → s.srcCore.thr.ew.bits = ty.bits →
    let x (v : VSrc) (e : Nat) : Int := intOf ty ((s.rv v.reg).elem ty e)
    let p (v : VSrc) (e : Nat) : BitVec ty.bits := BitVec.ofNat ty.bits ((s.rv v.reg).elem ty e)
    let fit (v : Int) : Nat :=
      (BitVec.ofInt ty.bits (if s.thr.nctl.getLsbD 5 then max (intMin ty) (min (intMax ty) v) else v)).toNat
    let i : Int := if ty.signed then (imm.signExtend ty.bits).toInt else (imm.signExtend ty.bits).toNat
    let st : Int := if ty.signed then (step.signExtend ty.bits).toInt else (step.signExtend ty.bits).toNat
    let is (j : Instr) (f : Nat → Int) : Prop := Computes s j ty.bits ty m d fun e => fit (f e)
    let bits (j : Instr) (f : Nat → BitVec ty.bits) : Prop := Computes s j ty.bits ty m d fun e => (f e).toNat
    bits (.vbcast ty m d r) (fun _ => (s.rx r).setWidth ty.bits) ∧ is (.vidx ty m d imm step) (fun e => i + e * st) ∧
    ((s.rv a.reg).ty = ty →
      is (.vabs ty m d a) (fun e => (x a e).natAbs) ∧ is (.vneg ty m d a) (fun e => -(x a e)) ∧
      bits (.vnot ty m d a) (fun e => ~~~(p a e)) ∧
      is (.vaddi ty m d a imm) (fun e => x a e + i) ∧ is (.vmuli ty m d a imm) (fun e => x a e * i) ∧
      is (.vmini ty m d a imm) (fun e => min (x a e) i) ∧ is (.vmaxi ty m d a imm) (fun e => max (x a e) i) ∧
      bits (.vandi ty m d a imm) (fun e => p a e &&& imm.setWidth ty.bits) ∧
      bits (.vori ty m d a imm) (fun e => p a e ||| imm.setWidth ty.bits) ∧
      bits (.vxori ty m d a imm) (fun e => p a e ^^^ imm.setWidth ty.bits) ∧
      bits (.vslli ty m d a n) (fun e => p a e <<< (n.toNat % ty.bits)) ∧
      bits (.vsrli ty m d a n) (fun e => p a e >>> (n.toNat % ty.bits)) ∧
      bits (.vsrai ty m d a n) (fun e => (p a e).sshiftRight (n.toNat % ty.bits))) ∧
    ((s.rv a.reg).ty = ty → (s.rv b.reg).ty = ty →
      is (.vadd ty m d a b) (fun e => x a e + x b e) ∧ is (.vsub ty m d a b) (fun e => x a e - x b e) ∧
      is (.vmul ty m d a b) (fun e => x a e * x b e) ∧
      Computes s (.vmulh ty m d a b) ty.bits ty m d (fun e => (BitVec.ofInt ty.bits ((x a e * x b e) >>> ty.bits)).toNat) ∧
      is (.vmin ty m d a b) (fun e => min (x a e) (x b e)) ∧ is (.vmax ty m d a b) (fun e => max (x a e) (x b e)) ∧
      bits (.vsll ty m d a b) (fun e => p a e <<< ((p b e).toNat % ty.bits)) ∧
      bits (.vsrl ty m d a b) (fun e => p a e >>> ((p b e).toNat % ty.bits)) ∧
      bits (.vsra ty m d a b) (fun e => (p a e).sshiftRight ((p b e).toNat % ty.bits)) ∧
      bits (.vand ty m d a b) (fun e => p a e &&& p b e) ∧ bits (.vor ty m d a b) (fun e => p a e ||| p b e) ∧
      bits (.vxor ty m d a b) (fun e => p a e ^^^ p b e) ∧ bits (.vandn ty m d a b) (fun e => p a e &&& ~~~(p b e)) ∧
      Computes s (.vsel ty d a b k) ty.bits ty 0 d
        (fun e => if s.thr.maskBit k e = true then (s.rv a.reg).elem ty e else (s.rv b.reg).elem ty e) ∧
      ((s.rv c.reg).ty = ty → is (.vmadd ty m d a b c) (fun e => x a e * x b e + x c e)) ∧
      ∃ q t : Nat → Int, is (.vdiv ty m d a b) q ∧ is (.vrem ty m d a b) t ∧ ∀ e,
        (x b e = 0 → fit (q e) = 2 ^ ty.bits - 1 ∧ t e = x a e) ∧
        (x b e ≠ 0 → x a e = q e * x b e + t e ∧ (t e).natAbs < (x b e).natAbs ∧ (t e ≠ 0 → (t e < 0 ↔ x a e < 0))))

/-- R178, R180 to R182, R184, R186, R189, R107: floating vector instructions round each element once, under their mode and the numeric state of
the thread, with the element's number as counter; the exact ones only flush. A fused product is rounded by itself first under a
non-zero `NCTL`.NBV (R113). Conversions go through the same rounding; between integers they saturate or wrap, also where the target is no
narrower (the model's choice there: log entry 74). -/
def Obligations.VectorFloating : Prop :=
  ∀ (s : State) (ty u : Ty) (m k : MReg) (d : VReg) (a b c : VSrc) (r1 r2 : XReg) (mode : Mode) (imm step : BitVec 16),
    s.VectorReady →
    let q := s.num
    let x (t : Ty) (v : VSrc) (e : Nat) : Fp := fpIn q t ((s.rv v.reg).elem t e)
    let fi := fpIn q ty (immFloat ty imm)
    let rounds (i : Instr) (z : Mode) (f : Nat → Fp) : Prop := Computes s i ty.bits ty m d fun e => fpOut q z e ty (f e)
    let exact (i : Instr) (f : Nat → Fp) : Prop := Computes s i ty.bits ty m d fun e => fpOut q .rne 0 ty (f e)
    let ra := rdnFor q mode ty
    let rc := rdnFor q .ctl ty
    let product (t : Ty) (z : Mode) (e : Nat) (p r : Fp) : Fp :=
      if nbvOf s.thr.nctl = 0 then fpMul p r else fpOf t (fpOut q z e t (fpMul p r))
    (s.srcCore.thr.ew.bits = ty.bits → ty.isInt = false →
      rounds (.vidx ty m d imm step) .ctl (fun e => fpAdd rc fi (fpMul (fpOfInt e) (fpIn q ty (immFloat ty step)))) ∧
      Computes s (.vbcast ty m d r1) ty.bits ty m d (fun _ => (s.rx r1).toNat) ∧
      ((s.rv a.reg).ty = ty →
        rounds (.vsqrt ty m d a mode) mode (fun e => fpSqrt (x ty a e)) ∧ exact (.vnegF ty m d a mode) (fun e => (x ty a e).neg) ∧
        exact (.vabsF ty m d a mode) (fun e => (x ty a e).abs) ∧
        rounds (.vaddiF ty m d a imm) .ctl (fun e => fpAdd rc (x ty a e) fi) ∧
        rounds (.vmuliF ty m d a imm) .ctl (fun e => fpMul (x ty a e) fi) ∧
        exact (.vminiF ty m d a imm) (fun e => fpMin (x ty a e) fi) ∧ exact (.vmaxiF ty m d a imm) (fun e => fpMax (x ty a e) fi) ∧
        ((s.rv b.reg).ty = ty →
          rounds (.vaddF ty m d a b mode) mode (fun e => fpAdd ra (x ty a e) (x ty b e)) ∧
          rounds (.vsubF ty m d a b mode) mode (fun e => fpSub ra (x ty a e) (x ty b e)) ∧
          rounds (.vmulF ty m d a b mode) mode (fun e => fpMul (x ty a e) (x ty b e)) ∧
          rounds (.vdivF ty m d a b mode) mode (fun e => fpDiv (x ty a e) (x ty b e)) ∧
          exact (.vminF ty m d a b mode) (fun e => fpMin (x ty a e) (x ty b e)) ∧
          exact (.vmaxF ty m d a b mode) (fun e => fpMax (x ty a e) (x ty b e)) ∧
          Computes s (.vsel ty d a b k) ty.bits ty 0 d
            (fun e => if s.thr.maskBit k e = true then (s.rv a.reg).elem ty e else (s.rv b.reg).elem ty e) ∧
          ((s.rv c.reg).ty = ty → ty ≠ .f64 →
            rounds (.vfma ty m d a b c mode) mode (fun e => fpAdd ra (product ty mode e (x ty a e) (x ty b e)) (x ty c e)))))) ∧
    (s.srcCore.thr.ew.bits = 32 → (s.rv a.reg).ty = u → (s.rv b.reg).ty = u → (s.rv d).ty = .f32 →
      Computes s (.vfmaw u m d a b mode) 32 .f32 m d fun e => fpOut q mode e .f32
        (fpAdd (rdnFor q mode .f32) (product .f32 mode e (x u a e) (x u b e)) (fpIn q .f32 ((s.rv d).elem .f32 e)))) ∧
    (s.srcCore.thr.ew.bits = max ty.bits u.bits → (s.rv a.reg).ty = u → ty ≠ u →
      let is (f : Nat → Nat) : Prop := Computes s (.vcvt ty u m d a mode) (max ty.bits u.bits) ty m d f
      let v (e : Nat) : Nat := (s.rv a.reg).elem u e
      (u.isInt = true → ty.isInt = true → is fun e => fitInt (s.thr.nctl.getLsbD 5) ty (intOf u (v e))) ∧
      (u.isInt = true → ty.isInt = false → is fun e => fpOut q mode e ty (fpOfInt (intOf u (v e)))) ∧
      (u.isInt = false → ty.isInt = false → is fun e => fpOut q mode e ty (x u a e)) ∧
      (u.isInt = false → ty.isInt = true → ∃ n : Nat → Int, is (fun e => (BitVec.ofInt ty.bits (n e)).toNat) ∧
        ∀ e, match x u a e with
          | .nan => n e = 0
          | .inf neg => n e = if neg then intMin ty else intMax ty
          | .fin neg man exp =>
            n e = max (intMin ty) (min (intMax ty) (roundToInt (modeFor q mode ty) (randWord q e) neg man exp)))) ∧
    (s.srcCore.thr.ew.bits = ty.bits → (s.rv a.reg).ty = .q4 →
      rounds (.vdqnt ty m d a mode) mode fun e => q4Value (elemGet (s.rv a.reg).side 8 (e / 32)) ((s.rv a.reg).elem .q4 e)) ∧
    (s.srcCore.thr.ew.bits = 32 →
      Computes s (.vrnd m d r1 r2) 32 .z32 m d fun e => (hash ((s.rx r2).setWidth 32 + BitVec.ofNat 32 e) ((s.rx r1).setWidth 32)).toNat)

/-- R176, R179, R185, R187, R188, R90: moves of whole registers, blocks of `q4`, and a stage of a Hadamard transform, whose result with NW = 1
is the register it would have written, which the `vqnt` that follows takes in place of its source, whatever the tag of that. -/
def Obligations.VectorMovesAndBlocks : Prop :=
  ∀ (s : State) (ty u : Ty) (d a : VReg) (v : VSrc) (imm : BitVec 14) (kind : QKind) (span : BitVec 3) (j : BitVec 4) (mode : Mode),
    s.VectorReady →
    (let t := (s.rv d).ty
     t.isVInt = true → s.srcCore.thr.ew.bits = t.bits → Computes s (.vaddiR d imm) t.bits t 0 d fun e =>
       fitInt (s.thr.nctl.getLsbD 5) t (intOf t ((s.rv d).elem t e) + imm.toInt)) ∧
    (let t := (s.rv a).ty
     t ≠ .q4 → s.srcCore.thr.ew.bits = t.bits → Computes s (.vmov d a) t.bits t 0 d fun e => (s.rv a).elem t e) ∧
    ((s.rv a).ty = .q4 → ∃ w, exec (.vmov d a) s = .next (s.finish (groupsOf s.vl 4) (s.thr.setV d w)) ∧ w.ty = .q4 ∧ w.span = 0 ∧
      (∀ e, e < 16384 → w.elem .q4 e = if e < s.vl then (s.rv a).elem .q4 e else (s.thr.v.get d).elem .q4 e) ∧
      ∀ b, b < 256 → elemGet w.side 8 b = if 32 * b < s.vl then elemGet (s.rv a).side 8 b else elemGet (s.thr.v.get d).side 8 b) ∧
    exec (.vtag d v u span) s =
      .next (s.finish (groupsOf s.vl s.ew) (s.thr.setV d { s.rv v.reg with ty := u, span := span })) ∧
    ((s.ctx.stage = none → (s.rv v.reg).ty = u) → s.srcCore.thr.ew.bits = u.bits → s.vl % 32 = 0 →
      ∃ w, exec (.vqnt u kind d v) s =
          .next { s.finish (groupsOf s.vl u.bits) (s.thr.setV d w) with ctx := { s.ctx with stage := none } } ∧ w.ty = .q4 ∧ w.span = 0 ∧
        ∀ b, 32 * b < s.vl → b < 256 →
          let xs := (List.range 32).map fun i => fpOf u (match s.ctx.stage with
            | some x => elemGet x u.bits (32 * b + i)
            | none => (s.rv v.reg).elem u (32 * b + i))
          let r := match kind with
            | .auto => autoChoice xs
            | .t0 => quantise 0 xs
            | .t1 => quantise 1 xs
            | .t2 => quantise 2 xs
            | .t3 => quantise 3 xs
          elemGet w.side 8 b = r.1 % 256 ∧ ∀ i, i < 32 → w.elem .q4 (32 * b + i) = r.2.getD i 0 % 16) ∧
    ((s.rv v.reg).ty = ty → s.srcCore.thr.ew.bits = ty.bits → s.vl % (2 * 2 ^ j.toNat) = 0 →
      let q := s.num
      let x (e : Nat) : Fp := fpIn q ty ((s.rv v.reg).elem ty e)
      let g := 2 ^ j.toNat
      let y (e : Nat) : Nat := fpOut q mode e ty (if e / g % 2 = 0 then fpAdd (rdnFor q mode ty) (x e) (x (e + g))
        else fpSub (rdnFor q mode ty) (x (e - g)) (x e))
      Computes s (.vbfly ty d v j false mode) ty.bits ty 0 d y ∧
      ∃ st : BitVec 65536, exec (.vbfly ty d v j true mode) s =
          .next { s.finish (groupsOf s.vl ty.bits) s.thr with ctx := { s.ctx with stage := some st } } ∧
        ∀ e, (e + 1) * ty.bits ≤ 65536 → elemGet st ty.bits e = if e < s.vl then y e % 2 ^ ty.bits else (s.thr.v.get d).elem ty e)

/-- R177, R196: comparisons write mask bits at the active elements, mask instructions those below `VL`; a NaN fails every relation but
`ne`; and the values of masks in x registers. -/
def Obligations.MasksAndCompares : Prop :=
  ∀ (s : State) (rel : Rel) (ty : Ty) (m d ma mb : MReg) (a b : VSrc) (r : XReg) (imm : BitVec 16), s.VectorReady →
    let holds (x y : Nat) : Bool :=
      if ty.isInt then
        (let p := intOf ty x
         let q := intOf ty y
         match rel with
         | .eq => p == q | .ne => p != q | .lt => decide (p < q) | .le => decide (p ≤ q) | .gt => decide (q < p) | .ge => decide (q ≤ p))
      else
        (let p := fpIn s.num ty x
         let q := fpIn s.num ty y
         match rel with
         | .eq => fpEq p q | .ne => !fpEq p q | .lt => fpLt p q | .le => fpLe false p q | .gt => fpLt q p | .ge => fpLe false q p)
    let on (e : Nat) : Bool := decide (e < s.vl) && s.srcCore.thr.maskBit m e
    let low (e : Nat) : Bool := decide (e < s.vl)
    let p (e : Nat) : Bool := s.thr.maskBit ma e
    let q (e : Nat) : Bool := s.thr.maskBit mb e
    (s.srcCore.thr.ew.bits = ty.bits → (s.rv a.reg).ty = ty →
      Masks s (.vcmpi rel ty m d a imm) ty.bits d on (fun e => holds ((s.rv a.reg).elem ty e) (immArith ty imm)) ∧
      ((s.rv b.reg).ty = ty →
        Masks s (.vcmp rel ty m d a b) ty.bits d on fun e => holds ((s.rv a.reg).elem ty e) ((s.rv b.reg).elem ty e))) ∧
    Masks s (.mand d ma mb) s.ew d low (fun e => p e && q e) ∧ Masks s (.mor d ma mb) s.ew d low (fun e => p e || q e) ∧
    Masks s (.mxor d ma mb) s.ew d low (fun e => p e != q e) ∧ Masks s (.mandn d ma mb) s.ew d low (fun e => p e && !q e) ∧
    Masks s (.mnot d ma) s.ew d low (fun e => !p e) ∧ Masks s (.mset d) s.ew d low (fun _ => true) ∧
    (let one (e : Nat) : Bool := s.srcCore.thr.maskBit ma e
     let w (v : Word) : State := (s.finishBarrier (groupsOf s.vl s.ew) s.thr).wx r v
     exec (.mpopc r ma) s = .next (w (BitVec.ofNat 64 ((List.range s.vl).filter one).length)) ∧
     ((∀ e, e < s.vl → one e = false) → exec (.mfirst r ma) s = .next (w (BitVec.allOnes 64))) ∧
     ∀ e, e < s.vl → one e = true → (∀ k, k < e → one k = false) → exec (.mfirst r ma) s = .next (w (BitVec.ofNat 64 e)))

/-- R108, R110 to R112, R190, R191, R172: reductions, scans and segmented reductions, which are lane barriers. Integer reductions are exact and
fitted once; floating minimum and maximum combine the flushed terms, the initial value among them; floating sums add in the order of Table 5.7
that is in force, those of `f16` and `bf16` in `f32`. `tree` is the sum of R111, over halves. A NaN that a floating minimum or maximum gives is
the canonical one (the model's reading: log entry 34). -/
def Obligations.ReductionsAndScans : Prop :=
  ∀ (s : State) (ty : Ty) (m k : MReg) (d : VReg) (r b : XReg) (a : VSrc) (ex : Bool), s.VectorReady →
    s.srcCore.thr.ew.bits = ty.bits → (s.rv a.reg).ty = ty →
    let v := s.rv a.reg
    let fit (x : Int) : Int := intOf ty (fitInt (s.thr.nctl.getLsbD 5) ty x)
    let within (lo hi : Nat) : List Nat := (List.range hi).filter fun e => decide (lo ≤ e) && s.thr.maskBit m e
    let xs (lo hi : Nat) : List Int := (within lo hi).map fun e => intOf ty (v.elem ty e)
    let init : List Int := if b = 0 then [] else [intOf ty (s.rx b).toNat]
    let all := init ++ xs 0 s.vl
    let w (i : Instr) (x : Int) : Prop :=
      exec i s = .next ((s.finishBarrier (groupsOf s.vl ty.bits) s.thr).wx r (BitVec.ofInt 64 x))
    let h (e : Nat) : Nat := segHead (s.heads k) e
    let on (e : Nat) : Bool := decide (e < s.vl) && s.srcCore.thr.maskBit m e
    let last (e : Nat) : Bool := decide (e < s.vl) && (decide (e + 1 = s.vl) || s.heads k (e + 1))
    let scans (i : Instr) (op : Red) : Prop :=
      Crosses s i ty.bits ty d on fun e => partialRed s op ty m v (h e) (if ex then e else e + 1)
    let segs (i : Instr) (op : Red) : Prop := Crosses s i ty.bits ty d last fun e => partialRed s op ty m v (h e) (e + 1)
    (ty.isVInt = true →
      w (.vredsum ty m r a b) (fit all.sum) ∧ w (.vredmin ty m r a b) (all.foldl min (intMax ty)) ∧
      w (.vredmax ty m r a b) (all.foldl max (intMin ty)) ∧
      (ty.signed = false →
        w (.vredand ty m r a b) ((all.map Int.toNat).foldl (· &&& ·) (2 ^ ty.bits - 1) : Nat) ∧
        w (.vredor ty m r a b) ((all.map Int.toNat).foldl (· ||| ·) 0 : Nat) ∧
        w (.vredxor ty m r a b) ((all.map Int.toNat).foldl (· ^^^ ·) 0 : Nat)) ∧
      ∀ lo hi, partialRed s .sum ty m v lo hi = fitInt (s.thr.nctl.getLsbD 5) ty (xs lo hi).sum ∧
        partialRed s .min ty m v lo hi = wrapInt ty ((xs lo hi).foldl min (intMax ty)) ∧
        partialRed s .max ty m v lo hi = wrapInt ty ((xs lo hi).foldl max (intMin ty))) ∧
    (ty.isInt = false →
      let q := s.num
      let flush (t : Ty) (n : Nat) : Nat := flushBits (ftzOf s.thr.nctl) t n
      let z : Mode := if (s.thr.nctl.extractLsb' 0 3).toNat ≤ 4 then .ctl else .rne
      let plus (t : Ty) (x y : Option Nat) : Option Nat :=
        match x, y with
        | some x, some y => some (fpOut q z 0 t (fpAdd (rdnFor q z t) (fpIn q t x) (fpIn q t y)))
        | some x, none => some x
        | none, y => y
      let wide (n : Nat) : Nat := if ty = .f32 then n else roundFp .f32 .rne 0 (fpOf ty n)
      let term (lo e : Nat) : Option Nat := if lo ≤ e ∧ s.thr.maskBit m e = true then some (flush ty (v.elem ty e)) else none
      let first (t : Ty) : Option Nat := if b = 0 then none else some (flush t (xbits t (s.rx b)))
      let terms (lo hi : Nat) : List Nat := (within lo hi).map fun e => flush ty (v.elem ty e)
      let sumOf (t : Ty) (o : Option Nat) : Nat :=
        match o with
        | some n => (match fpOf t n with | .nan => canonNan t | _ => n)
        | none => 0
      let mostOf (f : NumCtx → Ty → Nat → Nat → Nat) (e : Nat) (l : List Nat) : Nat :=
        match l with
        | [] => e
        | u :: us => (let n := us.foldl (f q ty) u; f q ty n n)
      ∃ tree : Ty → Nat → (Nat → Option Nat) → Option Nat, (∀ t p, tree t 0 p = p 0) ∧
        (∀ t n p, tree t (n + 1) p = plus t (tree t n p) (tree t n fun i => p (2 ^ n + i))) ∧
        let order (t : Ty) (hi : Nat) (o : Option Nat) (p : Nat → Option Nat) : Option Nat :=
          let g := 512 / ty.bits
          let at_ (lo i : Nat) : Option Nat := if lo + i < hi then p (lo + i) else none
          if nbvOf s.thr.nctl ≠ 0 then (List.range hi).foldl (fun acc e => plus t acc (p e)) o
          else if s.thr.nctl.getLsbD 6 = true then
            (List.range ((hi + 31) / 32)).foldl (fun acc n => plus t acc (tree t 5 (at_ (32 * n)))) o
          else plus t o (tree t 6 fun lane =>
            (List.range ((hi + 64 * g - 1) / (64 * g))).foldl (fun acc n => plus t acc (tree t (Nat.log2 g) (at_ (64 * g * n + g * lane)))) none)
        let ts := (first ty).toList ++ terms 0 s.vl
        w (.vredsum ty m r a b) (sumOf .f32 (order .f32 s.vl (first .f32) fun e => (term 0 e).map wide) : Nat) ∧
        w (.vredmin ty m r a b) (mostOf fminBits (infBits ty false) ts : Nat) ∧
        w (.vredmax ty m r a b) (mostOf fmaxBits (infBits ty true) ts : Nat) ∧
        (∀ u, ty = .f32 → ts = [u] → fpOf .f32 u ≠ .nan → w (.vredsum ty m r a b) (u : Nat)) ∧
        ∀ lo hi, partialRed s .sum ty m v lo hi = sumOf ty (order ty hi none (term lo)) ∧
          partialRed s .min ty m v lo hi = mostOf fminBits (infBits ty false) (terms lo hi) ∧
          partialRed s .max ty m v lo hi = mostOf fmaxBits (infBits ty true) (terms lo hi)) ∧
    scans (.vscansum ty m d a k ex) .sum ∧ scans (.vscanmin ty m d a k ex) .min ∧ scans (.vscanmax ty m d a k ex) .max ∧
    segs (.vsegsum ty m d a k) .sum ∧ segs (.vsegmin ty m d a k) .min ∧ segs (.vsegmax ty m d a k) .max ∧
    ∀ e, h e ≤ e ∧ (h e = 0 ∨ s.heads k (h e) = true) ∧ ∀ x, h e < x → x ≤ e → s.heads k x = false

/-- R192: slides, rotations, gathers, compression and expansion; a gather of 8-bit elements has 16-bit indexes and an `EW` of 16. -/
def Obligations.Permutations : Prop :=
  ∀ (s : State) (ty : Ty) (m c : MReg) (d : VReg) (a b : VSrc) (r : XReg), s.VectorReady → (s.rv a.reg).ty = ty →
    let x (e : Nat) : Nat := (s.rv a.reg).elem ty e
    let k := (s.rx r).toNat
    let on (e : Nat) : Bool := decide (e < s.vl) && s.srcCore.thr.maskBit m e
    let sel (e : Nat) : Bool := decide (e < s.vl) && s.srcCore.thr.maskBit c e
    let before (e : Nat) : Nat := ((List.range e).filter sel).length
    (s.srcCore.thr.ew.bits = 16 → ty.bits = 8 → (s.rv b.reg).ty = .z16 → Crosses s (.vperm ty m d a b) 16 ty d on fun e =>
      let i := (s.rv b.reg).elem .z16 e
      if i < s.vl then x i else 0) ∧
    (s.srcCore.thr.ew.bits = ty.bits →
    Crosses s (.vslideup ty m d a r) ty.bits ty d (fun e => on e && decide (k ≤ e)) (fun e => x (e - k)) ∧
    Crosses s (.vslidedn ty m d a r) ty.bits ty d on (fun e => if e + k < s.vl then x (e + k) else 0) ∧
    Crosses s (.vrot ty m d a r) ty.bits ty d on (fun e => x ((e + k) % s.vl)) ∧
    (ty.bits = 32 → (s.rv b.reg).ty = .z32 → Crosses s (.vperm ty m d a b) 32 ty d on fun e =>
      let i := (s.rv b.reg).elem .z32 e
      if i < s.vl then x i else 0) ∧
    (ty.bits = 16 → (s.rv b.reg).ty = .z16 → Crosses s (.vperm ty m d a b) 16 ty d on fun e =>
      let i := (s.rv b.reg).elem .z16 e
      if i < s.vl then x i else 0) ∧
    Crosses s (.vexpand ty d a c) ty.bits ty d sel (fun e => x (before e)) ∧
    ∃ f : Nat → Nat, Crosses s (.vcompress ty d a c) ty.bits ty d (fun e => decide (e < before s.vl)) f ∧
      ∀ e, sel e = true → f (before e) = x e)

/-- R194: an exchange with the thread itself; the offer of one with a peer, made as its convoy stops at it with every check passed, or the
trap where the peer has ended; the pairing of two offers, which each take the other's elements or both fail; and the end of one that has
paired, which writes the elements below `VL`, or of one that has failed, which traps. The instruction is seen twice, at its offer and after its
pairing, and an offer left behind unpaired gives its ordinal back, while one that had paired is counted: log entries 23, 94. -/
def Obligations.Exchanges : Prop :=
  (∀ (s : State) (ty : Ty) (d : VReg) (a : VSrc) (b c : XReg) (l : Launch), s.VectorReady →
    (s.rv a.reg).ty = ty → s.srcCore.thr.ew.bits = ty.bits → s.dev.launchOn s.cur = some l → (s.rx b).toNat < 192 →
    (∃ g ∈ l.groups, g.num = (s.rx c).toNat % 256 ∧ g.members ≠ 0 ∧ g.members.getLsbD s.thr.tid.toNat = true ∧
      g.members.getLsbD (s.rx b).toNat = true) →
    let p := (s.rx b).toNat
    let g := (s.rx c).toNat % 256
    let n := exchangeNo s.thr p g
    let takes (v : VecReg) (t : Ty) (vl : Nat) (f : Nat → Nat) : Prop := v.ty = t ∧ ∀ e, (e + 1) * t.bits ≤ 65536 →
      v.elem t e = if e < vl then f e % 2 ^ t.bits else (s.thr.v.get d).elem t e
    let its (x : Exchange) : Prop := x.pl = s.core.pl ∧ x.pc = s.core.pc ∧ x.peer = p ∧ x.group = g
    (p = s.thr.tid.toNat → ∃ v, exec (.vxch ty d a b c) s = .next (s.finishBarrier (groupsOf s.vl ty.bits) (s.thr.setV d v)) ∧
      takes v ty s.vl ((s.rv a.reg).elem ty)) ∧
    (p ≠ s.thr.tid.toNat →
      ((∀ x, s.thr.xchg = some x → ¬ its x) → l.endedThreads.contains p = true →
        exec (.vxch ty d a b c) s = .next (s.trap cOperand s.ctx.word)) ∧
      (∀ x, s.thr.xchg = some x → x.pl ≠ s.core.pl → l.endedThreads.contains p = false → exec (.vxch ty d a b c) s = stall s) ∧
      ((∀ x, s.thr.xchg = some x → x.pl = s.core.pl ∧ ¬ its x) → l.endedThreads.contains p = false →
        (s.dev.sibling s.cur p).isSome = true → s.ctx.stop = none →
        ∃ saved, exec (.vxch ty d a b c) s = .next (s.pend (.exchange (some
          { peer := p, group := g, ord := 0, ty := ty, vl := s.vl, vd := d, va := a.reg, data := (s.rv a.reg).data, saved := saved
            pc := s.core.pc, pl := s.core.pl })))) ∧
      ∀ x, s.thr.xchg = some x → its x →
        (x.failed = false → x.got = none → s.ctx.stop = none → exec (.vxch ty d a b c) s = .next (s.pend (.exchange none))) ∧
        (∀ data, x.failed = false → x.got = some data → ∃ v t, exec (.vxch ty d a b c) s = .next t ∧ t.ctx.sent = true ∧
          t.core.wait = none ∧ t.thr = ({ (countExchange s.thr p g) with xchg := none } : Thread).setV d v ∧ SameBytes s t ∧
          exchangeNo t.thr p g = n + 1 ∧ takes v x.ty x.vl (elemGet data x.ty.bits)) ∧
        (x.failed = true → exec (.vxch ty d a b c) s = .next (({ s with base := s.base.onCore s.cur fun o =>
          { o with thr := { o.thr with xchg := none } } } : State).trap cOperand s.ctx.word)))) ∧
  (∀ (s : State) (x : Exchange) (dev : Device) (r : Rest), s.ctx.active = true → s.ctx.words = [] → s.ctx.vp = none → s.Undisturbed →
    s.ctx.stop = some { why := .wait (.exchange (some x)), dev := dev, rest := r } →
    let s1 : State := { s with dev := s.base }
    ∃ t, exec .convoyCommit s = .next t ∧ t.ctx.active = false ∧ t.core.wait = some (.waiting (.exchange none)) ∧
      t.thr.v = s1.thr.v ∧ t.thr.x = s1.thr.x ∧ SameBytes s1 t ∧
      t.thr.xchg = ((s1.setCore { s1.core with wait := some (.waiting (.exchange none)) }).offer x).thr.xchg) ∧
  ∀ (s : State) (x : Exchange) (o : CoreNo), s.dev.sibling s.cur x.peer = some o → o ≠ s.cur → x.failed = false → x.got = none →
    let counted : Thread := match s.thr.xchg with
      | some q => if q.got.isSome then countExchange s.thr q.peer q.group else s.thr
      | none => s.thr
    let offered : Exchange := { x with ord := exchangeNo counted x.peer x.group }
    ((s.dev.cores.get o).thr.xchg = none → s.offer x = s.setThr { counted with xchg := some offered }) ∧
    ∀ y, (s.dev.cores.get o).thr.xchg = some y → y.peer = s.thr.tid.toNat → y.group = x.group → y.ord = offered.ord → y.failed = false →
      y.got = none →
      let t := s.offer x
      SameBytes s t ∧ t.thr.v = s.thr.v ∧ (t.dev.cores.get o).thr.v = (s.dev.cores.get o).thr.v ∧
      (x.ty = y.ty → x.vl = y.vl → t.thr.xchg = some { offered with got := some y.data } ∧
        (t.dev.cores.get o).thr.xchg = some { y with got := some x.data }) ∧
      (x.ty ≠ y.ty ∨ x.vl ≠ y.vl → t.thr.xchg = some { offered with failed := true } ∧
        (t.dev.cores.get o).thr.xchg = some { y with failed := true })

/-- What an instruction of the vector unit that writes one vector register or one mask leaves unchanged: every other register, every
control register, every byte of memory, every other core. And what any other instruction with vector destinations leaves unchanged where its
convoy goes on: every other vector register, every mask, and every x register but one that it returns a count to (R70, R188, R194, R203, R210,
R265, R276, R281). -/
def Obligations.VectorFrame : Prop :=
  ∀ (s t : State) (i : Instr), s.VectorReady → exec i s = .next t →
    (s.ctx.trapped = false → t.ctx.trapped = false →
      (∀ d, vectorDest i = some d → OnlyV d s t) ∧ ∀ d, maskDest i = some d → OnlyM d s t) ∧
    (t.ctx.active = true → ∀ ds, vectorsTo i = some ds →
      (∀ r, r ∉ ds → t.thr.v.get r = s.thr.v.get r) ∧ t.thr.m = s.thr.m ∧ ∀ r, r ∉ (info i).wx → t.core.getX r = s.core.getX r)


/-! ### Memory -/

/-- R307: the swizzle of the copy engine and the operand latches. -/
def Obligations.Swizzle : Prop :=
  ∀ o s : Nat, s ≤ 7 →
    swz o s = o ^^^ (((o >>> (4 + s)) % 2 ^ s) <<< 4) ∧ swz (swz o s) s = o ∧ swz o 0 = o ∧
    swz o s / (16 * 2 ^ s) = o / (16 * 2 ^ s) ∧ swz o s % 16 = o % 16 ∧
    ∀ k, k < 16 → swz (16 * (o / 16) + k) s = swz (16 * (o / 16)) s + k

/-- R198 to R200, R202, R142, R4, R222: scalar loads and stores at every level, little-endian, the value extended by the sign of its type; the
store changes the bytes at its address and no others, and marks the slice or the buffer it writes (R338); an address that is not a multiple
of the size traps. R212: atomics, which return the old value and leave the new one, and release under `.rel` and `.ar` (R329, R338); the old
value of `amofadd` returns as an `f32` pattern with its upper half zero (the model's reading: log entry 49). -/
def Obligations.ScalarMemory : Prop :=
  (∀ (s : State) (ty : Ty) (sp : Space) (d a : XReg) (off : BitVec 16) (near : BitVec 14) (pa : Nat) (leaf : Option Leaf), s.Control →
    8 * ty.size = ty.bits →
    let ad := s.rx a + off.signExtend 64
    let ad8 := s.rx a + 8 * near.signExtend 64
    let n := ty.size
    let stored (a v n : Nat) (i : Instr) : Prop := ∃ t, exec i s = .next t ∧ memLoad t.dev.mem pa n = v % 256 ^ n ∧
      SameBut (fun x => pa ≤ x ∧ x < pa + n) s t ∧ t.thr = { s.thr with watches := t.thr.watches } ∧
      (s.core.pl = 0 → t.thr.watches = s.thr.watches) ∧ t.core.touched.getLsbD (pa / 4096 % 128) = true ∧
      t.core = { s.core with touched := t.core.touched, wait := t.core.wait, thr := t.core.thr,
                             tlb := (s.filled (BitVec.ofNat 64 a) leaf).core.tlb }
    (ad.toNat % n ≠ 0 → exec (.ld ty sp d a off) s = .next (s.trap cAddress ad) ∧
      exec (.st ty sp d a off) s = .next (s.trap cAddress ad)) ∧
    (s.PlainAt .load ad n pa leaf → exec (.ld ty .glob d a off) s =
      .next ((s.filled ad leaf).wx d (BitVec.ofInt 64 (intOf ty (memLoad s.dev.mem pa n))))) ∧
    (s.PlainAt .load ad8 8 pa leaf → exec (.ldR d a near) s =
      .next ((s.filled ad8 leaf).wx d (BitVec.ofNat 64 (memLoad s.dev.mem pa 8)))) ∧
    (s.Canonical →
      (s.PlainAt .store ad n pa leaf → stored ad.toNat (s.rx d).toNat n (.st ty .glob d a off)) ∧
      (s.PlainAt .store ad8 8 pa leaf → stored ad8.toNat (s.rx d).toNat 8 (.stR d a near))) ∧
    ∀ l, s.PlainLocal sp ad n l →
      exec (.ld ty sp d a off) s =
        .next (s.wx d (BitVec.ofInt 64 (intOf ty (memLoad ((s.dev.cores.get l.core).buf l.wb) l.off n)))) ∧
      (s.Canonical → ∃ t, exec (.st ty sp d a off) s = .next t ∧ t.thr = s.thr ∧
        memLoad ((t.dev.cores.get l.core).buf l.wb) l.off n = (s.rx d).toNat % 2 ^ ty.bits ∧ t.dev.mem = s.dev.mem ∧
        t.core.touchedBufs.getLsbD l.core.val = true ∧
        ∀ (c : CoreNo) (wb : Bool) (x : Nat), ¬ (c = l.core ∧ wb = l.wb ∧ l.off ≤ x ∧ x < l.off + n) →
          memRead ((t.dev.cores.get c).buf wb) x = memRead ((s.dev.cores.get c).buf wb) x)) ∧
  ∀ (s : State) (ty : Ty) (o : Order) (sc : Scope) (d a b c : XReg) (pa : Nat) (leaf : Option Leaf), ty.isXInt = true →
    s.PlainAt .rmw (s.rx a) ty.size pa leaf → s.Canonical →
    let old := memLoad s.dev.mem pa ty.size
    let v := (s.rx b).toNat % 2 ^ ty.bits
    let i := intOf ty old
    let j := intOf ty v
    let frees := o = .rel ∨ o = .ar
    let does (k : Instr) (new : Nat) (ret : Word) : Prop := ∃ t, exec k s = .next t ∧ memLoad t.dev.mem pa ty.size = new ∧
      (d ≠ 0 → t.core.getX d = ret) ∧ (∀ r, r ≠ d → t.core.getX r = s.core.getX r) ∧
      SameBut (fun x => pa ≤ x ∧ x < pa + ty.size) s t ∧ t.thr.v = s.thr.v ∧ t.thr.m = s.thr.m ∧ t.core.am = s.core.am ∧
      t.core.touched = (if frees then 0 else s.core.touched) ||| (1#128 <<< (pa / 4096 % 128)) ∧
      t.core.touchedBufs = if frees then 0 else s.core.touchedBufs
    let ret := BitVec.ofInt 64 i
    does (.amoadd ty o sc d a b) ((old + v) % 2 ^ ty.bits) ret ∧ does (.amomin ty o sc d a b) (if i ≤ j then old else v) ret ∧
    does (.amomax ty o sc d a b) (if i ≤ j then v else old) ret ∧ does (.amoand ty o sc d a b) (old &&& v) ret ∧
    does (.amoor ty o sc d a b) (old ||| v) ret ∧ does (.amoxor ty o sc d a b) (old ^^^ v) ret ∧
    does (.amoswap ty o sc d a b) v ret ∧
    does (.amocas ty o sc d a b c) (if old = (s.rx c).toNat % 2 ^ ty.bits then v else old) ret ∧
    (ty = .z32 → let q : NumCtx := { s.num with nctl := 0 }
      does (.amofadd o sc d a b) (fpOut q .rne 0 .f32 (fpAdd false (fpIn q .f32 old) (fpIn q .f32 v))) (BitVec.ofNat 64 old))

/-- R203 to R210, R213, R439: vector loads and stores at every level, whose active elements are all plain accesses at translations the TLB
holds: each element at its own place, in ascending order, so that of two elements at one place the later stands; and memory reductions. The
same of the buffers, where a load takes the span of its first element (R71), and a segment load span 0. -/
def Obligations.VectorMemory : Prop :=
  ∀ (s : State) (ty u : Ty) (m : MReg) (d : VReg) (a b : XReg) (v w : VSrc) (off : BitVec 16) (sc : Bool) (n1 : BitVec 3) (mode : Mode)
    (op : RedOp) (scope : Scope) (pl : Nat → Nat), s.VectorReady → s.Canonical →
    let base := s.rx a + off.signExtend 64
    let n := ty.size
    let on (e : Nat) : Prop := e < s.vl ∧ s.srcCore.thr.maskBit m e = true
    let plain (acc : AccKind) (k : Nat) (addr : Nat → Word) : Prop := ∀ e, on e → s.PlainElem acc (addr e) k (pl e)
    let idx (e : Nat) : Word := BitVec.ofInt 64 (intOf (s.rv v.reg).ty ((s.rv v.reg).elem .z32 e))
    let index : Prop := (s.rv v.reg).ty = .s32 ∨ (s.rv v.reg).ty = .z32
    let ew := s.srcCore.thr.ew.bits
    let unit (e : Nat) : Word := base + BitVec.ofNat 64 (e * n)
    let strided (e : Nat) : Word := base + BitVec.ofNat 64 e * s.rx b
    let indexed (e : Nat) : Word := base + idx e * BitVec.ofNat 64 (if sc then n else 1)
    let quiet (t : State) : Prop := t.thr = { s.thr with watches := t.thr.watches } ∧ (s.core.pl = 0 → t.thr.watches = s.thr.watches)
    let loads (f : Space → Instr) (k : Nat) (addr : Nat → Word) : Prop :=
      (plain .vecRead n addr → Computes s (f .glob) k ty m d fun e => memLoad s.dev.mem (pl e) n) ∧
      ∀ (sp : Space) (lo : Nat → Local), sp ≠ .glob → (∀ e, on e → s.PlainLocal sp (addr e) n (lo e)) →
        ∃ x, exec (f sp) s = .next (s.finish (groupsOf s.vl k) (s.thr.setV d x)) ∧ x.ty = ty ∧
          (∀ e, on e → (∀ g, g < e → ¬ on g) → x.span = (s.dev.cores.get (lo e).core).stamp (lo e).wb (lo e).off) ∧
          ((∀ e, ¬ on e) → x.span = 0) ∧
          ∀ e, (e + 1) * ty.bits ≤ 65536 → (on e → x.elem ty e = memLoad ((s.dev.cores.get (lo e).core).buf (lo e).wb) (lo e).off n) ∧
            (¬ on e → x.elem ty e = (s.thr.v.get d).elem ty e)
    let stores (f : Space → Instr) (addr : Nat → Word) : Prop :=
      (plain .vecStore n addr → ∃ t, exec (f .glob) s = .next t ∧ quiet t ∧
        SameBut (fun x => ∃ e, on e ∧ pl e ≤ x ∧ x < pl e + n) s t ∧
        ∀ e, on e → (∀ f, on f → e < f → pl f ≠ pl e) → memLoad t.dev.mem (pl e) n = (s.rv d).elem ty e) ∧
      ∀ (sp : Space) (lo : Nat → Local), sp ≠ .glob → (∀ e, on e → s.PlainLocal sp (addr e) n (lo e)) →
        ∃ t, exec (f sp) s = .next t ∧ t.thr = s.thr ∧ t.dev.mem = s.dev.mem ∧
          (∀ e, on e → (∀ f, on f → e < f → lo f ≠ lo e) →
            memLoad ((t.dev.cores.get (lo e).core).buf (lo e).wb) (lo e).off n = (s.rv d).elem ty e) ∧
          ∀ (c : CoreNo) (wb : Bool) (x : Nat), (∀ e, on e → ¬ ((lo e).core = c ∧ (lo e).wb = wb ∧ (lo e).off ≤ x ∧ x < (lo e).off + n)) →
            memRead ((t.dev.cores.get c).buf wb) x = memRead ((s.dev.cores.get c).buf wb) x
    (8 * n = ty.bits →
      (ew = ty.bits → loads (fun sp => .vld ty sp m d a b off) ty.bits unit ∧ loads (fun sp => .vlds ty sp m d a b off) ty.bits strided ∧
        ((s.rv d).ty = ty → stores (fun sp => .vst ty sp m d a b off) unit ∧ stores (fun sp => .vsts ty sp m d a b off) strided)) ∧
      (ew = 32 → index → loads (fun sp => .vldx ty sp m d a v off sc) 32 indexed ∧
        ((s.rv d).ty = ty → stores (fun sp => .vstx ty sp m d a v off sc) indexed))) ∧
    (∀ ps : Nat → Nat,
     let code (i : Nat) : Word := base + BitVec.ofNat 64 i
     let scale (i : Nat) : Word := s.rx b + BitVec.ofNat 64 i
     let all (acc : AccKind) : Prop := (∀ i, 2 * i < s.vl → s.PlainElem acc (code i) 1 (pl i)) ∧
       ∀ i, 32 * i < s.vl → s.PlainElem acc (scale i) 1 (ps i)
     s.vl % 32 = 0 → s.vl ≤ 8192 →
       (all .vecRead → ∃ x, exec (.vld .q4 .glob m d a b off) s = .next (s.finish (groupsOf s.vl 4) (s.thr.setV d x)) ∧ x.ty = .q4 ∧
         (∀ i, 2 * i < s.vl → elemGet x.data 8 i = (memRead s.dev.mem (pl i)).toNat) ∧
         ∀ i, 32 * i < s.vl → elemGet x.side 8 i = (memRead s.dev.mem (ps i)).toNat) ∧
       ((s.rv d).ty = .q4 → all .vecStore → (∀ i j, 2 * i < s.vl → 32 * j < s.vl → pl i ≠ ps j) →
         (∀ i j, i < j → (2 * j < s.vl → pl i ≠ pl j) ∧ (32 * j < s.vl → ps i ≠ ps j)) →
         ∃ t, exec (.vst .q4 .glob m d a b off) s = .next t ∧ quiet t ∧
           SameBut (fun x => ∃ i, (2 * i < s.vl ∧ x = pl i) ∨ (32 * i < s.vl ∧ x = ps i)) s t ∧
           (∀ i, 2 * i < s.vl → (memRead t.dev.mem (pl i)).toNat = elemGet (s.rv d).data 8 i) ∧
           ∀ i, 32 * i < s.vl → (memRead t.dev.mem (ps i)).toNat = elemGet (s.rv d).side 8 i) ∧
       ∀ (sp : Space) (lo ls : Nat → Local), sp ≠ .glob → (∀ i, 2 * i < s.vl → s.PlainLocal sp (code i) 1 (lo i)) →
         (∀ i, 32 * i < s.vl → s.PlainLocal sp (scale i) 1 (ls i)) →
         let byte (t : State) (l : Local) : Nat := (memRead ((t.dev.cores.get l.core).buf l.wb) l.off).toNat
         (∃ x, exec (.vld .q4 sp m d a b off) s = .next (s.finish (groupsOf s.vl 4) (s.thr.setV d x)) ∧ x.ty = .q4 ∧
           x.span = (if 0 < s.vl then (s.dev.cores.get (lo 0).core).stamp (lo 0).wb (lo 0).off else 0) ∧
           (∀ i, 2 * i < s.vl → elemGet x.data 8 i = byte s (lo i)) ∧ ∀ i, 32 * i < s.vl → elemGet x.side 8 i = byte s (ls i)) ∧
         ((s.rv d).ty = .q4 → (∀ i j, 2 * i < s.vl → 32 * j < s.vl → lo i ≠ ls j) →
           (∀ i j, i < j → (2 * j < s.vl → lo i ≠ lo j) ∧ (32 * j < s.vl → ls i ≠ ls j)) →
           ∃ t, exec (.vst .q4 sp m d a b off) s = .next t ∧ t.thr = s.thr ∧ t.dev.mem = s.dev.mem ∧
             (∀ i, 2 * i < s.vl → byte t (lo i) = elemGet (s.rv d).data 8 i) ∧
             (∀ i, 32 * i < s.vl → byte t (ls i) = elemGet (s.rv d).side 8 i) ∧
             ∀ (c : CoreNo) (wb : Bool) (x : Nat), (∀ i, 2 * i < s.vl → lo i ≠ ⟨c, wb, x⟩) → (∀ i, 32 * i < s.vl → ls i ≠ ⟨c, wb, x⟩) →
               memRead ((t.dev.cores.get c).buf wb) x = memRead ((s.dev.cores.get c).buf wb) x)) ∧
    (∀ pf : Nat → Nat → Nat,
     let place (e f : Nat) : Word := s.rx a + BitVec.ofNat 64 ((e * (n1.toNat + 1) + f) * u.size)
     let all (acc : AccKind) : Prop := ∀ e f, on e → f ≤ n1.toNat → s.PlainElem acc (place e f) u.size (pf e f)
     8 * u.size = u.bits → ew = ty.bits → d.val + n1.toNat < 32 →
       (all .vecRead → ∃ t, exec (.vldseg ty u .glob m d a n1 mode) s = .next t ∧ SameBytes s t ∧
         ∀ f, f ≤ n1.toNat → let r : VReg := Fin.ofNat 32 (d.val + f)
           Elements s ty m r (fun e => convOrCopy s.num mode e ty u (memLoad s.dev.mem (pf e f) u.size)) (t.thr.v.get r)) ∧
       ((∀ f, f ≤ n1.toNat → (s.rv (Fin.ofNat 32 (d.val + f))).ty = ty) → all .vecStore →
         (∀ e f e' f', on e → on e' → f ≤ n1.toNat → f' ≤ n1.toNat → (e, f) ≠ (e', f') → pf e f ≠ pf e' f') →
         ∃ t, exec (.vstseg ty u .glob m d a n1 mode) s = .next t ∧ quiet t ∧
           SameBut (fun x => ∃ e f, on e ∧ f ≤ n1.toNat ∧ pf e f ≤ x ∧ x < pf e f + u.size) s t ∧
           ∀ e f, on e → f ≤ n1.toNat → memLoad t.dev.mem (pf e f) u.size =
             convOrCopy s.num mode e u ty ((s.rv (Fin.ofNat 32 (d.val + f))).elem ty e) % 2 ^ u.bits) ∧
       ∀ (sp : Space) (lf : Nat → Nat → Local), sp ≠ .glob →
         (∀ e f, on e → f ≤ n1.toNat → s.PlainLocal sp (place e f) u.size (lf e f)) →
         let held (t : State) (l : Local) : Nat := memLoad ((t.dev.cores.get l.core).buf l.wb) l.off u.size
         (∃ t, exec (.vldseg ty u sp m d a n1 mode) s = .next t ∧ SameBytes s t ∧
           ∀ f, f ≤ n1.toNat → let r : VReg := Fin.ofNat 32 (d.val + f)
             Elements s ty m r (fun e => convOrCopy s.num mode e ty u (held s (lf e f))) (t.thr.v.get r)) ∧
         ((∀ f, f ≤ n1.toNat → (s.rv (Fin.ofNat 32 (d.val + f))).ty = ty) →
           (∀ e f e' f', on e → on e' → f ≤ n1.toNat → f' ≤ n1.toNat → (e, f) ≠ (e', f') → lf e f ≠ lf e' f') →
           ∃ t, exec (.vstseg ty u sp m d a n1 mode) s = .next t ∧ t.thr = s.thr ∧ t.dev.mem = s.dev.mem ∧
             (∀ e f, on e → f ≤ n1.toNat → held t (lf e f) =
               convOrCopy s.num mode e u ty ((s.rv (Fin.ofNat 32 (d.val + f))).elem ty e) % 2 ^ u.bits) ∧
             ∀ (c : CoreNo) (wb : Bool) (x : Nat), (∀ e f, on e → f ≤ n1.toNat →
                 ¬ ((lf e f).core = c ∧ (lf e f).wb = wb ∧ (lf e f).off ≤ x ∧ x < (lf e f).off + u.size)) →
               memRead ((t.dev.cores.get c).buf wb) x = memRead ((s.dev.cores.get c).buf wb) x)) ∧
    (let addr (e : Nat) : Word := s.rx a + idx e
     index → (s.rv w.reg).ty = ty → ty.bits = 32 → ew = 32 → plain .rmw 4 addr →
       ∃ t, exec (.vredm op ty scope m a v w) s = .next t ∧ quiet t ∧
         SameBut (fun x => ∃ e, on e ∧ pl e ≤ x ∧ x < pl e + 4) s t ∧
         ∀ e, on e → (∀ f, on f → f ≠ e → pl f ≠ pl e) → memLoad t.dev.mem (pl e) 4 =
           amoValue s.num (redOpOf op ty) ty (memLoad s.dev.mem (pl e) 4) ((s.rv w.reg).elem ty e) 0 % 2 ^ 32)


/-! ### Waits, watermarks and hampers -/

/-- R35, R216, R217, R219 to R226, R237 to R239, R324, R325, R338: a fence releases and a drain completes at once, where nothing they order waits
in the vector queue; a wait completes with its value where its condition holds, and stops its convoy where it does not; a barrier arrives as its
convoy first comes to wait, and the arrival, or the departure of a thread that ends, that completes a generation of a group wakes its waiters
with OK or DEPARTED; a watch set is armed, its first 64 elements and no more than its quarter has room for; a watermark rises; an arrival word is
armed; and the agents of the scopes (Table 13.2). The model's
choices: every access is performed with its instruction, so that fences and drains wait for nothing else (log entry 2), `wmpub` releases at once
(log entry 71), an arrival is made at the first run that reaches the wait (log entry 25), and ARR + 1 is compared with COUNT before it wraps (log
entry 81). R206, R238, R302, R51: a read below the mark of a transfer goes on; a vector load with an element above its mark leaves its
convoy alone and waits in the vector queue; what it is to write is waited for; one whose bytes are there takes effect on the lanes and memory.
None traps once its convoy has committed (R42): one that would read a poisoned byte holds its convoy, and no poison strikes what a committed one
is still to read (the model's: log entries 85, 97). -/
def Obligations.Waits : Prop :=
  (∀ (s s1 : State) (scope : Scope) (sp : Space) (m : MReg) (d a b : XReg) (v : VSrc) (k : LinkNo) (bs : List Byte) (pa : Nat)
      (leaf : Option Leaf), s.Control →
    let done (t : State) : State := t.setCore { t.core with wait := none }
    let waits (t : State) (c : WaitCond) : State := t.stopAt (.wait c) t.restHere
    let passes (i : Instr) (v : Word) : Prop := ∃ t, exec i s = .next t ∧ (d ≠ 0 → t.core.getX d = v) ∧
      (∀ r, r ≠ d → t.core.getX r = s.core.getX r) ∧ t.core.wait = none ∧ t.ctx = { s.ctx with sent := true } ∧ SameBytes s t
    let ld := s.core.late.any fun e => !e.vec || e.touches.any fun t => !t.write
    let st := s.core.late.any fun e => !e.vec || e.touches.any fun t => t.write
    let sc := s.core.late.any fun e => !e.vec
    exec (.fence scope) s = (if sc then stall s else .next (s.setCore { s.core with touched := 0, touchedBufs := 0 })) ∧
    exec .vdrain s = (if ld || st then stall s else .next s) ∧ exec .vdrainl s = (if ld then stall s else .next s) ∧
    exec .vdrains s = (if st then stall s else .next s) ∧
    (s.readBytes .ab .load (s.rx a) 16 none = .ok bs s1 →
      let gen := BitVec.ofNat 32 (fieldAt bs 8 4)
      exec (.waitArr d a b) s = .next (if gen ≠ (s.rx b).setWidth 32 then (done s1).wx d (gen.setWidth 64)
        else waits s1 (.arr (s.rx a).toNat ((s.rx b).setWidth 32)))) ∧
    (s.readBytes sp .waitLoad (s.rx a) 8 none = .ok bs s1 →
      let x := BitVec.ofNat 64 (bytesVal bs)
      (x ≠ s.rx b → exec (.waitW sp d a b) s = .next ((done s1).wx d x)) ∧
      (x = s.rx b →
        (sp ≠ .glob ∨ lookup s1.dev s1.viewer s1.core.pl .waitLoad (s.rx a) = .ok pa leaf ∧ isDevReg pa = false →
          exec (.waitW sp d a b) s = .next (waits s1 (.word sp (s.rx a).toNat (s.rx b)))) ∧
        (sp = .glob → lookup s1.dev s1.viewer s1.core.pl .waitLoad (s.rx a) = .ok pa leaf → isDevReg pa = true → s.core.wait = none →
          exec (.waitW sp d a b) s = .next (waits s1 (.polled (s.rx a).toNat (s.rx b) 64))))) ∧
    (s.thr.watches = [] → exec (.waitWatch d) s = .next ((done s).wx d (BitVec.allOnes 64))) ∧
    (s.thr.watches ≠ [] → (∀ w ∈ s.thr.watches, w.fired = false) → exec (.waitWatch d) s = .next (waits s .watch)) ∧
    ((∃ w ∈ s.thr.watches, w.fired = true) → ∃ mask, exec (.waitWatch d) s =
        .next ((done (s.setThr { s.thr with watches := s.thr.watches.filter fun w => !w.fired })).wx d mask) ∧
      ∀ i, i < 64 → (mask.getLsbD i = true ↔ ∃ w ∈ s.thr.watches, w.fired = true ∧ w.no = i)) ∧
    (∀ pl : Nat → Nat, s.thr.threadMode = false → s.srcCore.thr.ew.bits = 32 → (s.rv v.reg).ty = .z32 →
      let es := (s.active m).take (min 64 (1024 - s.dev.watchesOf s.cur))
      (∀ e ∈ es, s.PlainElem .watch (s.rx a + BitVec.ofNat 64 ((s.rv v.reg).elem .z32 e)) 8 (pl e)) →
      let ws : List Watch := es.zipIdx.map fun p => { no := p.2, addr := pl p.1 }
      exec (.vwatch m d a v) s =
        .next ((s.finishBarrier (groupsOf s.vl 32) { s.thr with watches := ws }).wx d (BitVec.ofNat 64 es.length))) ∧
    (∀ (l : Launch) (g : Group), s.dev.launchOn s.cur = some l → (l.groups.find? fun e => e.num == (s.rx a).toNat % 256) = some g →
      s.core.wait = none → sc = false → (s.rx a).toNat % 256 ≠ 255 → g.members ≠ 0 → g.members.getLsbD s.thr.tid.toNat = true →
      exec (.gsync d a) s = .next (waits s (.gsync ((s.rx a).toNat % 256) g.gen none))) ∧
    (∀ g gen st, s.core.wait = some (.waiting (.gsync g gen (some st))) → passes (.gsync d a) (gen ++ BitVec.ofNat 32 st)) ∧
    (s.core.wait = none → s.PlainAt .rmw (s.rx a) 16 pa leaf →
      exec (.gsyncW d a) s = .next (waits (s.filled (s.rx a) leaf) (.gsyncW pa 0 none))) ∧
    (∀ p gen st, s.core.wait = some (.waiting (.gsyncW p gen (some st))) → passes (.gsyncW d a) (gen ++ BitVec.ofNat 32 st)) ∧
    (let l := s.thr.lw.get k
     let x : BitVec 63 := (s.rx a).setWidth 63
     (st = true → exec (.wmpub k a) s = stall s) ∧ (st = false → ∃ t, exec (.wmpub k a) s = .next t ∧ (l.role ≠ 1 →
       (t.thr.lw.get k).mark = if l.mark.toNat < x.toNat then x else l.mark) ∧
       t.core.touched = 0 ∧ t.core.touchedBufs = 0 ∧ l.mark.toNat ≤ (t.thr.lw.get k).mark.toNat ∧ SameBytes s t ∧ t.thr.x = s.thr.x ∧
       t.thr.v = s.thr.v)) ∧
    ∀ l, s.PlainLocal .ab (s.rx a) 16 l → s.Canonical → ∃ t, exec (.aarm d a b) s = .next t ∧
      (d ≠ 0 → t.core.getX d = BitVec.ofNat 64 (memLoad (s.dev.cores.get l.core).ab (l.off + 8) 4)) ∧
      memLoad (t.dev.cores.get l.core).ab l.off 4 = (s.rx b).toNat % 2 ^ 32 ∧
      memLoad (t.dev.cores.get l.core).ab (l.off + 4) 4 = 0 ∧ t.dev.mem = s.dev.mem ∧
      ∀ x, (x < l.off ∨ l.off + 8 ≤ x) → memRead (t.dev.cores.get l.core).ab x = memRead (s.dev.cores.get l.core).ab x) ∧
  (∀ (s : State) (pa : Nat) (dev : Device) (r : Rest), s.ctx.active = true → s.ctx.words = [] → s.ctx.vp = none → s.Undisturbed →
    s.ctx.stop = some { why := .wait (.gsyncW pa 0 none), dev := dev, rest := r } → (s.base.cores.get s.cur).wait = none →
    s.base.Canonical →
    let count := memLoad s.base.mem pa 4
    let arr := memLoad s.base.mem (pa + 4) 4
    let gen := memLoad s.base.mem (pa + 8) 4
    let ends (st : Option Nat) (arr gen' : Nat) : Prop := ∃ t, exec .convoyCommit s = .next t ∧ t.ctx.active = false ∧
      t.core.wait = some (.waiting (.gsyncW pa (BitVec.ofNat 32 gen) st)) ∧ memLoad t.dev.mem (pa + 4) 4 = arr ∧
      memLoad t.dev.mem (pa + 8) 4 = gen' ∧ t.core.touched = 1#128 <<< (pa / 4096 % 128) ∧ t.core.touchedBufs = 0 ∧ ∀ x,
        (x < pa + 4 ∨ pa + 12 ≤ x) → memRead t.dev.mem x = memRead s.base.mem x
    (arr + 1 < count → ends none (arr + 1) gen) ∧ (count ≤ arr + 1 → ends (some 0) 0 ((gen + 1) % 2 ^ 32))) ∧
  (∀ (s : State) (l : Launch) (g : Group) (dev : Device) (r : Rest), s.ctx.active = true → s.ctx.words = [] → s.ctx.vp = none →
    s.Undisturbed → s.ctx.stop = some { why := .wait (.gsync g.num g.gen none), dev := dev, rest := r } →
    (s.base.cores.get s.cur).wait = none → s.base.launchOn s.cur = some l → s.base.launchNo l.arrival = some l →
    l.groups.filter (fun h => h.num == g.num) = [g] →
    let ends (st : Option Nat) (arr : Nat) (gen : Half) : Prop := ∃ t m, exec .convoyCommit s = .next t ∧ t.ctx.active = false ∧
      t.dev.launchNo l.arrival = some m ∧ m.groups.filter (fun h => h.num == g.num) = [{ g with arrived := arr, gen := gen }] ∧
      t.core.touched = 0 ∧ t.core.touchedBufs = 0 ∧ SameBytes { s with dev := s.base } t ∧
      (s.cur ∈ l.cores → t.core.wait = some (.waiting (.gsync g.num g.gen st))) ∧
      ∀ o ∈ l.cores, o ≠ s.cur → (s.base.cores.get o).wait = some (.waiting (.gsync g.num g.gen none)) →
        (t.dev.cores.get o).wait = some (.waiting (.gsync g.num g.gen st))
    (g.arrived + 1 < g.count → g.arrived + 1 + g.departed < g.count → ends none (g.arrived + 1) g.gen) ∧
    (g.count ≤ g.arrived + 1 → ends (some 0) 0 (g.gen + 1)) ∧
    (g.arrived + 1 < g.count → g.count ≤ g.arrived + 1 + g.departed → ends (some 1) 0 (g.gen + 1))) ∧
  (∀ (s : State) (l : Launch) (g : Group), s.Committing → s.Undisturbed → s.core.pl = 0 → s.core.late = [] → s.thr.threadMode = false →
    s.core.ended = false → s.dev.launchOn s.cur = some l → s.dev.launchNo l.arrival = some l → s.thr.tid.toNat ∉ l.endedThreads →
    l.groups.filter (fun h => h.num == g.num) = [g] → g.members.getLsbD s.thr.tid.toNat = true → g.arrived < g.count →
    let done : Prop := 1 ≤ g.arrived ∧ g.count ≤ g.arrived + g.departed + 1
    let left (arr : Nat) (gen : Half) (st : Option Nat) : Prop := ∃ t m, exec .halt s = .next t ∧ t.dev.launchNo l.arrival = some m ∧
      m.groups.filter (fun h => h.num == g.num) = [{ g with departed := g.departed + 1, arrived := arr, gen := gen }] ∧
      ∀ o ∈ l.cores, o ≠ s.cur → (s.dev.cores.get o).wait = some (.waiting (.gsync g.num g.gen none)) →
        (t.dev.cores.get o).wait = some (.waiting (.gsync g.num g.gen st))
    (done → left 0 (g.gen + 1) (some 1)) ∧ (¬ done → left g.arrived g.gen none)) ∧
  (∀ (s : State) (ty : Ty) (m : MReg) (d : VReg) (a b : XReg) (off : BitVec 16) (pl : Nat → Nat), s.VectorReady → s.core.pl = 0 →
    s.core.late = [] → s.ctx.active = true → s.ctx.src = none → s.ctx.blocked = false → ty.isVInt = true → s.thr.ew.bits = ty.bits →
    let i := Instr.vld ty .glob m d a b off
    let addr (e : Nat) : Word := s.rx a + off.signExtend 64 + BitVec.ofNat 64 (e * ty.size)
    let on (e : Nat) : Prop := e < s.vl ∧ s.thr.maskBit m e = true
    (∀ e, on e → ∃ leaf, s.PlainAt .vecRead (addr e) ty.size (pl e) leaf ∧ s.filled (addr e) leaf = s) →
    (∃ e, on e ∧ linkStalls s.thr (addr e).toNat ty.size = true) →
    ∃ t e, s.issue i = .next t ∧ t.core.late = [e] ∧ e.instr = i ∧ e.pl = 0 ∧ t.thr.v = s.thr.v ∧ t.thr.x = s.thr.x ∧
      t.ctx.active = s.ctx.active ∧ t.ctx.words = s.ctx.words ∧ t.ctx.blocked = false ∧ SameBytes s t) ∧
  (∀ (s : State) (ty : Ty) (m : MReg) (d : VReg) (a b : XReg) (off : BitVec 16) (pl : Nat → Nat), s.VectorReady → s.core.pl = 0 →
    s.ctx.src = none → ty.isVInt = true → s.thr.ew.bits = ty.bits →
    (∀ k, s.thr.transfers.get k = none ∧ (s.base.cores.get s.cur).thr.transfers.get k = none) →
    let i := Instr.vld ty .glob m d a b off
    let addr (e : Nat) : Word := s.rx a + off.signExtend 64 + BitVec.ofNat 64 (e * ty.size)
    let on (e : Nat) : Prop := e < s.vl ∧ s.thr.maskBit m e = true
    let bad (e : Nat) : Prop := poisoned 64 s.dev.poison (pl e) ty.size = true
    (∀ e, on e → ∃ leaf, s.PlacedAt .vecRead (addr e) ty.size (pl e) leaf ∧ s.filled (addr e) leaf = s) →
    (∀ e, on e → bad e → linkStalls s.thr (addr e).toNat ty.size = true) → (∃ e, on e ∧ bad e) → s.issue i = stall s) ∧
  (∀ (s : State) (e : Late) (u : Touch) (ph : Phys) (a : Nat), e ∈ s.core.late → u ∈ e.touches → u.read = true → u.spot = .glob ph →
    ph.leaf = none → poisoned 64 [a / 64] ph.pa u.n = true → s.dev.strikesLate = false →
    exec (.storageError (.glob a) .lasting) s = .next s) ∧
  (∀ (s : State) (ty : Ty) (sp : Space) (d a : XReg) (off : BitVec 16) (l : Local) (k : Chan) (f : Transfer), s.Control →
    8 * ty.size = ty.bits → s.core.late = [] → s.ctx.queued = none → s.thr.transfers.get k = some f →
    (∀ j, j ≠ k → s.thr.transfers.get j = none) → swzSpan f.regs = 0 → sp ≠ .glob →
    let ad := s.rx a + off.signExtend 64
    ad.toNat % ty.size = 0 → s.dev.locate s.cur sp ad ty.size = some l → s.dev.localPoisoned l ty.size = false →
    l.off + ty.size ≤ (s.thr.wm.get k).toNat → ∃ t, exec (.ld ty sp d a off) s = .next t ∧ t.ctx.blocked = s.ctx.blocked ∧
      (d ≠ 0 → t.core.getX d = BitVec.ofInt 64 (intOf ty (memLoad ((s.dev.cores.get l.core).buf l.wb) l.off ty.size))) ∧
      t.thr.transfers = s.thr.transfers ∧ SameBytes s t) ∧
  (∀ (s : State) (i : Instr) (e : Late) (r : XReg), s.ctx.vp = none → e ∈ s.srcCore.late → e.pl = s.core.pl → r ∈ laneX e.instr →
    r ∈ (info i).rx → s.issue i = stall s) ∧
  (∀ (s t : State) (e : Late), s.core.late = [e] → exec e.instr (s.asLate e .turn) = .next t →
    let u := s.drainLate
    (t.ctx.active = true → t.ctx.blocked = false → u.core.late = [] ∧ u.thr.v = t.thr.v ∧ u.thr.m = t.thr.m ∧ u.core.am = t.core.am ∧
      u.dev.mem = t.dev.mem ∧ u.thr.vl = s.thr.vl ∧ u.core.pl = s.core.pl ∧
      ∀ r, r ∉ laneX e.instr → u.core.getX r = s.core.getX r)) ∧
  ∀ (d : Device) (t u : Agent) (r q : Scope) (c o : CoreNo),
    d.canSync t r u q = d.canSync u q t r ∧ d.inScope t .system u = true ∧ d.inScope (.thread c) .device (.thread o) = true ∧
    d.inScope (.thread c) .device .host = false ∧ d.inScope (.thread c) .device .remote = false ∧
    (d.inScope (.thread c) .quarter (.thread o) = true ↔ c.val / 48 = o.val / 48) ∧
    (d.inScope (.thread c) .core (.thread o) = true ↔ c = o) ∧
    (d.inScope (.thread c) .group (.thread o) = true ↔ c = o ∨ d.sameGroup c o = true)

/-- R229 to R235: `hinit` of an unpaired descriptor empties it, `hstat` reads it, and a push and a pop that may not pair execute at the
home slice: 0 and the element stored, 2 where it is full, the element taken, or the sentinel; a push releases (R329). One that may pair is
sent, and stops its convoy until its value returns (R427); in an AIB it is sent when that completes. The storage is addressed as the issuing
thread addresses it: at level 2 by its physical address, below it through the tables of its address space. -/
def Obligations.Hampers : Prop :=
  ∀ (s : State) (scope : Scope) (d a b : XReg) (pa : Nat) (leaf : Option Leaf) (st : Nat → Nat),
    s.PlainAt .rmw (s.rx a) 64 pa leaf → s.ctx.stop = none → s.Canonical →
    let cap := memLoad s.dev.mem (pa + 8) 4
    let count := memLoad s.dev.mem (pa + 12) 4
    let slot (i : Nat) : Nat := memLoad s.dev.mem pa 8 + 8 * i
    let sentinel := BitVec.ofNat 64 (memLoad s.dev.mem (pa + 16) 8)
    let flags := memLoad s.dev.mem (pa + 24) 1
    let at_ (pop : Bool) (i : Nat) : Prop := s.dev.hStorage s.hspace (slot i) pop = some (st i) ∧ (st i + 8 ≤ pa ∨ pa + 64 ≤ st i)
    (∀ i pop, s.core.pl = 2 → isMem (slot i) = true → slot i < 2 ^ 56 → (pop = true → poisoned 64 s.dev.poison (slot i) 8 = false) →
      s.dev.hStorage s.hspace (slot i) pop = some (slot i)) ∧
    (∀ i pop x l, s.core.pl ≠ 2 → slot i < 2 ^ 64 →
      lookupVirt s.dev s.hspace.core s.core.pl (if pop then .block else .vecStore) (slot i) = .ok x l → isMem x = true →
      (pop = true → poisoned 64 s.dev.poison x 8 = false) → s.dev.hStorage s.hspace (slot i) pop = some x) ∧
    (s.PlainAt .block (s.rx a) 64 pa leaf →
      exec (.hstat scope d a) s = .next ((s.filled (s.rx a) leaf).wx d (BitVec.ofNat 32 cap ++ BitVec.ofNat 32 count))) ∧
    (s.dev.mayPair pa s.core.part.pid = false →
      (hInvalid s.dev.mem pa = true →
        (∃ t, exec (.hinit scope d a) s = .next t ∧ (d ≠ 0 → t.core.getX d = 2) ∧ SameBytes s t) ∧
        (∃ t, exec (.hpush scope d a b) s = .next t ∧ (d ≠ 0 → t.core.getX d = 3) ∧ t.core.touchedBufs = 0 ∧ SameBytes s t) ∧
        ∃ t, exec (.hpop scope d a) s = .next t ∧ (d ≠ 0 → t.core.getX d = sentinel) ∧ SameBytes s t) ∧
      (hInvalid s.dev.mem pa = false →
        (flags < 2 → ∃ t, exec (.hinit scope d a) s = .next t ∧ (d ≠ 0 → t.core.getX d = 0) ∧
          memLoad t.dev.mem (pa + 12) 4 = 0 ∧ SameBut (fun x => pa + 12 ≤ x ∧ x < pa + 16) s t) ∧
        (cap ≤ count → ∃ t, exec (.hpush scope d a b) s = .next t ∧ (d ≠ 0 → t.core.getX d = 2) ∧ SameBytes s t) ∧
        (count < cap → at_ false count → ∃ t, exec (.hpush scope d a b) s = .next t ∧ (d ≠ 0 → t.core.getX d = 0) ∧
          memLoad t.dev.mem (st count) 8 = (s.rx b).toNat ∧ memLoad t.dev.mem (pa + 12) 4 = count + 1 ∧
          t.core.touched.getLsbD (pa / 4096 % 128) = true ∧ t.core.touched.getLsbD (st count / 4096 % 128) = true ∧
          SameBut (fun x => (st count ≤ x ∧ x < st count + 8) ∨ (pa + 12 ≤ x ∧ x < pa + 16)) s t) ∧
        (count = 0 → ∃ t, exec (.hpop scope d a) s = .next t ∧ (d ≠ 0 → t.core.getX d = sentinel) ∧ SameBytes s t) ∧
        (count ≠ 0 → flags % 2 = 0 → at_ true (count - 1) → ∃ t, exec (.hpop scope d a) s = .next t ∧
          (d ≠ 0 → t.core.getX d = BitVec.ofNat 64 (memLoad s.dev.mem (st (count - 1)) 8)) ∧
          memLoad t.dev.mem (pa + 12) 4 = count - 1 ∧ SameBut (fun x => pa + 12 ≤ x ∧ x < pa + 16) s t) ∧
        (count ≠ 0 → flags % 2 = 1 → (∀ i, i < count → at_ true i) → ∃ t k, k < count ∧ exec (.hpop scope d a) s = .next t ∧
          (d ≠ 0 → t.core.getX d = BitVec.ofNat 64 (memLoad s.dev.mem (st k) 8)) ∧
          memLoad t.dev.mem (pa + 12) 4 = count - 1 ∧
          SameBut (fun x => (st k ≤ x ∧ x < st k + 8) ∨ (pa + 12 ≤ x ∧ x < pa + 16)) s t))) ∧
    (s.dev.mayPair pa s.core.part.pid = true →
      let sends (i : Instr) (v : Option Word) : Prop := ∃ t h, exec i s = .next t ∧
        t.ctx.stop = some { why := .hop h.tag d, dev := t.dev, rest := s.restHere } ∧ t.dev.hops = s.dev.hops ++ [h] ∧
        h.tag = s.dev.nextTag ∧ h.desc = pa ∧ h.push = v ∧ h.core = s.cur ∧ h.lane = none ∧ h.pid = s.core.part.pid ∧
        h.stage = (if s.cur.val / 48 = pa / 4096 % 128 / 32 then 0 else 1) ∧ t.thr = s.thr ∧ SameBytes s t
      sends (.hpush scope d a b) (some (s.rx b)) ∧ sends (.hpop scope d a) none) ∧
    ∀ (q : State) (r : VpRun) (e f g : WReg) (pv : Nat) (lv : Option Leaf), q.ctx.vp = some r → r.hop = none →
      (∀ k, q.thr.transfers.get k = none) →
      let ad := vpDesc q r f
      ad.toNat % 64 = 0 → lookup q.dev q.viewer q.thr.vpLevel .rmw ad = .ok pv lv → isMem pv = true → pv % 64 = 0 →
      (∀ l, lv = some l → l.kind = 0 ∨ l.kind = 4) → poisoned 64 q.dev.poison pv 64 = false →
      let asks (i : Instr) (v : Option Word) : Prop := ∃ h, exec i q = .next ((q.filled ad lv).setRun { r with hop := some h, unk := [e] }) ∧
        h.va = ad ∧ h.desc = pv ∧ h.push = v ∧ h.d = e ∧ h.pre = r.stores.length ∧ h.rest = q.restAfter
      asks (.hpushVp scope e f g) (some ((q.rw r g).setWidth 64)) ∧ asks (.hpopVp scope e f) none


/-! ### The diagonal multiply engine, streams, the copy engine -/

/-- R74, R243, R244, R250, R251, R263 to R265: what sets up the engine, loads its latches and tables, and moves values between slots and
registers. A latch holds the chunks with their swizzle undone; a slot that is claimed reads zero. -/
def Obligations.DmeState : Prop :=
  ∀ (s : State) (ty : Ty) (mode : DForm) (sp : Space) (h hb wa wb uf : Bool) (m : MReg) (d : VReg) (v : VSrc) (k : Slot)
    (a b c : XReg) (n1 : BitVec 7) (imm : BitVec 16), s.VectorReady →
    let clear (l : Latch) : Latch := { l with valid := false, hold := false }
    let mine (n : Nat) : Prop := ∀ i, k.val ≤ i → i < k.val + n → s.Mine i
    let fills (i : Instr) (n : Nat) (f : Nat → Nat → Nat) : Prop := ∃ t, exec i s = .next t ∧ t.thr = s.thr ∧ SameBytes s t ∧
      ∀ j, j < 512 → if k.val ≤ j ∧ j < k.val + n then (t.core.slot j).owner = some s.thr.lnch ∧
          ∀ e, e < 128 → elemGet (t.core.slot j).vals 32 e = f (j - k.val) e
        else t.core.slot j = s.core.slot j
    let nv := (s.vl + 127) / 128
    (let n := (s.rx a).toNat
     1 ≤ n → n ≤ (match mode with | .elem => 65536 / s.thr.ew.bits | .pack => 128) → exec (.msetdl mode a) s = .next (s.finish 1
       { s.thr with dmode := some mode, dl := n, latchA := clear s.thr.latchA, latchB := clear s.thr.latchB })) ∧
    (s.thr.latchA.reload = false → s.thr.latchB.reload = false → exec (.dhold h hb wa wb) s = .next (s.finish 1 { s.thr with
      latchA := if wa && s.thr.latchA.valid then { s.thr.latchA with hold := h } else s.thr.latchA
      latchB := if wb && s.thr.latchB.valid then { s.thr.latchB with hold := hb } else s.thr.latchB })) ∧
    exec (.dsetfill a) s = .next (s.finish 1 { s.thr with fill := (s.rx a).setWidth 32 }) ∧
    (∀ place : Nat → Local, let lay := s.rx b
      layOk lay = true → layTy lay ≠ .q4 → c = 0 → (∀ e, e < layPositions lay → s.PlainLocal sp (chunkAddr (s.rx a) lay e) 128 (place e) ∧
        (s.dev.cores.get (place e).core).abPoison = [] ∧ (s.dev.cores.get (place e).core).wbPoison = [] ∧
        ∀ u, u < 8 → (s.dev.cores.get (place e).core).stamp (place e).wb (swz ((place e).off + 16 * u) (laySpan lay).toNat)
          = laySpan lay) →
      ∃ l : Latch, exec (.dlda sp h a b c) s = .next (s.finish 1 { s.thr with latchA := l }) ∧
        exec (.dldb sp h a b c) s = .next (s.finish 1 { s.thr with latchB := l }) ∧ l.valid = true ∧ l.hold = h ∧ l.ty = layTy lay ∧
        ∀ e u j, e < layPositions lay → u < 8 → j < 16 → elemGet l.pos 8 (128 * e + 16 * u + j) =
          (memRead ((s.dev.cores.get (place e).core).buf (place e).wb) (swz ((place e).off + 16 * u) (laySpan lay).toNat + j)).toNat) ∧
    (let n := if c = 0 then (s.thr.dl + 127) / 128 else (s.rx c).toNat
     (c ≠ 0 ∨ s.thr.dmode ≠ none) → 1 ≤ n → k.val + n ≤ 512 → mine n → fills (.dzero k c) n fun _ _ => 0) ∧
    (k.val + n1.toNat + 1 ≤ 512 → mine (n1.toNat + 1) →
      fills (.dmovi ty k n1 imm) (n1.toNat + 1) fun _ _ => immArith ty imm % 2 ^ 32) ∧
    (∀ l, s.PlainLocal .ab (s.rx a) 128 l →
      (∀ i, i < 128 → 1 ≤ (memRead (s.dev.cores.get l.core).ab (l.off + i)).toNat ∧
        (memRead (s.dev.cores.get l.core).ab (l.off + i)).toNat ≤ 16) →
      exec (.dbudget a) s = .next (s.finish 1 { s.thr with
        budget := Vector.ofFn fun i : Fin 128 => (memRead (s.dev.cores.get l.core).ab (l.off + i.val)).toNat })) ∧
    (∀ place : Nat → Local, let n := (s.rx b).toNat
      let dst := (s.rx c).toNat
      n % 128 = 0 → 128 ≤ n → dst % 128 = 0 → dst + n ≤ 65536 →
      (∀ i, i < n / 128 → s.PlainLocal sp (s.rx a + BitVec.ofNat 64 (128 * i)) 128 (place i)) →
      ∃ bs : List Byte, exec (.dmeta sp a b c) s =
          .next ((s.setCore { s.core with dmeta := s.core.dmeta ++ [{ src := bs, off := dst }] }).finish 1 s.thr) ∧ bs.length = n ∧
        ∀ i j, i < n / 128 → j < 128 →
          bs.getD (128 * i + j) 0 = memRead ((s.dev.cores.get (place i).core).buf (place i).wb) ((place i).off + j)) ∧
    (s.srcCore.thr.ew.bits = ty.bits → k.val + nv ≤ 512 → mine nv →
      (∃ t, exec (.dmovV ty d k false c) s = .next t ∧ SameBytes s t ∧ Elements s ty 0 d (fun e => s.cell k.val e) (t.thr.v.get d)) ∧
      ∃ t, exec (.dcvt ty uf d k false c) s = .next t ∧ SameBytes s t ∧
        Elements s ty 0 d (fun e => convBits s.num .ctl e ty (if uf then .f32 else .s32) (s.cell k.val e)) (t.thr.v.get d)) ∧
    (let n := s.thr.mn.toNat
     let i := (s.rx c).toNat
     s.srcCore.thr.ew.bits = ty.bits → k.val + n ≤ 512 → mine n → i < n → s.vl ≤ n → n ≤ 128 →
       let at_ (e : Nat) : Nat := s.cell k.val (128 * ((e + n - i) % n) + i)
       (∃ t, exec (.dmovV ty d k true c) s = .next t ∧ SameBytes s t ∧ Elements s ty 0 d at_ (t.thr.v.get d)) ∧
       ∃ t, exec (.dcvt ty uf d k true c) s = .next t ∧ SameBytes s t ∧
         Elements s ty 0 d (fun e => convBits s.num .ctl e ty (if uf then .f32 else .s32) (at_ e)) (t.thr.v.get d)) ∧
    (((s.rv v.reg).ty = .s32 ∨ (s.rv v.reg).ty = .z32 ∨ (s.rv v.reg).ty = .f32) → s.srcCore.thr.ew.bits = 32 → k.val + nv ≤ 512 →
      mine nv → ∃ t, exec (.dmovA m k v) s = .next t ∧ t.thr = s.thr ∧ SameBytes s t ∧ ∀ e, e < 128 * nv →
        t.cell k.val e = if e < s.vl ∧ s.srcCore.thr.maskBit m e = true then (s.rv v.reg).elem .z32 e else s.cell k.val e)

/-- R242, R247, R248, R252 to R255, R262: the diagonal products, elemental from registers and packed from the latches, which they consume
unless held; triangular, sparse and cyclic forms. -/
def Obligations.DmeProducts : Prop :=
  ∀ (s : State) (ty : Ty) (k : Slot) (a b : VSrc) (c : XReg) (p q : BitVec 8) (mo : BitVec 7) (tri sp : Bool),
    let x := s.rx c
    let reg (tri sparse sweep : Bool) : Mac :=
      { k := k.val, p := (x.extractLsb' 0 16).toInt, q := (x.extractLsb' 16 16).toInt, t := (x.extractLsb' 32 16).toInt
        off := (x.extractLsb' 48 16).toNat, sparse := sparse, tri := tri, sweep := sweep }
    let imm (off : Nat) (sparse : Bool) : Mac := { k := k.val, p := p.toInt, q := q.toInt, off := off, sparse := sparse }
    let dot (i j : Nat) : DVal :=
      (dval s.num ty 0 ((s.rv a.reg).elem ty i)).mul (dval s.num ty 0 ((s.rv b.reg).elem ty j))
    let elem (i : Instr) (m : Mac) : Prop := s.MacReady m .elem → Multiplies s i m dot id
    let la := s.thr.latchA
    let lb := s.thr.latchB
    let chunk (m : Mac) (i j : Nat) : DVal := dotOf (rdnFor s.num .ctl .f32)
      (la.values s.num i (if m.sparse then denseVals la s.core.md m.off i else la.vals i)) (lb.values s.num j (lb.vals j))
    let used (l : Latch) : Latch := if l.hold = true then l else { l with valid := false }
    let pack (i : Instr) (m : Mac) : Prop := s.MacReady m .pack →
      Multiplies s i m (chunk m) fun t => { t with latchA := used la, latchB := used lb }
    (s.srcCore.thr.ew.bits = ty.bits → (s.rv a.reg).ty = ty → (s.rv a.reg).span = 0 → (s.rv b.reg).ty = ty → (s.rv b.reg).span = 0 →
      elem (.dmacV ty k a b c) (reg false false false) ∧ elem (.dmacTriV ty k a b c) (reg true false false) ∧
      elem (.dmacVI ty k a b p q) (imm 0 false)) ∧
    (la.valid = true → lb.valid = true → la.reload = false → lb.reload = false → la.ty = ty → lb.ty = ty → s.core.dmeta = [] →
      pack (.dmacL ty k c) (reg false false false) ∧ pack (.dmacTriL ty k c) (reg true false false) ∧
      pack (.dmacs ty k c) (reg false true false) ∧ pack (.dsweep ty k tri sp c) (reg tri sp true) ∧
      pack (.dmacLI ty k p q) (imm 0 false) ∧ pack (.dmacsI ty k mo p q) (imm (512 * mo.toNat) true))

/-- R267 to R283, R285, R286: streams opened, delivered, asked, moved and closed, of every kind, in every space and at every level: an affine or
an indirect stream by its elements, a fibre by the coordinates that its encoding gives (Table 11.4), up to an offending one; the coordinate
engine opened, run on two fibres with one coordinate left each, split, claimed, asked, saved and loaded. (A stream keeps the level that opened
it, `lvl`, a field of the model's own; LAST after a seek over a coordinate outside 0 to 2^32 − 1 is the model's: log entry 101.) -/
def Obligations.Streams : Prop :=
  ∀ (s : State) (ty : Ty) (sp isp vsp : Space) (enc : FibEnc) (iw16 union tol : Bool) (j k : SReg) (d q : VReg) (va vb vc : VReg) (m : MReg)
    (a b c x : XReg) (sel : BitVec 3) (scope : Scope) (val idx : Nat → Nat) (n : Nat) (w : Nat → Stream) (nx : Nat → Next) (na nb : Next)
    (pa pb : Nat) (leaf : Option Leaf), s.VectorReady →
    let st := s.thr.stream j
    let opens (i : Instr) (n : Stream) : Prop := st.bnd = false → exec i s = .next (s.finish 1 (s.thr.setStream j { n with lvl := s.core.pl }))
    let left := st.count - st.pos.toNat
    let listed : Prop := (st.kind = 1 ∨ st.kind = 2) ∧ st.bnd = false
    let fibre : Prop := st.kind = 3 ∧ st.bnd = false
    let e := s.thr.cde
    let p := s.thr.pair
    let oneLeft (f : Stream) (n : Next) : Prop := f.kind = 3 ∧ f.lv = false ∧ s.Peeks f (some n) ∧ 0 ≤ n.c ∧ n.c < 2 ^ 32 ∧
      s.Peeks (f.consume n) none
    let fills (v : VecReg) (t : Ty) (d : VReg) (n : Nat) (f : Nat → Nat) : Prop := v.ty = t ∧ v.span = 0 ∧ ∀ i, (i + 1) * t.bits ≤ 65536 →
      v.elem t i = if i < n then f i % 2 ^ t.bits else (s.thr.v.get d).elem t i
    let good : Prop := w 0 = st ∧ s.Walk n w nx ∧ n ≤ s.vl ∧ ∀ i, i < n → (w i).offending (nx i) = none
    let bad (f : Stream) (code : BitVec 8) : Prop := ∃ y, s.Peeks f (some y) ∧ f.offending y = some code
    ((s.rx b).toNat < 2 ^ 32 → (s.rx a).toNat % ty.size = 0 →
      opens (.sopenAff ty sp j a b c) { kind := 1, opa := s.rx a, opb := s.rx b, opc := s.rx c, ty := ty, spa := sp }) ∧
    ((s.rx c).toNat < 2 ^ 32 → (s.rx a).toNat % ty.size = 0 → (s.rx b).toNat % (if iw16 then 2 else 4) = 0 →
      opens (.sopenInd ty vsp isp iw16 j a b c)
        { kind := 2, opa := s.rx a, opb := s.rx b, opc := s.rx c, ty := ty, spa := vsp, spb := isp, iw16 := iw16 }) ∧
    ((s.rx b).toNat < 2 ^ 32 → (s.rx a).toNat % (match enc with | .idx16 => 2 | .delta8 => 1 | _ => 4) = 0 →
      (c ≠ 0 → (s.rx c).toNat % ty.size = 0) → opens (.sopenFib ty isp vsp enc j a b c)
        { kind := 3, opa := s.rx a, opb := s.rx b, opc := s.rx c, enc := enc, ty := ty, spa := isp, spb := vsp, vb := c != 0 }) ∧
    (st.bnd = false → exec (.sclose j) s = .next (s.finish 1 (s.thr.setStream j {}))) ∧
    (listed → s.srcCore.thr.ew.bits = st.ty.bits → 8 * st.ty.size = st.ty.bits →
      let n := min s.vl left
      let pos (i : Nat) : Nat := st.pos.toNat + i
      (st.kind = 1 → ∀ i, i < n → s.Reads st.spa (st.opa + BitVec.ofNat 64 (pos i) * st.opc) st.ty.size (val i)) →
      (st.kind = 2 → let u := if st.iw16 = true then 2 else 4
        ∀ i, i < n → s.Reads st.spb (st.opb + BitVec.ofNat 64 (u * pos i)) u (idx i) ∧
          s.Reads st.spa (st.opa + BitVec.ofNat 64 (st.ty.size * idx i)) st.ty.size (val i)) →
      ∃ v, exec (.snext d none j x) s = .next ((s.finish (groupsOf s.vl st.ty.bits)
          ((s.thr.setV d v).setStream j { st with pos := st.pos + BitVec.ofNat 32 n })).wx x (BitVec.ofNat 64 n)) ∧ fills v st.ty d n val) ∧
    (listed → (∃ t, exec (.sdone x m j) s = .next t ∧ (x ≠ 0 → t.core.getX x = if left = 0 then 1 else 0) ∧ SameBytes s t ∧
        t.thr.streams = s.thr.streams ∧ (m ≠ 0 → ∀ i, i < 8192 → (t.thr.m.get m).getLsbD i =
          if i < s.vl then decide (left < i + 1) else (s.thr.m.get m).getLsbD i)) ∧
      exec (.sseek false j b) s = .next (s.finish 1 (s.thr.setStream j { st with
        pos := BitVec.ofNat 32 (min (s.rx b).toNat st.count) })) ∧
      exec (.sseek true j b) s = .next (s.trap cOperand s.ctx.word)) ∧
    (∀ f : Stream, f.opb.toNat < 2 ^ 32 →
      let u := f.unit.toNat
      let at_ (o : Nat) : Word := f.opa + BitVec.ofNat 64 o
      let index (z : Nat) : Prop := (f.opb.toNat ≤ u → s.Peeks f none) ∧
        ∀ y, u < f.opb.toNat → s.Reads f.spa (at_ (z * u)) z y → s.Peeks f (some ⟨y, u + 1, 0⟩)
      (f.enc = .idx16 → index 2) ∧ (f.enc = .idx32 → index 4) ∧
      (f.enc = .delta8 → (f.opb.toNat ≤ f.pos.toNat → s.Peeks f none) ∧ ∀ y, f.pos.toNat < f.opb.toNat → s.Reads f.spa (at_ u) 1 y →
        (y ≠ 255 → s.Peeks f (some ⟨(if f.lv = true then (f.last.toNat : Int) else -1) + y, u + 1, 0⟩)) ∧
        (y = 255 → (∀ i, i < 4 → s.Reads f.spa (f.opa + BitVec.ofNat 64 u + 1 + BitVec.ofNat 64 i) 1 (val i)) →
          s.Peeks f (some ⟨(val 0 + 256 * val 1 + 65536 * val 2 + 16777216 * val 3 : Nat), u + 5, 0⟩))) ∧
      (f.enc = .bmp ∨ f.enc = .run → f.opb.toNat ≤ u → s.Peeks f none) ∧
      (f.enc = .bmp → ∀ y, u < f.opb.toNat → f.sub.toNat ≤ 512 → s.Reads f.spa (at_ (68 * u)) 4 y →
        (∀ i, i < 16 → s.Reads f.spa (at_ (68 * u) + BitVec.ofNat 64 (4 + 4 * i)) 4 (val i)) →
        let bit (k : Nat) : Prop := val (k / 32) / 2 ^ (k % 32) % 2 = 1
        (∀ k, f.sub.toNat ≤ k → k < 512 → bit k → (∀ i, f.sub.toNat ≤ i → i < k → ¬ bit i) → s.Peeks f (some ⟨y + k, u, k + 1⟩)) ∧
        ((∀ k, f.sub.toNat ≤ k → k < 512 → ¬ bit k) → ∀ o, s.Peeks { f with unit := f.unit + 1, sub := 0 } o → s.Peeks f o)) ∧
      (f.enc = .run → ∀ y z, u < f.opb.toNat → s.Reads f.spa (at_ (8 * u)) 4 y → s.Reads f.spa (at_ (8 * u) + 4) 4 z →
        (f.sub.toNat < z → s.Peeks f (some ⟨y + f.sub.toNat, u, f.sub.toNat + 1⟩)) ∧
        (z ≤ f.sub.toNat → ∀ o, s.Peeks { f with unit := f.unit + 1, sub := 0 } o → s.Peeks f o))) ∧
    (fibre → good →
      (n = s.vl ∨ s.Peeks (w n) none ∨ (0 < n ∧ ∃ code, bad (w n) code) →
        (s.srcCore.thr.ew.bits = 32 → ∃ v, exec (.snext d none j x) s = .next ((s.finish (groupsOf s.vl 32)
          ((s.thr.setV d v).setStream j (w n))).wx x (BitVec.ofNat 64 n)) ∧ fills v .z32 d n fun i => (nx i).c.toNat) ∧
        (s.srcCore.thr.ew.bits = max 32 st.ty.bits → st.vb = true → d ≠ q → 8 * st.ty.size = st.ty.bits →
          (∀ i, i < n → s.Reads st.spb (st.opc + BitVec.ofNat 64 (st.ty.size * (w i).pos.toNat)) st.ty.size (val i)) →
          ∃ v u, exec (.snext d (some q) j x) s = .next ((s.finish (groupsOf s.vl (max 32 st.ty.bits))
            (((s.thr.setV d v).setV q u).setStream j (w n))).wx x (BitVec.ofNat 64 n)) ∧ fills v .z32 d n (fun i => (nx i).c.toNat) ∧
            fills u st.ty q n val)) ∧
      (n = s.vl ∨ s.Peeks (w n) none ∨ (∃ code, bad (w n) code) → ∀ o, s.Peeks st o →
        ∃ t, exec (.sdone x m j) s = .next t ∧ (x ≠ 0 → t.core.getX x = if o = none then 1 else 0) ∧ SameBytes s t ∧
          t.thr.streams = s.thr.streams ∧ (m ≠ 0 → ∀ i, i < 8192 → (t.thr.m.get m).getLsbD i =
            if i < s.vl then decide (n < i + 1) else (s.thr.m.get m).getLsbD i))) ∧
    (fibre → s.srcCore.thr.ew.bits = 32 → 0 < s.vl → ∀ code, bad st code →
      exec (.snext d none j x) s = .next (s.trap code (0#32 ++ st.pos))) ∧
    (fibre → w 0 = st.rewind → s.Walk n w nx → n < 2 ^ 66 →
      let moves (coord : Bool) (f : Stream) : Prop := exec (.sseek coord j b) s = .next (s.finish 1 (s.thr.setStream j f))
      let tgt := (s.rx b).toNat
      ((∀ i, i < n → (w i).offending (nx i) = none ∧ (nx i).c < (tgt % 2 ^ 32 : Nat)) →
        (s.Peeks (w n) none ∨ (∃ code, bad (w n) code) ∨ ∃ y, s.Peeks (w n) (some y) ∧ ((tgt % 2 ^ 32 : Nat) : Int) ≤ y.c) →
        moves true (w n)) ∧
      (st.enc ≠ .idx16 → st.enc ≠ .idx32 → n = tgt ∨ (n < tgt ∧ s.Peeks (w n) none) → moves false (w n))) ∧
    (fibre → st.enc = .idx16 ∨ st.enc = .idx32 → st.opb.toNat < 2 ^ 32 →
      let z := if st.enc = .idx16 then 2 else 4
      let tgt := min (s.rx b).toNat st.opb.toNat
      let moves (f : Stream) : Prop := exec (.sseek false j b) s = .next (s.finish 1 (s.thr.setStream j f))
      (tgt = 0 → moves st.rewind) ∧ ∀ y, 0 < tgt → s.Reads st.spa (st.opa + BitVec.ofNat 64 (z * (tgt - 1))) z y →
        moves { st with pos := BitVec.ofNat 32 tgt, unit := BitVec.ofNat 32 tgt, sub := 0, last := BitVec.ofNat 32 y, lv := true }) ∧
    (st.kind = 3 → (s.thr.stream k).kind = 3 → j ≠ k → e.bound = false → ∃ t, exec (.cxopen union tol j k) s = .next t ∧
      t.thr.cde = { bound := true, union := union, tol := tol, sa := j, sb := k } ∧ (t.thr.stream j).bnd = true ∧
      (t.thr.stream k).bnd = true ∧ SameBytes s t) ∧
    (e.bound = true → s.srcCore.thr.ew.bits = 32 → s.thr.ew = .w32 → e.tol = false → e.t = 0 → e.claimed = false → e.pending = false →
      e.union = false → e.sa ≠ e.sb → oneLeft p.a na → oneLeft p.b nb → 0 < s.vl → va ≠ vb → vb ≠ vc → va ≠ vc →
      ∃ t, exec (.cxnext x vc va vb) s = .next t ∧ SameBytes s t ∧
        (na.c = nb.c → t.thr.vl = 1 ∧ (x ≠ 0 → t.core.getX x = 1) ∧ (t.thr.v.get vc).elem .z32 0 = na.c.toNat ∧
          (t.thr.v.get va).elem .z32 0 = p.a.pos.toNat ∧ (t.thr.v.get vb).elem .z32 0 = p.b.pos.toNat ∧
          t.thr.cde.emitted = e.emitted + 1) ∧
        (na.c ≠ nb.c → t.thr.vl = 0 ∧ (x ≠ 0 → t.core.getX x = 0) ∧ t.thr.cde.emitted = e.emitted)) ∧
    (e.bound = true → (s.rx a).toNat < 2 ^ 32 → (s.rx a = 0 ∨ e.tol = false) → exec (.cxsplit a) s = .next (s.finish 1
      { s.thr with cde := { e with t := (s.rx a).setWidth 32, claimed := false, pending := false, seg := 0 } })) ∧
    (e.bound = true → e.t ≠ 0 → s.PlainAt .rmw (s.rx a) 16 pa leaf → s.Canonical →
      let seg := memLoad s.dev.mem (pa + 4) 4
      seg < memLoad s.dev.mem pa 4 → memLoad s.dev.mem (pa + 8) 4 = e.t.toNat → memLoad s.dev.mem (pa + 12) 4 = 0 →
        ∃ t, exec (.cxclaim scope x a) s = .next t ∧ (x ≠ 0 → t.core.getX x = BitVec.ofNat 64 seg) ∧
          memLoad t.dev.mem (pa + 4) 4 = seg + 1 ∧ SameBut (fun y => pa + 4 ≤ y ∧ y < pa + 8) s t ∧
          t.thr.cde = { e with claimed := true, pending := true, seg := BitVec.ofNat 32 seg }) ∧
    (let val : Half := if e.bound = false then 0 else match sel.toNat with
       | 0 => e.emitted
       | 1 => e.dupa
       | 2 => e.dupb
       | 3 => p.a.pos
       | 4 => p.b.pos
       | 5 => if e.claimed then e.seg else if e.t = 0 then 0 else p.a.pos / e.t
       | 6 => e.t
       | _ => BitVec.ofBool e.pending ++ BitVec.ofBool e.claimed ++ BitVec.ofBool e.tol ++ BitVec.ofBool e.union ++ 1#1 |>.setWidth 32
     exec (.cxstat x sel) s = .next ((s.finish 1 s.thr).wx x (val.setWidth 64))) ∧
    (s.PlainElem .vecStore (s.rx a) 64 pa → s.PlainElem .vecStore (s.rx a + 64) 64 pb → pa ≠ pb → s.Canonical → e.bound = true →
      let img := (s.atNext p.a).image ++ (s.atNext p.b).image ++ e.image
      ∃ t, exec (.cxsave .glob a) s = .next t ∧ t.thr = { s.thr with watches := t.thr.watches } ∧
        memBytes t.dev.mem pa 64 = img.take 64 ∧ memBytes t.dev.mem pb 64 = img.drop 64 ∧
        SameBut (fun y => (pa ≤ y ∧ y < pa + 64) ∨ (pb ≤ y ∧ y < pb + 64)) s t) ∧
    (s.PlainElem .load (s.rx a) 64 pa → s.PlainElem .load (s.rx a + 64) 64 pb →
      (s.core.pl = 0 → ∀ i, i < 64 → linkStalls s.thr ((s.rx a).toNat + i) 1 = false ∧ linkStalls s.thr ((s.rx a + 64).toNat + i) 1 = false) →
      let bs := memBytes s.dev.mem pa 64 ++ memBytes s.dev.mem pb 64
      engineImageOk bs = true → e.bound = false → exec (.cxload .glob a) s = .next (s.finish 1
        (s.thr.setPair { e := cdeOf (bs.drop 96), a := { streamOf bs with lvl := s.core.pl },
                         b := { streamOf (bs.drop 48) with lvl := s.core.pl } })))


/-! ### The copy engine -/

/-- R312 to R320, R298 to R301: shadow registers keep what `cpset` writes, but for RSV bits; `cplaunch` gives the id of the transfer it
starts, or the reason that refuses it; `cpwait` and `cpwm` give the status and the watermark, or leave the convoy waiting; `cpcancel`
ends a transfer; `cparm` arms the arrival word and binds it; `cpexport` writes the metadata of a compressed page. R295, R300, R311, R459
to R461: an element of a plain transfer between buffers is moved and the transfer advances, or is complete with its last; a served spill
is replayed; a transfer with nothing left, or whose last element is acknowledged, is complete; an element another device wrote is in
memory. The model's choices: what `cpexport` finds at level 2 (log entry 56), the order in which transfers advance (log entry 29), and the
places a transfer keeps count of (log entry 50). -/
def Obligations.CopyEngine : Prop :=
  (∀ (s : State) (d a b : XReg) (k : Chan) (reg : BitVec 5) (sp : Space), s.Control →
     let x := s.rx a
     let y := s.rx b
     let r := reg.toNat
     let done (v : Word) : State := (s.setCore { s.core with wait := none }).wx d v
     let waits (c : WaitCond) : State := s.stopAt (.wait c) s.restHere
     let code : Word := match sp with | .glob => 0 | .ab => 1 | .wb => 2
     (2 ≤ r → r ≤ 28 → exec (.cpset k reg sp a) s = .next (s.setThr (s.thr.setShadow k r (x &&& shadowMask r)))) ∧
     (r < 2 → x.extractLsb' 57 7 = 0 → exec (.cpset k reg sp a) s = .next (s.setThr (s.thr.setShadow k r (x ||| (code <<< 57))))) ∧
     (r < 2 → x.extractLsb' 57 7 ≠ 0 → exec (.cpset k reg sp a) s = .next (s.trap cOperand s.ctx.word)) ∧
     (r ≤ 28 → exec (.cpget d k reg) s = .next (s.wx d ((s.thr.shadow.get k).get (Fin.ofNat 29 r)))) ∧
     ((s.thr.transfers.get k).isSome = true → exec (.cplaunch d k) s = .next (s.wx d 0xFFFFFFFFFFFFFF03)) ∧
     (∀ reason, launchRefusal s.dev s.cur s.thr k = some reason →
       reason ∈ [1, 2, 3, 4, 5, 6] ∧ exec (.cplaunch d k) s = .next (s.wx d (0xFFFFFFFFFFFFFF00 ||| BitVec.ofNat 64 reason))) ∧
     (launchRefusal s.dev s.cur s.thr k = none → s.dev.duty.getLsbD 4 = false →
       let q := BitVec.ofNat 24 ((s.thr.seqNo.get k).toNat % (2 ^ 24 - 1) + 1)
       ∃ t, exec (.cplaunch d k) s = .next t ∧ (d ≠ 0 → t.core.getX d = 0#36 ++ BitVec.ofNat 4 k.val ++ q) ∧ t.thr.seqNo.get k = q ∧
         SameBytes s t ∧ t.thr.v = s.thr.v ∧
         (totalOf (s.thr.shadow.get k) = 0 → t.thr.transfers.get k = none ∧ t.thr.cpStatus.get k = 0) ∧
         (totalOf (s.thr.shadow.get k) ≠ 0 → ∃ f, t.thr.transfers.get k = some f ∧ f.regs = s.thr.shadow.get k ∧ f.q = q ∧
           f.total = totalOf (s.thr.shadow.get k) ∧ f.cursor = 0 ∧ f.nctl = s.thr.nctl ∧ f.seed = s.thr.srseed)) ∧
     (let q := x.extractLsb' 0 24
      let c : Chan := Fin.ofNat 16 (x.extractLsb' 24 4).toNat
      (x.extractLsb' 28 36 ≠ 0 ∨ q = 0 → exec (.cpwait d a) s = .next (s.trap cOperand s.ctx.word)) ∧
      (x.extractLsb' 28 36 = 0 → q ≠ 0 → exec (.cpwait d a) s =
        .next (if q ≠ s.thr.seqNo.get c then done 3
          else if (s.thr.transfers.get c).isSome = true then waits (.copy c q) else done ((s.thr.cpStatus.get c).setWidth 64)))) ∧
     exec (.cpwm d k a) s =
       .next (if x.toNat ≤ (s.thr.wm.get k).toNat ∨ s.thr.transfers.get k = none then done (s.thr.wm.get k) else waits (.mark k x)) ∧
     (s.thr.transfers.get k = none → exec (.cpcancel k) s = .next s) ∧
     (s.thr.transfers.get k ≠ none → ∃ t, exec (.cpcancel k) s = .next t ∧ t.thr.transfers.get k = none ∧ t.thr.cpStatus.get k = 1 ∧
       t.thr.wm = s.thr.wm ∧ (∀ j, j ≠ k → t.thr.transfers.get j = s.thr.transfers.get j) ∧ t.thr.x = s.thr.x ∧ SameBytes s t) ∧
     (∀ l, s.PlainLocal .ab x 16 l → s.Canonical → ∃ t, exec (.cparm d k a b) s = .next t ∧
       (d ≠ 0 → t.core.getX d = BitVec.ofNat 64 (memLoad (s.dev.cores.get l.core).ab (l.off + 8) 4)) ∧
       (t.thr.shadow.get k).get 28 = (x &&& 0xFFFFFF0) ||| 1 ∧
       memLoad (t.dev.cores.get l.core).ab l.off 4 = y.toNat % 2 ^ 32 ∧ memLoad (t.dev.cores.get l.core).ab (l.off + 4) 4 = 0 ∧
       t.dev.mem = s.dev.mem ∧
       ∀ z, (z < l.off ∨ l.off + 8 ≤ z) → memRead (t.dev.cores.get l.core).ab z = memRead (s.dev.cores.get l.core).ab z) ∧
     (s.core.pl = 2 → s.dev.dstate ≠ 0 → x.toNat % 4096 = 0 → y.toNat % 16 = 0 →
       (isMem x.toNat = true ∨ isDevReg x.toNat = true ∨ isRemote x.toNat = true) → exec (.cpexport d a b) s = .next (s.wx d 1)) ∧
     (∀ pa lf s1, s.core.pl = 1 → s.dev.dstate ≠ 0 → x.toNat % 4096 = 0 → y.toNat % 16 = 0 →
       s.translate (exportAcc s x) x none = .ok ⟨pa, some lf⟩ s1 → lf.kind ≠ 1 → exec (.cpexport d a b) s = .next (s1.wx d 1)) ∧
     ∀ pa lf s1 s2, s.core.pl = 1 → s.dev.dstate ≠ 0 → x.toNat % 4096 = 0 → y.toNat % 16 = 0 →
       s.translate .cpeSrc x none = .ok ⟨pa, some lf⟩ s1 → lf.kind = 1 →
       let m := lf.d2.toNat + 16 * ((x.toNat - lf.vbase) / 4096)
       poisoned 64 s1.dev.poison m 16 = false → s1.writeBytes .glob .vecStore y (memBytes s1.dev.mem m 16) none = .ok () s2 →
       exec (.cpexport d a b) s = .next (s2.wx d 0)) ∧
  (∀ (s : State) (k : Chan) (f : Transfer), s.thr.transfers.get k = some f → s.Canonical →
     let ends (t : State) : Prop := t.thr.transfers.get k = none ∧ t.thr.cpStatus.get k = 0
     (∀ ls ld, (∀ j, j ≠ k → s.thr.transfers.get j = none) → s.core.late = [] → f.waits = false → f.failing = false → f.paused = false →
       f.spilled = [] → f.held = [] →
       f.unacked = [] → f.cursor < f.total → xfCvt f.regs = false → senOf f.regs = false → denOf f.regs = false →
       syncOn f.regs = false → swzSpan f.regs = 0 → srcSpace f.regs ≠ .glob → dstSpace f.regs ≠ .glob →
       s.dev.locate s.cur (srcSpace f.regs) (srcAt f.regs f.cursor) (esOf f.regs) = some ls →
       s.dev.locate s.cur (dstSpace f.regs) (dstAt f.regs f.cursor) (esOf f.regs) = some ld →
       s.dev.localPoisoned ls (esOf f.regs) = false →
       ∃ t, exec (.copyElement k) s = .next t ∧ t.dev.localBytes ld (esOf f.regs) = s.dev.localBytes ls (esOf f.regs) ∧
         t.dev.mem = s.dev.mem ∧ t.thr.x = s.thr.x ∧ t.thr.v = s.thr.v ∧
         (f.cursor + 1 < f.total → ∃ st, t.thr.transfers.get k = some { f with cursor := f.cursor + 1, stamped := st }) ∧
         (f.cursor + 1 = f.total → ends t)) ∧
     (∀ n w ph va, f.served = true → f.waits = false → f.failing = false → s.dev.duty.getLsbD 2 = false → s.dev.duty.getLsbD 4 = false →
       f.spilled = [(n, w)] → f.held = [] → f.unacked = [] →
       f.total ≤ f.cursor → syncOn f.regs = false → dstSpace f.regs = .glob →
       f.look s.dev s.cur .glob .cpeDst (dstAt f.regs n) (edOf f.regs) = .ok (.glob ph va) →
       ∃ t, exec (.spillReplay k) s = .next t ∧ memBytes t.dev.mem ph.pa w.bytes.length = w.bytes ∧ ends t) ∧
     (f.pending = [] → f.failing = false → ∃ t, exec (.transferComplete k) s = .next t ∧ ends t ∧
       t.thr.wm.get k = BitVec.ofNat 64 (wmHigh f.regs f.dstH) ∧ SameBytes s t) ∧
     (∀ n, f.unacked = [n] → (n.2 = false → s.dev.portUp ≠ 0) → f.failing = false → f.total ≤ f.cursor → f.held = [] → f.spilled = [] →
       syncOn f.regs = false →
       ∃ t, exec (.remoteAcknowledge k) s = .next t ∧ ends t ∧ SameBytes s t) ∧
     ∀ (addr : Nat) (data : List Byte), plainMem addr data.length = true → s.dev.portUp ≠ 0 → ∃ t, exec (.remoteElementApply addr data) s = .next t ∧
       (∀ i, i < data.length → memRead t.dev.mem (addr + i) = data.getD i 0) ∧
       SameBut (fun z => addr ≤ z ∧ z < addr + data.length) s t)


/-! ### System -/

/-- R376, R379 to R385, R418, R422, R423: `tlbinv` removes the entries its kind names, of the core or of its partition, and no other;
`dspill` and `dfill` move a slot and its owner to and from a record of 520 bytes; the tags of the weight buffer; `idle` waits for an
interrupt, and its convoy commits before one that is pending; `pmode` changes the state, and takes the partition map on entering state 0; `qpost`
posts a slot or says why not; `errlog` writes
a record of the log; `dutyset` gives the old duties. -/
def Obligations.System : Prop :=
  ∀ (s : State) (d a b : XReg) (k : Slot) (kind : TlbKind) (g : Bool), s.Control → 1 ≤ s.core.pl.toNat →
    let x := s.rx a
    let y := s.rx b
    let done : State := s.setCore { s.core with wait := none }
    (y.extractLsb' 16 48 = 0 →
      let covers (e : TlbEntry) : Prop :=
        let here := x.toNat / 2 ^ levelShift e.leaf.lvl * 2 ^ levelShift e.leaf.lvl = e.leaf.va
        let mine := e.asid = y.setWidth 16
        match kind with
        | .all => True
        | .asid => e.leaf.g = false ∧ mine
        | .page => here ∧ (e.leaf.g = true ∨ mine)
        | .gpage => here
      ∃ t, exec (.tlbinv kind g a b) s = .next t ∧ SameBytes s t ∧ t.core.touched = 0 ∧ t.core.touchedBufs = 0 ∧ t.thr = s.thr ∧ ∀ (c : CoreNo) e,
        e ∈ (t.dev.cores.get c).tlb ↔ e ∈ (s.dev.cores.get c).tlb ∧
          ¬ ((c = s.cur ∨ (g = true ∧ (s.dev.cores.get c).part.pid = s.core.part.pid)) ∧ covers e)) ∧
    (∀ p : Nat → Nat, s.thr.threadMode = false → s.Canonical →
      let old := s.core.slot k.val
      let m := s.dev.mem
      let owner : Option Half := if memLoad m (p 64 + 4) 1 % 2 = 1 then some (BitVec.ofNat 32 (memLoad m (p 64) 4)) else none
      ((∀ i, i < 65 → s.PlainElem .vecStore (x + BitVec.ofNat 64 (8 * i)) 8 (p i)) → (∀ i j, i < j → j < 65 → p i ≠ p j) →
        ∃ t, exec (.dspill k a) s = .next t ∧ (t.core.slot k.val).owner = none ∧ (t.core.slot k.val).vals = old.vals ∧
          (∀ j : Slot, j ≠ k → t.core.slot j.val = s.core.slot j.val) ∧
          (∀ v, v < 128 → memLoad t.dev.mem (p (v / 2) + 4 * (v % 2)) 4 = elemGet old.vals 32 v) ∧
          memLoad t.dev.mem (p 64) 4 = (old.owner.getD 0).toNat ∧
          memLoad t.dev.mem (p 64 + 4) 4 = (if old.owner.isSome = true then 1 else 0) ∧
          SameBut (fun z => ∃ i, i < 65 ∧ p i ≤ z ∧ z < p i + 8) s t) ∧
      ((∀ i, i < 65 → s.PlainElem .block (x + BitVec.ofNat 64 (8 * i)) 8 (p i)) → memLoad m (p 64 + 5) 3 = 0 →
        (old.owner = none ∨ old.owner = owner) → ∃ t, exec (.dfill k a) s = .next t ∧ (t.core.slot k.val).owner = owner ∧
          (∀ v, v < 128 → elemGet (t.core.slot k.val).vals 32 v = memLoad m (p (v / 2) + 4 * (v % 2)) 4) ∧
          (∀ j : Slot, j ≠ k → t.core.slot j.val = s.core.slot j.val) ∧ SameBytes s t)) ∧
    exec (.wbtag d) s = .next (s.wx d (if s.core.wbTag = s.core.launchTag then 1 else 0)) ∧
    exec (.wbtagSet d a) s = .next ((s.setCore { s.core with wbTag := x.setWidth 32 }).wx d (s.core.wbTag.setWidth 64)) ∧
    (s.core.irq.any = true → exec .idle s = .next { done with ctx := { done.ctx with idled := true } }) ∧
    (s.core.irq.any = false → exec .idle s = .next (s.stopAt (.wait .irq) s.restHere)) ∧
    (s.core.pl = 2 → x.toNat < 4 → ¬ (s.dev.dstate = 0 ∧ x ≠ 0 ∧ s.dev.anyResident = true) →
      (x = 0 → s.dev.dstate ≠ 0 → s.dev.duty.getLsbD 3 = false) →
      ∃ t, exec (.pmode a) s = .next t ∧ t.dev.dstate = x.setWidth 2 ∧ t.thr.x = s.thr.x ∧ t.thr.v = s.thr.v ∧ (x = 3 → t.dev.boot.phase = 3) ∧
        (x ≠ 0 ∨ s.dev.dstate = 0 → t.dev.parts = s.dev.parts ∧ t.thr = s.thr ∧ SameBytes s t) ∧
        (x = 0 → s.dev.dstate ≠ 0 → ∀ p : PartNo,
          arrangementOk (((List.finRange 4).map s.dev.mapEntry).filter (·.valid) |>.map PartInForce.qmask) = true →
            t.dev.parts.get p = s.dev.mapEntry p)) ∧
    (x.toNat % 64 = 0 → y.toNat < 1024 →
      let q : QueueNo := Fin.ofNat 1024 y.toNat
      let e := s.dev.queue q
      let s1 : State := s.setCore { s.core with touched := 0, touchedBufs := 0 }
      let tab := queueTabBase + 64 * q.val
      let at_ := e.ring + 32 * (e.tail % e.size)
      ((e.en = false ∨ e.ok = false) → exec (.qpost d a b) s = .next (s1.wx d 3)) ∧
      (e.en = true → e.ok = true → ((s.dev.validPart e = false ∨ e.pid ≠ s.core.part.pid.toNat) → exec (.qpost d a b) s = .next (s1.wx d 2)) ∧
        (s.dev.validPart e = true → e.pid = s.core.part.pid.toNat →
          (e.size ≤ e.count → exec (.qpost d a b) s = .next (s1.wx d 1)) ∧
          (e.count < e.size → s.Canonical → ∃ t, exec (.qpost d a b) s = .next t ∧ (d ≠ 0 → t.core.getX d = 0) ∧
            memLoad t.dev.mem (tab + 44) 4 = (e.tail + 1) % 2 ^ 32 ∧
            ∀ pa, (∀ i, i < 32 → s.dev.qplace e .vecStore (at_ + i) = some (pa + i)) → (pa + 32 ≤ tab ∨ tab + 64 ≤ pa) →
              memLoad t.dev.mem pa 8 = x.toNat ∧ memLoad t.dev.mem (pa + 23) 1 = e.tail / e.size % 255 + 1)))) ∧
    (x.extractLsb' 16 48 = 0 → s.dev.duty.getLsbD 3 = false → s.Canonical →
      let w := memLoad s.dev.mem errLogBase 4
      let r := memLoad s.dev.mem (errLogBase + 4) 4
      let at_ := errLogBase + 0x1000 + 32 * (w % 32768)
      ∃ t, exec (.errlog a b) s = .next t ∧ t.thr.x = s.thr.x ∧ t.thr.v = s.thr.v ∧
        ((w + 2 ^ 32 - r) % 2 ^ 32 = 32768 → memLoad t.dev.mem (errLogBase + 8) 4 = (memLoad s.dev.mem (errLogBase + 8) 4 + 1) % 2 ^ 32) ∧
        ((w + 2 ^ 32 - r) % 2 ^ 32 ≠ 32768 → memLoad t.dev.mem at_ 8 = s.dev.time % 2 ^ 64 ∧ memLoad t.dev.mem (at_ + 8) 2 = x.toNat ∧
          memLoad t.dev.mem (at_ + 10) 1 = s.cur.val ∧ memLoad t.dev.mem (at_ + 16) 8 = y.toNat ∧
          memLoad t.dev.mem errLogBase 4 = (w + 1) % 2 ^ 32 ∧ t.dev.msix = s.dev.msix ++ [196])) ∧
    (s.core.pl = 2 → x.toNat < 64 → s.dev.dutyBusy s.cur (x.setWidth 6 ^^^ s.dev.duty) = false →
      exec (.dutyset d a) s = .next (({ s with dev := { s.dev with duty := x.setWidth 6 } } : State).wx d (s.dev.duty.setWidth 64)))

/-- R377, R378, R431 to R435, Table 22.3, at both levels that may switch: the image of a thread, one with transfers in flight that owe nothing
of the elements they have begun, is as long as its sections are; `ctxsave` with room for it writes it row by row, pauses the transfers and gives
its length; without, it gives the length with bit 63 set and writes nothing; and where the thread still owes something it waits. `ctxload` of an
image that passes the checks puts the thread back; its thread mode begins at the next `tret`. On a retired core, whose buffers are unreachable,
each takes an address fault (R23; the model's: log entry 86). -/
def Obligations.ContextSwitch : Prop :=
  ∀ (s : State) (d a b : XReg) (p : Nat → Nat), s.Control → 1 ≤ s.core.pl.toNat → s.core.pl.toNat ≤ 2 → (s.rx a).toNat % 4096 = 0 →
    s.ctx.queued = none →
    let y := (s.rx b).toNat
    let row (i : Nat) : Word := s.rx a + BitVec.ofNat 64 (64 * i)
    let at_ (o : Nat) : Nat := p (o / 64) + o % 64
    (s.dev.isRetired s.cur = true → exec (.ctxsave d a b) s = .next (s.trap cAddress 0) ∧ exec (.ctxload a) s = .next (s.trap cAddress 0)) ∧
    (s.dev.isRetired s.cur = false → s.core.late ≠ [] → s.ctx.stop = none → (s.base.cores.get s.cur).wait = none →
      (∀ k, s.thr.transfers.get k = none ∧ (s.base.cores.get s.cur).thr.transfers.get k = none) →
      ∃ t, exec (.ctxsave d a b) s = .next t ∧ t.core.wait = some .saving ∧ t.ctx.active = false) ∧
    (s.dev.isRetired s.cur = false → s.core.late = [] → (∀ l, s.thr.aib.get l = none) → s.core.dmeta = [] → s.Canonical →
      (∀ k f, s.thr.transfers.get k = some f → f.owes = false ∧ f.pl.toNat < s.core.pl.toNat) →
      let h := s.thr
      let vecs := ((h.v.toList.filter (·.dirty)).map fun v => (v.hwm + 63) / 64 * 64).sum
      let sides := 256 * (h.v.toList.filter (·.sdirty)).length
      let latch (l : Latch) : Nat := if l.valid = true ∧ l.hold = true then (if l.ty = .q4 then 17408 else 16384) else 0
      let slots := (520 * (s.core.am.toList.filter fun r => r.owner == some h.lnch).length + 63) / 64 * 64
      let w := 8064 + vecs + sides + 192 + 4096 + 256 * (h.transfers.toList.filter Option.isSome).length + 448 + 256 + latch h.latchA +
        latch h.latchB + (if h.xchg.isSome = true then 64 else 0) + 256 * h.vps.length + 0x80000 + 512 + 0x10000
      let n := w + slots
      (y < n → ∃ t, exec (.ctxsave d a b) s = .next t ∧ (d ≠ 0 → t.core.getX d = BitVec.ofNat 64 n ||| 0x8000000000000000) ∧
          SameBytes s t) ∧
        (n ≤ y → s.core.abPoison = [] →
          (∀ i, 64 * i < w → ∃ leaf, s.PlacedAt .vecStore (row i) 64 (p i) leaf ∧ s.filled (row i) leaf = s) →
          (∀ i j, i < j → 64 * j < w → p i ≠ p j) → ∃ t, exec (.ctxsave d a b) s = .next t ∧
          (d ≠ 0 → t.core.getX d = BitVec.ofNat 64 n) ∧ t.core.saved = some (s.rx a) ∧ memLoad t.dev.mem (at_ 0) 4 = 0xD4A0 ∧
          memLoad t.dev.mem (at_ 4) 4 = n % 2 ^ 32 ∧ memLoad t.dev.mem (at_ 8) 4 = s.thr.lnch.toNat ∧
          memLoad t.dev.mem (at_ 12) 1 = s.thr.tid.toNat ∧ memLoad t.dev.mem (at_ 13) 1 = s.cur.val ∧
          memLoad t.dev.mem (at_ 16) 8 = s.core.t1.tepc.toNat ∧
          (∀ r : XReg, memLoad t.dev.mem (at_ (128 + 8 * r.val)) 8 = (s.thr.x.get r).toNat) ∧
          (∀ k, t.thr.transfers.get k = (s.thr.transfers.get k).map fun f => { f with paused := true }) ∧
          SameBut (fun z => ∃ i, 64 * i < w ∧ p i ≤ z ∧ z < p i + 64) s t)) ∧
    (s.dev.isRetired s.cur = false → s.core.late = [] →
      let reads (n : Nat) : Prop := ∀ i, 64 * i < n → ∃ leaf, s.PlainAt .block (row i) 64 (p i) leaf ∧ s.filled (row i) leaf = s
      let bytes (o n : Nat) : List Byte := (List.range n).map fun i => memRead s.dev.mem (at_ (o + i))
      (reads 64 → memLoad s.dev.mem (p 0) 4 ≠ 0xD4A0 → exec (.ctxload a) s = .next (s.trap cOperand s.ctx.word)) ∧
      let img := bytes 0 8064
      let m := splitMid img (bytes 8064 (midSize img))
      let n := 8064 + midSize img + endSize img m
      let e := splitEnd img m (bytes (8064 + midSize img) (endSize img m))
      reads n → fixedOk img = true → midOk img m = true → fieldAt img 4 4 = n + slotAreaSize (fieldAt img 64 64) → endOk e = true →
        let t := s.restore img m e
        exec (.ctxload a) s = .next t ∧ (∀ r : XReg, t.thr.x.get r = BitVec.ofNat 64 (memLoad s.dev.mem (at_ (128 + 8 * r.val)) 8)) ∧
          t.thr.vl = memLoad s.dev.mem (at_ 640) 8 ∧ t.core.t1.tepc = BitVec.ofNat 64 (memLoad s.dev.mem (at_ 16) 8) &&& ~~~ 7#64 ∧
          t.thr.threadMode = false ∧ t.thr.modeDue = decide (memLoad s.dev.mem (at_ 28) 4 / 2 ^ 16 % 2 = 1) ∧
          (∀ i, i < 0x80000 → memRead t.core.ab i = e.ab.getD i 0))


/-! ### Events of a core, of the home slices and of translation -/

/-- R45, R371, R425 to R428, R431, R435 to R437, R451: a synchronous trap, an interrupt that is pending and enabled and the pending trap
of the lowest VP enter their handler; KILL ends the thread. R47, R48: a lane completes its next operation where the slip of that operation
lets it. R58, R219, R221: an AIB is fetched, and stands before its first word; a convoy that waits goes on at its waiting instruction, the
registers as its words before that left them (log entry 25). -/
def Obligations.CoreEvents : Prop :=
  ∀ (s : State) (cause : BitVec 8) (tval : Word) (word : BitVec 2) (elem : BitVec 14) (lane : LaneNo),
    let c := s.core
    (c.mode = .run → c.wait = none → syncCause cause = true →
      (∃ t, exec (.trapEntry cause ⟨tval, none⟩) s = .next t ∧ Taken c t.core cause false false 0 tval ∧ t.thr = s.thr ∧ SameBytes s t) ∧
      ∃ t, exec (.trapEntry cause ⟨tval, some (word, elem)⟩) s = .next t ∧ Taken c t.core cause false false 0 tval ∧ SameBytes s t ∧
        t.thr = { s.thr with vstart := { word := word, elem := elem }, vstartPc := c.pc, vstartPl := c.pl }) ∧
    (c.ie = true → c.wait = none →
      (∀ v p, c.mode = .run → s.thr.vps[v]? = some p → p.trap = some (cause, tval) →
        (∀ u, u < v → (s.thr.vps.getD u {}).trap = none) → ∃ t, exec .vpTrap s = .next t ∧
          Taken c t.core cause false true (BitVec.ofNat 10 v) tval ∧ (t.thr.vps.getD v {}).trap = none ∧ t.thr.x = s.thr.x ∧ SameBytes s t) ∧
      (c.mode ≠ .off →
        (∀ x, c.irq.preempt = some x → s.dev.unready s.cur = false → ∃ t, exec .preempt s = .next t ∧
          Taken c t.core 1 true false 0 x ∧ t.core.irq.preempt = none ∧
          t.thr.watches = [] ∧ t.thr.x = s.thr.x ∧ SameBytes s t) ∧
        (∀ x, c.irq.resume = some x → ∃ t, exec .resume s = .next t ∧ Taken c t.core 2 true false 0 x ∧ t.core.irq.resume = none ∧
          t.thr = s.thr ∧ SameBytes s t) ∧
        (∀ x, c.irq.spill = some x → ∃ t, exec .spill s = .next t ∧ Taken c t.core 3 true false 0 x ∧ t.core.irq.spill = none ∧
          t.thr = s.thr ∧ SameBytes s t) ∧
        (c.irq.mailbox = true → ∃ t, exec .mailbox s = .next t ∧ Taken c t.core 5 true false 0 0 ∧ t.core.irq.mailbox = false ∧
          t.thr = s.thr ∧ SameBytes s t) ∧
        (c.irq.kill = true → s.dev.duty.getLsbD 3 = false → c.late = [] → ∃ t, exec .kill s = .next t ∧ t.core.mode = .free ∧
          t.core.irq.kill = false ∧
          (∀ l, s.dev.launchOn s.cur = some l → c.ended = false → t.core.ended = true ∧ ∀ k, t.thr.transfers.get k = none)))) ∧
    (∀ slip, c.opBase ≤ c.laneDone.get lane → c.opSlips[c.laneDone.get lane - c.opBase]? = some slip →
      ((∀ j, c.laneDone.get lane ≤ c.laneDone.get j + slip.toNat) → ∃ t, exec (.elementGroupOperation lane) s = .next t ∧
        t.core.laneDone.get lane = c.laneDone.get lane + 1 ∧ (∀ j, j ≠ lane → t.core.laneDone.get j = c.laneDone.get j) ∧
        t.thr = s.thr ∧ SameBytes s t) ∧
      ((∃ j, c.laneDone.get j + slip.toNat < c.laneDone.get lane) → exec (.elementGroupOperation lane) s = .next s)) ∧
    (∀ v w, s.dev.stopped = false → c.mode = .run → s.thr.threadMode = true → c.vpsStopped = false → s.thr.aib.get lane = none →
      s.thr.nextVp lane = some v → s.thr.vpLevel = 2 →
      let a := (s.thr.vps.getD v {}).next
      a.toNat % 8 = 0 → isMem a.toNat = true → poisoned 64 s.dev.poison a.toNat 8 = false →
      w = BitVec.ofNat 64 (memLoad s.dev.mem a.toNat 8) → lastBit w = true →
      ∃ t r, exec (.aibBegin lane) s = .next t ∧ t.ctx.active = true ∧ t.ctx.words = [w] ∧ t.ctx.lane = lane ∧ t.ctx.vp = some r ∧
        r.vp = v ∧ r.st = s.thr.vps.getD v {} ∧ t.ctx.addr = a ∧ SameBytes s t) ∧
    ∀ x, s.dev.stopped = false → c.wait = some (.waiting x) →
      let waits (a : Nat) (v : Word) (n : Nat) : Core := { c with wait := some (.waiting (.polled a v (if 65536 ≤ n then 0 else 2 * n))) }
      (∀ h, s.dev.held.get s.cur = some h → h.rest.words ≠ [] →
        let goes (i : Instr) (q : Core) : Prop := ∃ t, exec i s = .next t ∧ t.ctx.active = true ∧ t.ctx.checked = true ∧
          t.ctx.words = h.rest.words ∧ t.ctx.addr = c.pc ∧ t.core = h.core q ∧ t.dev.held.get s.cur = none ∧ SameBytes s t
        goes .waitComplete c ∧ ∀ a v n, x = .polled a v n → goes .waitWPoll (waits a v n)) ∧
      (s.dev.held.get s.cur = none → c.split.get 2 = none → c.pl = 2 → c.pc.toNat % 8 = 0 → isMem c.pc.toNat = true →
        poisoned 64 s.dev.poison c.pc.toNat 8 = false →
        let w := BitVec.ofNat 64 (memLoad s.dev.mem c.pc.toNat 8)
        lastBit w = true →
        (∃ t, exec .waitComplete s = .next t ∧ t.ctx.active = true ∧ t.ctx.words = [w] ∧ t.ctx.addr = c.pc ∧ t.dev = s.dev) ∧
        ∀ a v n, x = .polled a v n → ∃ t, exec .waitWPoll s = .next t ∧ t.ctx.active = true ∧ t.ctx.words = [w] ∧
          t.core = waits a v n)

/-- R408, R414: a walk that ends at a leaf leaves the leaf in the TLB. R429: a fault of the oldest convoy is served, or delivered. R264,
R338: the oldest metadata write is performed, and a slice acknowledges. R211, R212, R226, R283: one step in a write queue. R231, R233,
R234: a hamper operation executes at home, pairs, or moves on when its window ends; one that finds its descriptor poisoned at home is a
memory error of its thread or of its virtual processor (R439; the model's reading: log entry 47). The model's choices: an arrival is compared
with COUNT before it wraps to 32 bits (log entry 81), and a walk only adds to the TLB (log entry 10). -/
def Obligations.SliceEvents : Prop :=
  ∀ (s : State) (acc : AccKind) (va : Word) (vec : Option (BitVec 2 × BitVec 14)) (sl : SliceNo) (n : Nat), s.Canonical →
    let c := s.core
    let d := s.dev
    (∀ pa lf, c.pl ≠ 2 → lookupVirt d c c.pl acc va.toNat = .ok pa (some lf) → ∃ t, exec (.pageWalk acc va) s = .next t ∧
      ((c.tlb.find? (tlbMatch c va.toNat)).isSome = false → t.core.tlb = c.tlb ++ [{ asid := c.asid, leaf := lf }]) ∧
      t.thr = s.thr ∧ SameBytes s t) ∧
    (∀ lvl entry, c.pl ≠ 2 → hwXlt d = true → c.discardable = true → lookupVirt d c c.pl acc va.toNat = .fault kNomap lvl entry →
      (∀ e, d.serve c va.toNat lvl entry = some e → exec (.translationServer acc ⟨va, vec⟩) s = .next { s with dev := e }) ∧
      (d.serve c va.toNat lvl entry = none → c.wait = none → acc ≠ .fetch → ∃ t, exec (.translationServer acc ⟨va, vec⟩) s = .next t ∧
        Taken c t.core cData false false 0 va ∧ SameBytes s t ∧ t.thr = (match vec with
          | none => s.thr
          | some (w, e) => { s.thr with vstart := { word := w, elem := e }, vstartPc := c.pc, vstartPl := c.pl }))) ∧
    (∀ m rest, c.dmeta = m :: rest → ∃ t, exec .dmetaWrite s = .next t ∧ t.core.dmeta = rest ∧
      (∀ i, i < m.src.length → memRead t.core.md (m.off + i) = m.src.getD i 0) ∧
      (∀ z, z < m.off ∨ m.off + m.src.length ≤ z → memRead t.core.md z = memRead c.md z) ∧ t.dev.mem = d.mem ∧ t.thr = s.thr) ∧
    (∃ t, exec (.sliceAcknowledgement sl) s = .next t ∧ t.core.touched.getLsbD sl.val = false ∧
      (∀ i, i ≠ sl.val → t.core.touched.getLsbD i = c.touched.getLsbD i) ∧ SameBytes s t) ∧
    (∀ op ty pa (x cmp : Word), isMem pa = true → ∃ t, exec (.writeQueueExecution (.amo op ty pa x cmp)) s = .next t ∧
      memLoad t.dev.mem pa ty.size =
        amoValue s.num op ty (memLoad d.mem pa ty.size) (x.toNat % 2 ^ ty.bits) (cmp.toNat % 2 ^ ty.bits) % 256 ^ ty.size ∧
      SameBut (fun z => pa ≤ z ∧ z < pa + ty.size) s t) ∧
    (∀ pa, isMem pa = true →
      let count := memLoad d.mem pa 4
      let arr := memLoad d.mem (pa + 4) 4
      let gen := memLoad d.mem (pa + 8) 4
      ∃ t, exec (.writeQueueExecution (.arrive pa)) s = .next t ∧ SameBut (fun z => pa + 4 ≤ z ∧ z < pa + 12) s t ∧
        memLoad t.dev.mem (pa + 4) 4 = (if count ≤ arr + 1 then 0 else (arr + 1) % 2 ^ 32) ∧
        memLoad t.dev.mem (pa + 8) 4 = (if count ≤ arr + 1 then (gen + 1) % 2 ^ 32 else gen)) ∧
    (∀ pa (x : Half), isMem pa = true →
      let next := memLoad d.mem (pa + 4) 4
      let good := memLoad d.mem (pa + 8) 4 = x.toNat ∧ memLoad d.mem (pa + 12) 4 = 0 ∧ next < memLoad d.mem pa 4
      ∃ t, exec (.writeQueueExecution (.claim pa x)) s = .next t ∧ SameBut (fun z => pa + 4 ≤ z ∧ z < pa + 8) s t ∧
        memLoad t.dev.mem (pa + 4) 4 = if good then next + 1 else next) ∧
    ∀ h, d.hopNo n = some h →
      (2 ≤ h.stage → h.firm = true → poisoned 64 d.poison h.desc 64 = true → exec (.hamperHomeOp n) s = .next s) ∧
      (2 ≤ h.stage → (∀ k, (d.cores.get h.core).thr.transfers.get k = none) → (d.cores.get h.core).late = [] →
        (poisoned 64 d.poison h.desc 64 = true → h.firm = false) → ∃ t, exec (.hamperHomeOp n) s = .next t ∧
        let q := d.cores.get h.core
        let own := if h.lane = none ∧ h.pl = 0 then some h.core else none
        let r := d.hamperHome own ⟨h.pid, h.asid, h.root, h.pl⟩ h.desc h.push
        t.dev.hopNo n = none ∧ (poisoned 64 d.poison h.desc 64 = false → t.dev.mem = r.1.mem) ∧
        (∀ x, h.lane = none → q.wait = some (.value n x none) →
          (poisoned 64 d.poison h.desc 64 = false → (t.dev.cores.get h.core).wait = some (.value n x (some r.2))) ∧
          (poisoned 64 d.poison h.desc 64 = true → Taken q (t.dev.cores.get h.core) cMemErr false false 0 h.va ∧ SameBytes s t)) ∧
        ∀ l x o, h.lane = some l → q.thr.aib.get l = some x → x.hop = some o → o.tag = some n →
          poisoned 64 d.poison h.desc 64 = true → x.vp < q.thr.vps.length →
          let u := (t.dev.cores.get h.core).thr
          (u.vps.getD x.vp {}).trap = some (cMemErr, h.va) ∧ u.aib.get l = none ∧ SameBytes s t) ∧
      (h.stage < 2 → firstPair (d.heldWith h) = none → ∃ t h1, exec (.pairWindowExpiry n) s = .next t ∧ t.dev.hopNo n = some h1 ∧
        h1.stage = (if h.stage = 0 ∧ d.mayPair h.desc h.pid = true then 1 else 2) ∧ h1.desc = h.desc ∧ h1.push = h.push ∧ SameBytes s t) ∧
      ∀ p q v x y, h.stage < 2 → firstPair (d.heldWith h) = some (p, q) ∨ firstPair (d.heldWith h) = some (q, p) →
        p.push = some v → q.push = none → p.lane = none → q.lane = none → p.core ≠ q.core →
        (d.cores.get p.core).wait = some (.value p.tag x none) → (d.cores.get q.core).wait = some (.value q.tag y none) →
        ∃ t, exec (.pairMatch n) s = .next t ∧ (t.dev.cores.get p.core).wait = some (.value p.tag x (some 1)) ∧
          (t.dev.cores.get q.core).wait = some (.value q.tag y (some v)) ∧ t.dev.hopNo p.tag = none ∧ t.dev.hopNo q.tag = none ∧
          SameBytes s t

/-! ### The command processor -/

/-- R387 to R395, R401, R403: the slot at the head of a queue with the right generation is taken: `HEAD` moves on, a launch that passes its
checks arrives, a graph is replayed, a refused one gets a completion record with status 1 and its reason. A queue that is empty or disabled is
left alone. (While dispatch is the hardware's duty.) -/
def Obligations.SlotsTaken : Prop :=
  ∀ (s : State) (q : QueueNo) (i : Instr), (i = .slotTake q ∨ i = .slotReread q) →
    let d := s.dev
    let e := d.queue q
    let pos : Half := BitVec.ofNat 32 e.head
    let tab := queueTabBase + 64 * q.val
    (d.usable e = false ∨ e.count = 0 → exec i s = .next s) ∧
    ∀ b, d.usable e = true → e.count ≠ 0 → d.qread e (e.ring + 32 * (e.head % e.size)) 32 = some b →
      (b.getD 23 0 ≠ e.gen pos → exec i s = .next s) ∧
      (b.getD 23 0 = e.gen pos → d.duty.getLsbD 0 = false → s.Canonical →
        let w := fieldAt b 0 8
        let d1 : Device := { d.setHead q (e.head + 1) with stuck := d.stuck.filter fun x => x.1 != q }
        (w % 64 = 0 → fieldAt b 8 8 = 0 → zeroAt b 16 7 = true →
          (∀ l, d1.readLaunch q pos e (w / 64 * 64) none = .ok l → ∃ t l1, exec i s = .next t ∧ l1 ∈ t.dev.launches ∧
            l1.arrival = d.nextArrival ∧ l1.entry = l.entry ∧ l1.param = l.param ∧ l1.nthr = l.nthr ∧ l1.groups = l.groups ∧
            (l.links = [] → l1.st = .ready) ∧ memLoad t.dev.mem (tab + 40) 4 = (e.head + 1) % 2 ^ 32 ∧
            SameBut (fun z => tab + 40 ≤ z ∧ z < tab + 44) s t) ∧
          ∀ r pa, d1.readLaunch q pos e (w / 64 * 64) none = .error r → d1.RecordAt e pos pa → ∃ t, exec i s = .next t ∧
            memLoad t.dev.mem (pa + 4) 1 = 1 ∧ memLoad t.dev.mem (pa + 5) 1 = r % 256 ∧
            memLoad t.dev.mem (pa + 7) 1 = (e.gen pos).toNat) ∧
        ∀ r, w % 64 = 1 → zeroAt b 16 7 = true → d1.readGraph q pos e (w / 64 * 64) (fieldAt b 8 8) = .ok r →
          ∃ t, exec i s = .next t ∧ t.dev.replays = d.replays ++ [r] ∧ memLoad t.dev.mem (tab + 40) 4 = (e.head + 1) % 2 ^ 32)

/-- R29, R396 to R399, R402, R403, R431: a launch of class 3 that waited starves; the launch that is to be dispatched gets its cores and
its threads begin at their entry with the values of Table 3.1; one whose threads are saved is pre-empted; one that is complete, or
whose preloads failed, ends with its record and its cores and slots are free; a replay that may start makes its first launch arrive: its first
descriptor is read then, and the earlier replays of its graph have ended where they may not overlap (the model's reading: log entry 40). -/
def Obligations.LaunchEvents : Prop :=
  ∀ (s : State) (n : Nat) (p : PartNo),
    let d := s.dev
    (∀ l, d.launchNo n = some l →
      (l.ent.cls = 3 → (l.st = .ready ∨ l.st = .preempted) → l.starving = none → l.readyAt + 3000 ≤ d.time →
        ∃ t, exec (.starvation n) s = .next t ∧ t.dev.launchNo n = some { l with starving := some (l.readyAt + 3000) } ∧ SameBytes s t) ∧
      (l.st = .preempting → l.images ≠ [] → (∀ c ∈ l.cores, (d.cores.get c).launch ≠ some l.id) →
        ∃ t l1, exec (.preemptionComplete n) s = .next t ∧ t.dev.launchNo n = some l1 ∧ l1.st = .preempted ∧ l1.oldCores = l.cores ∧
          l1.images = l.images ∧ SameBytes s t) ∧
      (l.replay = none → d.duty.getLsbD 0 = false → d.duty.getLsbD 3 = false → s.Canonical →
        let ended (t : State) (st r : Nat) : Prop :=
          t.dev.launchNo n = none ∧ (∀ c : CoreNo, l.id ≠ 0 → (d.cores.get c).launch = some l.id → (t.dev.cores.get c).launch = none) ∧
          (∀ (c : CoreNo) (k : Slot), l.id ≠ 0 → ((d.cores.get c).slot k.val).owner = some l.id →
            ((t.dev.cores.get c).slot k.val).owner = none) ∧
          ∀ pa, d.RecordAt l.ent l.pos pa → memLoad t.dev.mem pa 4 = l.id.toNat ∧ memLoad t.dev.mem (pa + 4) 1 = st ∧
            memLoad t.dev.mem (pa + 5) 1 = r ∧ memLoad t.dev.mem (pa + 6) 1 = (if l.late = true then 1 else 0) ∧
            memLoad t.dev.mem (pa + 7) 1 = (l.ent.gen l.pos).toNat ∧ memLoad t.dev.mem (pa + 8) 8 = l.dispatchedAt % 2 ^ 64 ∧
            memLoad t.dev.mem (pa + 16) 8 = d.time % 2 ^ 64
        (l.loading = .failed → ∃ t, exec (.preloadFault n) s = .next t ∧ ended t 1 7) ∧
        (l.nthr ≤ l.endedThreads.length → l.st = .resident → l.id ≠ 0 → l.inFlight = [] →
          (∀ c ∈ l.cores, (d.cores.get c).launch = some l.id →
            (∀ k, (d.cores.get c).thr.transfers.get k = none) ∧ (d.cores.get c).dmeta = []) →
          ∃ t, exec (.launchComplete n) s = .next t ∧ ended t (if l.killed = true then 2 else 0) 0))) ∧
    (∀ l, d.duty.getLsbD 0 = false → d.dstate = 0 → d.Quiet p → pickLaunch (d.freeCores p).length (d.readyList p) = some l →
      l.st = .ready → l.preloads = [] → (l.dropLate = false ∨ 0 < deltaOf l.deadline d.time) →
      let cs := (d.freeCores p).take l.nthr
      ∃ t l1, exec (.dispatch p) s = .next t ∧ l1 ∈ t.dev.launches ∧ l1.arrival = l.arrival ∧ l1.st = .resident ∧ l1.cores = cs ∧
        cs.length = l.nthr ∧ t.dev.mem = d.mem ∧ ∀ k c, cs[k]? = some c →
          let o := t.dev.cores.get c
          o.mode = .run ∧ o.pc = l.entry ∧ o.pl = 0 ∧ o.ie = true ∧ o.launch = some l1.id ∧ o.thr.tid = BitVec.ofNat 8 k ∧
          o.thr.x.get 1 = BitVec.ofNat 64 k ∧ o.thr.x.get 2 = BitVec.ofNat 64 l.nthr ∧ o.thr.x.get 3 = l.param ∧
          o.thr.x.get 5 = l1.id.setWidth 64 ∧ (∀ r : XReg, 6 ≤ r.val → o.thr.x.get r = 0) ∧ o.thr.vl = 0 ∧ o.thr.ew = .w32 ∧
          (∀ a, memRead o.ab a = 0) ∧ (∀ a, memRead o.md a = 0)) ∧
    ∀ r j bs d2 desc l, d.replays.find? (fun r => r.num == n) = some r → r.copy = none →
      (r.overlap = true ∨ ∀ x ∈ d.replays, x.sameGraph r = true → r.num ≤ x.num) → d.copySlot r = some j →
      let r1 : Replay := { r with copy := some j }
      let d1 : Device := { d with replays := d.replays.map fun x => if x.num = n then r1 else x }
      d1.qread r.ent r.pbbase r.pbsize = some bs → d1.qwrite r.ent (r.copies + j * r.pbsize) (patchBytes bs r.patch) = some d2 →
      r.descs[0]? = some desc →
      d2.readLaunch r.queue r.pos r.ent desc (some { base := r.pbbase, size := r.pbsize, copy := r.copies + j * r.pbsize }) = .ok l →
      ∃ t l1, exec (.replayStart n) s = .next t ∧ r1 ∈ t.dev.replays ∧ l1 ∈ t.dev.launches ∧ l1.arrival = d.nextArrival ∧
        l1.replay = some (n, 0) ∧ l1.entry = l.entry ∧ l1.param = l.param ∧ t.dev.mem = d2.mem

/-! ### The host, its commands and the ports -/

/-- R388, R447 to R456: a doorbell moves `TAIL` where it may, and its page reads `TAIL` and `HEAD`; RING and ALERT; a record that waited is
written once EREAD makes room; the host window, which writes plain memory but not the partition map, and reads ones where nothing is; register
writes; a command that is busy is done or rejected, once; a port retries, goes down and comes up again. Which
records stand waiting in a channel, and which hold up their work, is log entry 35 (DEDUCED from R453); how the host's bytes meet the registers is
log entry 45, and which flit a
retry is of is log entry 46. -/
def Obligations.HostEvents : Prop :=
  ∀ (s : State) (q : QueueNo) (u v : Half) (c : CoreNo) (p : PartNo) (port : PortNo) (addr n : Nat) (data : List Byte) (x : Word), s.Canonical →
    let d := s.dev
    let e := d.queue q
    let tab := queueTabBase + 64 * q.val
    let moved := (u.toNat + 2 ^ 32 - e.head) % 2 ^ 32
    let ch := d.chans.get p
    let size := ch.esize.toNat
    let w := ch.ewrite.toNat
    (d.usable e = true → e.count ≤ moved → moved ≤ e.size → ∃ t, exec (.doorbellTail q u) s = .next t ∧
      memLoad t.dev.mem (tab + 44) 4 = u.toNat ∧ SameBut (fun z => tab + 44 ≤ z ∧ z < tab + 48) s t) ∧
    (d.duty.getLsbD 3 = false → (d.usable e = false ∨ moved < e.count ∨ e.size < moved) → ∃ t, exec (.doorbellTail q u) s = .next t ∧
      memLoad t.dev.mem (tab + 44) 4 = e.tail) ∧
    (bytesVal (d.doorbellRead q 0 4) = e.tail ∧ bytesVal (d.doorbellRead q 4 4) = e.head ∧ ∀ i, 8 ≤ i → d.doorbellRead q i 1 = [0]) ∧
    (∃ t, exec (.ring c) s = .next t ∧ (t.dev.cores.get c).irq.mailbox = true ∧ (∀ o, o ≠ c → t.dev.cores.get o = d.cores.get o) ∧
      (t.dev.cores.get c).thr = (d.cores.get c).thr ∧ SameBytes s t) ∧
    exec (.alert c) s = .next { s with dev := { d with msix := d.msix ++ [4 + c.val] } } ∧
    (ch.waiting = [] → ∃ t, exec (.eread p v) s = .next t ∧ (t.dev.chans.get p).eread = v ∧ SameBytes s t) ∧
    (∀ r, ch.waiting = [r] → size ∈ [16, 32, 64, 128, 256, 512, 1024, 2048, 4096] → (ch.ewrite - v).toNat < size →
      let at_ := ch.ebase.toNat + 64 * (w % size)
      ∃ t, exec (.eread p v) s = .next t ∧ (t.dev.chans.get p).waiting = [] ∧ (t.dev.chans.get p).ewrite = ch.ewrite + 1 ∧
        memLoad t.dev.mem at_ 1 = r.ty % 256 ∧ memLoad t.dev.mem (at_ + 1) 1 = p.val ∧ memLoad t.dev.mem (at_ + 2) 2 = r.core % 65536 ∧
        memLoad t.dev.mem (at_ + 4) 4 = r.tag % 2 ^ 32 ∧ memLoad t.dev.mem (at_ + 63) 1 = w / size % 255 + 1 ∧
        t.dev.msix = d.msix ++ [p.val] ∧ SameBut (fun z => at_ ≤ z ∧ z < at_ + 64) s t) ∧
    ((∀ i, i < data.length → isDevReg (addr + i) = false) → ∃ t, exec (.hostWindowWrite addr data) s = .next t ∧
      ∀ z, memRead t.dev.mem z =
        if addr ≤ z ∧ z < addr + data.length ∧ isMem z = true ∧ inMapRange z = false then data.getD (z - addr) 0 else memRead d.mem z) ∧
    (isDevReg addr = true → 1 ≤ data.length → (addr + data.length - 1) / 0x1000 = addr / 0x1000 →
      exec (.hostWindowWrite addr data) s = .next { s with dev := d.regWrite true 0 addr data.length (bytesVal data) }) ∧
    (∃ t, exec (.hostWindowRead addr n) s = .next t ∧ t.dev.hostData.length = n ∧ t = { s with dev := { d with hostData := t.dev.hostData } } ∧
      ∀ i, i < n → (isMem (addr + i) = true → t.dev.hostData.getD i 0 = memRead d.mem (addr + i)) ∧
        (isDevReg (addr + i) = true → [t.dev.hostData.getD i 0] = d.regRead true 0 (addr + i) 1) ∧
        (isMem (addr + i) = false → isDevReg (addr + i) = false → t.dev.hostData.getD i 0 = 0xFF)) ∧
    (isDevReg addr = false → exec (.registerWrite addr n x) s = .next s) ∧
    (∃ t, exec (.registerWrite (devRegBase + 0x1000 * c.val) 8 x) s = .next t ∧ (t.dev.mailboxes.get c).htod = x ∧
      (t.dev.mailboxes.get c).dtoh = (d.mailboxes.get c).dtoh ∧ SameBytes s t) ∧
    (∃ t, exec (.registerWrite (devRegBase + 0x1000 * c.val + 0x10) 8 x) s = .next t ∧ (t.dev.cores.get c).irq.mailbox = true ∧ SameBytes s t) ∧
    (let k := (ch.cmd.get 0).toNat
     ∃ t, exec (.registerWrite (devRegBase + 0x1000 * (0x100 + p.val) + 0x140) 4 x) s = .next t ∧
      (t.dev.chans.get p).cstat = if ch.cstat = 1 ∨ (1 ≤ k ∧ k ≤ 6) then 1 else 3) ∧
    (d.portUp.getLsbD port.val = true →
      (d.retries.get port < 16 → ∃ t, exec (.flitCrcRetry port) s = .next t ∧
        (t.dev.retries.get port = d.retries.get port + 1 ∨ t.dev.retries.get port = 1) ∧
        t.dev.portUp = d.portUp ∧ SameBytes s t) ∧
      (16 ≤ d.retries.get port → d.duty.getLsbD 3 = false → ∃ t, exec (.portDown port) s = .next t ∧ t.dev.portUp.getLsbD port.val = false ∧
        (∀ i, i ≠ port.val → t.dev.portUp.getLsbD i = d.portUp.getLsbD i) ∧ t.dev.retries.get port = 0)) ∧
    ∃ t, exec (.portRetrain port) s = .next t ∧ t.dev.portUp.getLsbD port.val = true ∧
      (∀ i, i ≠ port.val → t.dev.portUp.getLsbD i = d.portUp.getLsbD i) ∧ SameBytes s t

/-- R311, R430, R454, R460, R469: a command of a partition channel that is busy in its own number is carried out, and CSTAT is 2; one that
cannot be is rejected with nothing changed, and CSTAT is 3; any other time nothing happens; a dispatch whose records lack space waits. What
each command does: one that resets the device (an accepted image) leaves CSTAT as the reset does, and the image counts as admitted in recovery
under the `DUTY`.FWV then in force. The model's readings: log entry 43 (that), log entry 44 (questions and their tags). -/
def Obligations.HostCommands : Prop :=
  ∀ (s : State) (p : PartNo),
    let d := s.dev
    let ch := d.chans.get p
    let field (o n : Nat) : Nat := fieldAt ch.cmd.toList o n
    let tag := field 8 4
    let full (e : Device) : Bool := [1, 2, 5].any (d.needsSpace e)
    let acts (i : Instr) (k : Nat) (f : Device → Option Device) (waits : Device → Bool) : Prop :=
      (ch.cstat ≠ 1 ∨ field 0 1 ≠ k → exec i s = .next s) ∧
      (ch.cstat = 1 → field 0 1 = k →
        let done := d.onChan p fun c => { c with cstat := 2 }
        (f done = none → exec i s = .next { s with dev := d.onChan p fun c => { c with cstat := 3 } }) ∧
        ∀ e, f done = some e → exec i s = .next (if waits e = true then s else { s with dev := e }))
    let never : Device → Bool := fun _ => false
    ((d.duty.getLsbD 0 = true → d.dstate = 0 → d.Quiet p) → acts (.dispatchCommand p) 1 (·.cmdDispatch p) full) ∧
    (d.duty.getLsbD 0 = true → d.dstate = 0 → ch.cstat = 1 → field 0 1 = 1 → (d.refreshRetired p).2 = false →
      exec (.dispatchCommand p) s = .next { s with dev := (d.refreshRetired p).1 }) ∧
    acts (.preemptCommand p) 2 (·.cmdPreempt p) never ∧
    acts (.answer p) 3 (·.cmdAnswer p) never ∧ acts (.replay p) 4 (·.cmdReplay p) never ∧ acts (.proceed p) 5 (·.cmdProceed p) never ∧
    acts (.verdict p) 6 (·.cmdVerdict p) never ∧
    (∀ l, d.duty.getLsbD 0 = true → d.dstate = 0 →
      (d.launches.find? fun l => l.pid == p && l.queue.val == field 8 2 && l.pos.toNat == field 12 4 &&
        (l.st == .ready || l.st == .preempted)) = some l →
      (l.nthr ≤ (d.freeCores p).length → (d.cmdDispatch p).isSome = true) ∧
      ((d.freeCores p).length < l.nthr → d.cmdDispatch p = none)) ∧
    (∀ l, d.duty.getLsbD 0 = true → l.id ≠ 0 →
      (d.launches.find? fun l => l.pid == p && l.id.toNat == field 8 4 && l.st == .resident) = some l →
      ∃ e, d.cmdPreempt p = some e ∧ ∀ c ∈ l.cores, (d.cores.get c).launch = some l.id → (e.cores.get c).irq.preempt.isSome = true) ∧
    (2 ≤ field 12 1 → d.cmdAnswer p = none) ∧
    (∀ c code va vec, d.findAsk p tag = some (.faultCore c code va vec) → (d.cores.get c).wait = some (.host tag) →
      let q := d.cores.get c
      (field 12 1 = 0 → ∃ e, d.cmdAnswer p = some e ∧ e.cores.get c = { q with wait := some .retry } ∧ e.mem = d.mem) ∧
      (field 12 1 = 1 → ∃ e, d.cmdAnswer p = some e ∧ Taken q (e.cores.get c) code false false 0 va ∧ (e.cores.get c).wait = none ∧
        e.mem = d.mem ∧ (e.cores.get c).thr = match vec with
          | none => q.thr
          | some v => { q.thr with vstart := v, vstartPc := q.pc, vstartPl := q.pl })) ∧
    (∀ c v code va w, d.findAsk p tag = some (.faultVp c v code va) → (d.cores.get c).thr.vps[v]? = some w →
      let after (e : Device) (u : Vp) : Prop := (e.cores.get c).thr.vps[v]? = some u ∧ e.mem = d.mem
      (w.asked ≠ some tag → field 12 1 < 2 → ∃ e, d.cmdAnswer p = some e ∧ after e w) ∧
      (w.asked = some tag → field 12 1 = 0 → ∃ e, d.cmdAnswer p = some e ∧ after e { w with asked := none, runnable := true, held := false }) ∧
      (w.asked = some tag → field 12 1 = 1 → ∃ e, d.cmdAnswer p = some e ∧ after e { w with asked := none, trap := some (code, va) })) ∧
    (∀ c k f, d.findAsk p tag = some (.remote c k) → (d.cores.get c).thr.transfers.get k = some f →
      ∃ e, d.cmdProceed p = some e ∧ (f.hostTag ≠ some tag → e = d.dropAsk p tag) ∧
        (f.hostTag = some tag → f.tag.isSome = true ∨ (f.held = [] ∧ f.spilled = []) → e.mem = d.mem ∧
          (e.cores.get c).thr.transfers.get k = some { f with waits := false, cleared := true, hostTag := none })) ∧
    (∀ c k, d.findAsk p tag = some (.spill c k) → (d.cmdReplay p).isSome = true) ∧
    (d.findAsk p tag = none → d.cmdAnswer p = none ∧ d.cmdReplay p = none ∧ d.cmdProceed p = none) ∧
    (d.boot.awaiting = false → d.cmdVerdict p = none) ∧
    (d.boot.awaiting = true → field 8 1 = 1 →
      ∃ e, d.cmdVerdict p = some e ∧ (d.boot.staged = true → e.dstate = d.dstate) ∧ e.boot.result = 5 ∧ e.boot.phase = 3 ∧ e.mem = d.mem ∧
        e.flash = d.flash) ∧
    (d.boot.awaiting = true → field 8 1 = 0 →
      ∃ e, d.cmdVerdict p = some e ∧ e.dstate = 1 ∧ e.boot.phase = 1 ∧ e.boot.breq = false ∧ e.boot.byRecovery = true ∧
        e.boot.admitFwv = d.duty.getLsbD 5 ∧ (e.chans.get p).cstat = 0 ∧ ∀ c : CoreNo, (e.cores.get c).mode = .off)

/-! ### Bring-up, power and errors -/

/-- R438, R440, R464 to R474: a device reset stages the flash or awaits an image; an image is verified in the order of the checks: an accepted
one of the flash starts every core at its entry, an accepted one of the host goes to the flash and resets the device, or is put to the host
under `DUTY`.FWV; SGO stages an image in recovery; AGO builds the report and signs it; the power limit and the issue allowance stay in their
ranges; over-temperature and a lasting fault end threads; an error of a memory is counted, reported or poisons its granule. The model's
choices: the registers of a core after a reset (log entry 4), what a reset keeps of a recovery (log entries 5, 43), the keys (log entry 12),
the bytes of event 7 (log entry 35), and that no launch outlives a reset (log entry 72). -/
def Obligations.BootEvents : Prop :=
  ∀ (s : State) (v : Word) (up : Bool) (die : DieNo) (c : CoreNo) (a g n : Nat) (site : ErrSite), s.Canonical →
    let d := s.dev
    let b := d.boot
    (∃ t, exec .deviceReset s = .next t ∧ t.ctx.active = false ∧ t.dev.flash = d.flash ∧ t.dev.remote = d.remote ∧
      (∀ c : CoreNo, t.dev.cores.get c = { Core.atReset with part := (d.cores.get c).part }) ∧ t.dev.launches = [] ∧ t.dev.duty = 0 ∧
      t.dev.boot.fwvUsed = false ∧ t.dev.boot.digest = 0 ∧ t.dev.boot.breq = b.breq ∧ t.dev.boot.byRecovery = b.byRecovery ∧
      (b.breq = true → t.dev.dstate = 3 ∧ t.dev.boot.phase = 3 ∧ ∀ z, memRead t.dev.mem z = 0) ∧
      (b.breq = false → t.dev.dstate = 1 ∧ t.dev.boot.phase = 1 ∧ ∀ z, memRead t.dev.mem z =
        if stageBase ≤ z ∧ z < stageBase + 0x1000000 then memRead d.flash (z - stageBase) else 0)) ∧
    (b.phase = 1 → b.awaiting = false → ∃ t, exec .imageVerify s = .next t ∧
      let rejected (r : BitVec 3) : Prop := t.dev.boot.phase = 3 ∧ t.dev.boot.result = r ∧ t.dev.flash = d.flash ∧
        t.dev.boot.breq = b.breq ∧ t.dev.dstate = (if b.staged = true then d.dstate else 3) ∧ SameBytes s t
      if d.imgFormat = false then rejected 2
      else if sha512 d.imgKey ≠ Config.keyHash then rejected 3
      else if b.staged = true ∧ d.duty.getLsbD 5 = true then
        let r : Event := { ty := 7, core := 0xFFFF, tag := 0, payload := valBytes d.imgDigest.toNat 64 }
        t.dev.boot = { b with awaiting := true } ∧ t.dev.dstate = d.dstate ∧ t.dev.flash = d.flash ∧
          ((t.dev.chans.get 0).waiting = (d.chans.get 0).waiting ++ [r] ∨ (t.dev.chans.get 0).ewrite = (d.chans.get 0).ewrite + 1)
      else if d.imgSigned = false then rejected 4
      else if b.staged = true then
        t.dev.dstate = 1 ∧ t.dev.boot.phase = 1 ∧ t.dev.boot.staged = false ∧ t.dev.boot.breq = false ∧ t.dev.boot.byRecovery = true ∧
          t.dev.duty = 0 ∧ (∀ o : CoreNo, (t.dev.cores.get o).mode = .off) ∧
          ∀ i, memRead t.dev.flash i = if i < d.imgLen then memRead d.mem (stageBase + i) else memRead d.flash i
      else t.dev.boot.phase = 2 ∧ t.dev.boot.result = 1 ∧ t.dev.boot.digest = d.imgDigest ∧ t.dev.boot.fwvUsed = b.admitFwv ∧
        t.dev.boot.breq = false ∧ t.dev.dstate = d.dstate ∧ t.dev.flash = d.flash ∧
        (∀ i, i < d.imgLen - 4096 → memRead t.dev.mem (d.imgLoad + i) = memRead d.mem (stageBase + 4096 + i)) ∧
        ∀ o : CoreNo, let k := t.dev.cores.get o
          k.mode = .run ∧ k.pc = BitVec.ofNat 64 d.imgEntry ∧ k.pl = 2 ∧ k.ie = false ∧ k.x2.get 1 = BitVec.ofNat 64 o.val ∧
          (∀ r : XReg, r ≠ 1 → k.x2.get r = 0) ∧ k.thr.slip = 0 ∧ k.part = (d.cores.get o).part ∧ k.am = (d.cores.get o).am) ∧
    (b.phase = 3 → ∃ t, exec .sgo s = .next t ∧ t.dev.boot.phase = 1 ∧ t.dev.boot.staged = true ∧
      ∀ i, i < b.slen.toNat → i < memEnd - stageBase → memRead t.dev.mem (stageBase + i) = memRead d.mem i) ∧
    (b.phase ≠ 3 → exec .sgo s = .next s) ∧
    (b.astat = 1 → exec .ago s = .next s) ∧
    (b.astat ≠ 1 → ∃ t, exec .ago s = .next t ∧ t.dev.boot.astat = 2 ∧ t.dev.boot.report.length = 256 ∧ fieldAt t.dev.boot.report 0 4 = 1 ∧
      fieldAt t.dev.boot.report 4 4 = d.fid.toNat ∧ fieldAt t.dev.boot.report 9 1 = d.dstate.toNat ∧
      fieldAt t.dev.boot.report 16 32 = b.nonce.toNat ∧ fieldAt t.dev.boot.report 48 64 = b.digest.toNat ∧
      fieldAt t.dev.boot.report 112 32 = idKey.toNat ∧
      fieldAt t.dev.boot.report 192 64 = (edSign Config.identitySeed (t.dev.boot.report.take 192)).toNat ∧ SameBytes s t) ∧
    (∃ t, exec (.plimit v) s = .next t ∧ t.dev.boot.plimit = (if v.toNat < 600 then 600 else if 2400 < v.toNat then 2400 else v) ∧
      (b.plimit.toNat ≤ t.dev.boot.plimit.toNat → t.dev = { d with boot := { b with plimit := t.dev.boot.plimit } }) ∧
      (t.dev.boot.plimit.toNat < b.plimit.toNat →
        t.dev = { d with boot := { b with plimit := t.dev.boot.plimit, plimitOld := BitVec.ofNat 64 d.powerLimit, plimitAt := d.time } })) ∧
    d.powerNow ≤ d.powerLimit ∧
    (∃ t, exec (.throttleAdjust up) s = .next t ∧ t.dev = { d with boot := { b with thr := t.dev.boot.thr } } ∧
      (4 ≤ b.thr.toNat → b.thr.toNat ≤ 16 → t.dev.boot.thr.toNat = if up = true then min 16 (b.thr.toNat + 1) else max 4 (b.thr.toNat - 1))) ∧
    (d.duty.getLsbD 3 = false → ∃ t, exec (.overTemperature die) s = .next t ∧ t.dev.dstate = 3 ∧ t.dev.boot.phase = 2 ∧ t.dev.stopped = true ∧
      ∀ o : CoreNo, (d.launchOn o).isSome = true → (t.dev.cores.get o).ended = true) ∧
    (∀ l, d.duty.getLsbD 3 = false → d.launchOn c = some l → (d.cores.get c).ended = false → d.launchNo l.arrival = some l → ∃ t,
      exec (.lastingCoreFault c) s = .next t ∧ (t.dev.cores.get c).ended = true ∧ (t.dev.cores.get c).mode = .free ∧
      ∀ o ∈ l.cores, o ≠ c → (d.cores.get o).launch = some l.id → (d.cores.get o).ended = false →
        (t.dev.cores.get o).irq.kill = true) ∧
    (∃ t, exec (.storageError site .corrected) s = .next t ∧
      memLoad t.dev.mem (errLogBase + 12) 4 = (memLoad d.mem (errLogBase + 12) 4 + 1) % 2 ^ 32 ∧ t.dev.poison = d.poison ∧
      SameBut (fun z => errLogBase + 12 ≤ z ∧ z < errLogBase + 16) s t) ∧
    exec (.storageError (.coreState c) .lasting) s = exec (.lastingCoreFault c) s ∧
    (d.duty.getLsbD 3 = false → ((∀ o : CoreNo, (d.cores.get o).late = [] ∧ d.held.get o = none) ∧ ∀ h ∈ d.hops, h.firm = false) →
      (∃ t, exec (.storageError site .transient) s = .next t ∧ t.dev.poison = d.poison ∧
        ∀ o : CoreNo, (t.dev.cores.get o).abPoison = (d.cores.get o).abPoison ∧ (t.dev.cores.get o).wbPoison = (d.cores.get o).wbPoison ∧
          (t.dev.cores.get o).tlb = (d.cores.get o).tlb) ∧
      (∃ t, exec (.storageError (.glob a) .lasting) s = .next t ∧ a / 64 ∈ t.dev.poison ∧
        ∀ x, x ∈ t.dev.poison ↔ x = a / 64 ∨ x ∈ d.poison) ∧
      (∃ t, exec (.storageError (.ab c g) .lasting) s = .next t ∧ ∀ x, x ∈ (t.dev.cores.get c).abPoison ↔ x = g ∨ x ∈ (d.cores.get c).abPoison) ∧
      (∃ t, exec (.storageError (.wb c g) .lasting) s = .next t ∧ ∀ x, x ∈ (t.dev.cores.get c).wbPoison ↔ x = g ∨ x ∈ (d.cores.get c).wbPoison) ∧
      ∃ t, exec (.storageError (.cache c n) .lasting) s = .next t ∧ (t.dev.cores.get c).tlb = (d.cores.get c).tlb.eraseIdx n ∧
        t.dev.poison = d.poison)

/-! ### The memories -/

/-- Every step keeps every memory of the device in its canonical form. -/
def Obligations.StepKeepsMemories : Prop :=
  ∀ s t : State, s.Canonical → step s = .next t → t.Canonical
end

