-- ==== Sys2Proof/Laws/Elem.lean ====
section
/-!
SUPPORT. The laws of elements: fields of a wide register read and written, lists of elements written to a vector register or a
mask, and the active elements of an instruction.
-/

namespace Sys2Proof.Machine

/-! ### Fields -/

/-- A bit of a register with a field replaced. -/
theorem getLsbD_elemSet {n : Nat} (d : BitVec n) (w e v i : Nat) :
    (elemSet d w e v).getLsbD i =
      if e * w ≤ i ∧ i < e * w + w then decide (i < n) && v.testBit (i - e * w) else d.getLsbD i := by
  simp only [elemSet, BitVec.getLsbD_or, BitVec.getLsbD_and, BitVec.getLsbD_not, BitVec.getLsbD_shiftLeft,
    BitVec.getLsbD_ofNat, Nat.testBit_mod_two_pow, Nat.testBit_two_pow_sub_one]
  by_cases h1 : e * w ≤ i
  · by_cases h2 : i < e * w + w
    · have h3 : ¬ i < e * w := by omega
      have h4 : i - e * w < w := by omega
      by_cases hn : i < n
      · have h5 : i - e * w < n := by omega
        simp [h1, h2, h3, h4, h5, hn]
      · simp [h1, h2, hn]
    · have h4 : ¬ i - e * w < w := by omega
      by_cases hn : i < n
      · simp [h2, h4, hn]
      · simp [h2, hn, BitVec.getLsbD_of_ge d i (by omega)]
  · have h3 : i < e * w := by omega
    by_cases hn : i < n
    · simp [h1, h3, hn]
    · simp [h1, hn, BitVec.getLsbD_of_ge d i (by omega)]

/-- A field written reads back, cut to its width. -/
theorem elemGet_elemSet_same {n : Nat} (d : BitVec n) (w e v : Nat) (h : e * w + w ≤ n) :
    elemGet (elemSet d w e v) w e = v % 2 ^ w := by
  unfold elemGet
  apply Nat.eq_of_testBit_eq
  intro i
  rw [BitVec.testBit_toNat, BitVec.getLsbD_extractLsb', getLsbD_elemSet, Nat.testBit_mod_two_pow]
  by_cases hi : i < w
  · have h1 : e * w + i < e * w + w := by omega
    have h2 : e * w + i < n := by omega
    simp [hi, h2]
  · simp [hi]

/-- Every other field reads as before. -/
theorem elemGet_elemSet_ne {n : Nat} (d : BitVec n) (w e e' v : Nat) (h : e' ≠ e) :
    elemGet (elemSet d w e v) w e' = elemGet d w e' := by
  unfold elemGet
  congr 1
  apply BitVec.eq_of_getLsbD_eq
  intro i hi
  rw [BitVec.getLsbD_extractLsb', BitVec.getLsbD_extractLsb', getLsbD_elemSet]
  have hn : ¬ (e * w ≤ e' * w + i ∧ e' * w + i < e * w + w) := by
    rintro ⟨h1, h2⟩
    rcases Nat.lt_or_gt_of_ne h with hlt | hgt
    · have : (e' + 1) * w ≤ e * w := Nat.mul_le_mul_right w hlt
      rw [Nat.add_mul] at this; omega
    · have : (e + 1) * w ≤ e' * w := Nat.mul_le_mul_right w hgt
      rw [Nat.add_mul] at this; omega
  simp [hn]

/-- A field is less than two to its width. -/
theorem elemGet_lt {n : Nat} (d : BitVec n) (w e : Nat) : elemGet d w e < 2 ^ w := (d.extractLsb' (e * w) w).isLt

/-! ### Lists of elements -/

/-- A field that no entry of a list names reads as before. -/
theorem elemGet_foldl_other {n : Nat} (w e : Nat) (l : List (Nat × Nat)) (d : BitVec n) (h : ∀ p ∈ l, p.1 ≠ e) :
    elemGet (l.foldl (fun d p => elemSet d w p.1 p.2) d) w e = elemGet d w e := by
  induction l generalizing d with
  | nil => rfl
  | cons p t ih =>
    rw [List.foldl_cons, ih _ fun q hq => h q (List.mem_cons_of_mem p hq)]
    exact elemGet_elemSet_ne d w p.1 e p.2 (h p List.mem_cons_self).symm

/-- Elements written by a function of their number read back as it gives them. -/
theorem elemGet_foldl_map {n : Nat} (w e : Nat) (f : Nat → Nat) (es : List Nat) (d : BitVec n) (he : e ∈ es)
    (hb : e * w + w ≤ n) :
    elemGet ((es.map fun e => (e, f e)).foldl (fun d p => elemSet d w p.1 p.2) d) w e = f e % 2 ^ w := by
  induction es generalizing d with
  | nil => exact absurd he (by simp)
  | cons a t ih =>
    simp only [List.map_cons, List.foldl_cons]
    by_cases ht : e ∈ t
    · exact ih _ ht
    · have ha : e = a := (List.mem_cons.mp he).resolve_right ht
      subst ha
      rw [elemGet_foldl_other]
      · exact elemGet_elemSet_same d w e (f e) hb
      · rintro p hp
        obtain ⟨x, hx, rfl⟩ := List.mem_map.mp hp
        rintro rfl
        exact ht hx

@[simp] theorem length_upFrom (lo n : Nat) : (upFrom lo n).length = n := by
  induction n generalizing lo with
  | zero => rfl
  | succ n ih => simp [upFrom, ih]

/-- The numbers from `lo` on. -/
@[simp] theorem mem_upFrom (lo n x : Nat) : x ∈ upFrom lo n ↔ lo ≤ x ∧ x < lo + n := by
  induction n generalizing lo with
  | zero => simp [upFrom]
  | succ n ih => simp [upFrom, ih]; omega

/-- The active elements are those below `VL` whose mask bit is one (R169). -/
theorem mem_active (s : State) (m : MReg) (e : Nat) : e ∈ s.active m ↔ e < s.vl ∧ s.srcCore.thr.maskBit m e = true := by
  simp [State.active]

/-- What a write of elements by a function of their number leaves in a register (R70, R71). -/
theorem elem_write_map (v : VecReg) (t : Ty) (es : List Nat) (f : Nat → Nat) (e : Nat) (hb : e * t.bits + t.bits ≤ 65536) :
    (v.write t (es.map fun e => (e, f e))).elem t e = if e ∈ es then f e % 2 ^ t.bits else v.elem t e := by
  by_cases he : e ∈ es
  · rw [if_pos he]; exact elemGet_foldl_map t.bits e f es v.data he hb
  · rw [if_neg he]
    refine elemGet_foldl_other t.bits e _ v.data ?_
    rintro p hp
    obtain ⟨x, hx, rfl⟩ := List.mem_map.mp hp
    rintro rfl
    exact he hx

@[simp] theorem write_ty (v : VecReg) (t : Ty) (l : List (Nat × Nat)) : (v.write t l).ty = t := rfl
@[simp] theorem write_span (v : VecReg) (t : Ty) (l : List (Nat × Nat)) : (v.write t l).span = 0 := rfl
@[simp] theorem write_side (v : VecReg) (t : Ty) (l : List (Nat × Nat)) : (v.write t l).side = v.side := rfl
@[simp] theorem write_sdirty (v : VecReg) (t : Ty) (l : List (Nat × Nat)) : (v.write t l).sdirty = v.sdirty := rfl

/-- A mask bit that no entry of a list names reads as before. -/
theorem maskBits_foldl_other (e : Nat) (l : List (Nat × Bool)) (b : BitVec 8192) (h : ∀ p ∈ l, p.1 ≠ e) :
    (l.foldl (fun b p => elemSet b 1 p.1 (if p.2 then 1 else 0)) b).getLsbD e = b.getLsbD e := by
  induction l generalizing b with
  | nil => rfl
  | cons p t ih =>
    rw [List.foldl_cons, ih _ fun q hq => h q (List.mem_cons_of_mem p hq), getLsbD_elemSet]
    have hp : p.1 ≠ e := h p List.mem_cons_self
    have hn : ¬ (p.1 * 1 ≤ e ∧ e < p.1 * 1 + 1) := by omega
    rw [if_neg hn]

/-- Mask bits written by a function of their number read back as it gives them. -/
theorem maskBits_foldl_map (e : Nat) (f : Nat → Bool) (es : List Nat) (b : BitVec 8192) (he : e ∈ es) (hb : e < 8192) :
    ((es.map fun e => (e, f e)).foldl (fun b p => elemSet b 1 p.1 (if p.2 then 1 else 0)) b).getLsbD e = f e := by
  induction es generalizing b with
  | nil => exact absurd he (by simp)
  | cons a t ih =>
    simp only [List.map_cons, List.foldl_cons]
    by_cases ht : e ∈ t
    · exact ih _ ht
    · have ha : e = a := (List.mem_cons.mp he).resolve_right ht
      subst ha
      rw [maskBits_foldl_other]
      · rw [getLsbD_elemSet]
        have h1 : e * 1 ≤ e ∧ e < e * 1 + 1 := by omega
        rw [if_pos h1]
        cases f e <;> simp [hb]
      · rintro p hp
        obtain ⟨x, hx, rfl⟩ := List.mem_map.mp hp
        rintro rfl
        exact ht hx

end Sys2Proof.Machine
end

