-- ==== Sys2Proof/Laws/Memory.lean ====
section
/-!
SUPPORT. The laws of sparse memory: reading after writing, and the canonical form kept by every memory operation.
-/

namespace Sys2Proof.Machine

/-! ### The canonical form -/

/-- A memory sorted from a bound is sorted from every lower one. -/
theorem memSortedFrom_weaken {m : Memory} {lo lo' : Nat} (h : memSortedFrom (some lo) m = true) (hle : lo' ≤ lo) :
    memSortedFrom (some lo') m = true := by
  cases m with
  | nil => rfl
  | cons p t =>
    obtain ⟨a, v⟩ := p
    simp only [memSortedFrom, Bool.and_eq_true, decide_eq_true_eq] at h ⊢
    exact ⟨⟨by omega, h.1.2⟩, h.2⟩

/-- Below a bound a memory sorted from it lists nothing. -/
theorem memRead_below {m : Memory} {lo a : Nat} (h : memSortedFrom (some lo) m = true) (ha : a ≤ lo) : memRead m a = 0 := by
  cases m with
  | nil => rfl
  | cons p t =>
    obtain ⟨b, v⟩ := p
    simp only [memSortedFrom, Bool.and_eq_true, decide_eq_true_eq] at h
    have hne : a ≠ b := by omega
    have hlt : a < b := by omega
    simp [memRead, hne, hlt]

/-- A write above a bound leaves a memory sorted from it. -/
theorem memSortedFrom_memWrite {m : Memory} {lo a : Nat} (v : Byte) (h : memSortedFrom (some lo) m = true) (ha : lo < a) :
    memSortedFrom (some lo) (memWrite m a v) = true := by
  induction m generalizing lo with
  | nil =>
    unfold memWrite
    split
    · rfl
    · next hv => simpa [memSortedFrom, ha] using hv
  | cons p t ih =>
    obtain ⟨b, u⟩ := p
    have h0 := h
    simp only [memSortedFrom, Bool.and_eq_true, decide_eq_true_eq] at h
    obtain ⟨⟨hlo, hu⟩, ht⟩ := h
    unfold memWrite
    by_cases hab : a < b
    · simp only [hab, if_true]
      by_cases hv : v = 0#8
      · simpa [hv] using h0
      · simpa [hv, memSortedFrom, ha, hab, ht] using hu
    · by_cases heq : a = b
      · subst heq
        by_cases hv : v = 0#8
        · simpa [hv] using memSortedFrom_weaken ht (by omega)
        · simp [hv, memSortedFrom, ha, ht]
      · simp only [hab, heq, if_false]
        simp only [memSortedFrom, Bool.and_eq_true, decide_eq_true_eq]
        exact ⟨⟨hlo, hu⟩, ih ht (by omega)⟩

/-- Writing one byte keeps the canonical form. -/
theorem wf_memWrite {m : Memory} (a : Nat) (v : Byte) (h : m.wf = true) : (memWrite m a v).wf = true := by
  cases m with
  | nil =>
    unfold memWrite
    split
    · rfl
    · next hv => simpa [Memory.wf, memSortedFrom] using hv
  | cons p t =>
    obtain ⟨b, u⟩ := p
    simp only [Memory.wf, memSortedFrom, Bool.and_eq_true, Bool.true_and] at h
    obtain ⟨hu, ht⟩ := h
    unfold memWrite
    by_cases hab : a < b
    · simp only [hab, if_true]
      by_cases hv : v = 0#8 <;> simpa [hv, Memory.wf, memSortedFrom, hab, ht] using hu
    · by_cases heq : a = b
      · subst heq
        by_cases hv : v = 0#8
        · simp only [lt_irrefl, if_false, if_true, hv]
          cases t with
          | nil => rfl
          | cons q r => simp_all [Memory.wf, memSortedFrom]
        · simp [hv, Memory.wf, memSortedFrom, ht]
      · simp only [hab, heq, if_false, Memory.wf, memSortedFrom, Bool.and_eq_true, Bool.true_and]
        exact ⟨hu, memSortedFrom_memWrite v ht (by omega)⟩

/-- Writing a list of bytes keeps the canonical form. -/
theorem wf_memPut {m : Memory} (a : Nat) (bs : List Byte) (h : m.wf = true) : (memPut m a bs).wf = true := by
  induction bs generalizing m a with
  | nil => exact h
  | cons b t ih => exact ih (a + 1) (wf_memWrite a b h)

/-- Writing a value keeps the canonical form. -/
theorem wf_memStore {m : Memory} (a v n : Nat) (h : m.wf = true) : (memStore m a v n).wf = true := by
  induction n generalizing m a v with
  | zero => exact h
  | succ n ih => exact ih (a + 1) (v / 256) (wf_memWrite a _ h)

/-- The memory of the machine after reset is canonical. -/
theorem wf_reset : State.reset.dev.mem.wf = true := rfl

/-! ### Reading after writing -/

/-- One byte written reads back, and every other address reads as before, in a memory sorted from a bound. -/
theorem memRead_memWrite_from {m : Memory} {lo : Option Nat} (h : memSortedFrom lo m = true) (a x : Nat) (v : Byte) :
    memRead (memWrite m a v) x = if x = a then v else memRead m x := by
  induction m generalizing lo with
  | nil =>
    unfold memWrite
    by_cases hv : v = 0#8
    · simp [hv, memRead]
    · by_cases hx : x = a <;> simp [hv, hx, memRead]
  | cons p t ih =>
    obtain ⟨b, u⟩ := p
    have ht : memSortedFrom (some b) t = true := by
      simp only [memSortedFrom, Bool.and_eq_true] at h; exact h.2
    unfold memWrite
    by_cases hab : a < b
    · simp only [hab, if_true]
      by_cases hv : v = 0
      · rw [if_pos hv]
        by_cases hx : x = a
        · subst hx
          have hne : x ≠ b := by omega
          simpa [memRead, hne, hab] using hv.symm
        · simp [hx]
      · rw [if_neg hv]
        by_cases hx : x = a
        · simp [memRead, hx]
        · by_cases hlt : x < a
          · have h1 : x ≠ b := by omega
            have h2 : x < b := by omega
            simp [memRead, hx, hlt, h1, h2]
          · simp [memRead, hx, hlt]
    · by_cases heq : a = b
      · subst heq
        by_cases hv : v = 0#8
        · simp only [lt_irrefl, if_false, if_true, hv]
          by_cases hx : x = a
          · subst hx; simpa using memRead_below ht (le_refl _)
          · by_cases hlt : x < a
            · simp [memRead, hx, hlt, memRead_below ht (le_of_lt hlt)]
            · simp [memRead, hx, hlt]
        · by_cases hx : x = a
          · simp [hv, memRead, hx]
          · by_cases hlt : x < a <;> simp [hv, memRead, hx, hlt]
      · simp only [hab, heq, if_false]
        by_cases hx : x = b
        · subst hx; simp [memRead]; omega
        · by_cases hlt : x < b
          · have hxa : x ≠ a := by omega
            simp [memRead, hx, hlt, hxa]
          · simp only [memRead, hx, hlt, if_false]
            exact ih ht

/-- One byte written reads back, and every other address reads as before. -/
theorem memRead_memWrite {m : Memory} (h : m.wf = true) (a x : Nat) (v : Byte) :
    memRead (memWrite m a v) x = if x = a then v else memRead m x := memRead_memWrite_from h a x v

/-- The bytes of a list written read back in place, and every other address reads as before. -/
theorem memRead_memPut {m : Memory} (h : m.wf = true) (a x : Nat) (bs : List Byte) :
    memRead (memPut m a bs) x = if a ≤ x ∧ x < a + bs.length then bs.getD (x - a) 0 else memRead m x := by
  induction bs generalizing m a with
  | nil => simp [memPut]
  | cons b t ih =>
    rw [memPut, ih (wf_memWrite a b h), memRead_memWrite h]
    by_cases h1 : a + 1 ≤ x ∧ x < a + 1 + t.length
    · have h2 : a ≤ x ∧ x < a + (b :: t).length := by simp; omega
      have h3 : x - a = (x - (a + 1)) + 1 := by omega
      simp only [h1, h2, and_self, if_true, h3, List.getD_cons_succ]
    · simp only [h1, if_false]
      by_cases hx : x = a
      · subst hx; simp
      · have h2 : ¬ (a ≤ x ∧ x < a + (b :: t).length) := by simp; omega
        rw [if_neg hx, if_neg h2]

/-- Bytes read are the bytes at the addresses. -/
theorem getD_memBytes (m : Memory) (a n i : Nat) (h : i < n) : (memBytes m a n).getD i 0 = memRead m (a + i) := by
  induction n generalizing a i with
  | zero => omega
  | succ n ih =>
    cases i with
    | zero => simp [memBytes]
    | succ i =>
      simp only [memBytes, List.getD_cons_succ]
      rw [ih (a + 1) i (by omega)]
      congr 1
      omega

@[simp] theorem length_memBytes (m : Memory) (a n : Nat) : (memBytes m a n).length = n := by
  induction n generalizing a with
  | zero => rfl
  | succ n ih => simp [memBytes, ih]

@[simp] theorem length_valBytes (v n : Nat) : (valBytes v n).length = n := by
  induction n generalizing v with
  | zero => rfl
  | succ n ih => simp [valBytes, ih]

/-- A value survives its bytes (R4). -/
theorem bytesVal_valBytes (v n : Nat) : bytesVal (valBytes v n) = v % 256 ^ n := by
  induction n generalizing v with
  | zero => simp [valBytes, bytesVal, Nat.mod_one]
  | succ n ih =>
    simp only [valBytes, bytesVal, ih, BitVec.toNat_ofNat, show (2 : Nat) ^ 8 = 256 from rfl]
    rw [Nat.pow_succ, Nat.mul_comm (256 ^ n) 256, Nat.mod_mul]

/-- A value loaded is that of the bytes. -/
theorem memLoad_eq_bytesVal (m : Memory) (a n : Nat) : memLoad m a n = bytesVal (memBytes m a n) := by
  induction n generalizing a with
  | zero => rfl
  | succ n ih => simp [memLoad, memBytes, bytesVal, ih]

end Sys2Proof.Machine
end

