-- ==== Sys2Proof/Laws/PerInstr.lean ====
section
/-!
SUPPORT. The statement made per instruction: a device event of the opcode table, and nothing else, has no word.
-/

open Sys2Proof

/-- An instruction that only the agenda gives its turn has no fields of an encoding, and every other instruction has some. -/
def Sys2Proof.Laws.EventsHaveNoWord.Statement (i : Instr) : Prop := (info i).place = .event ↔ fields i = none

/-- The two sides of the statement, for an instruction with a word. -/
theorem Sys2Proof.Laws.EventsHaveNoWord.of_word {i : Instr} {r : Raw} (h : fields i = some r) (p : (info i).place ≠ .event) :
    Sys2Proof.Laws.EventsHaveNoWord.Statement i :=
  ⟨fun e => absurd e p, fun e => by rw [h] at e; cases e⟩

/-- The same for an event. -/
theorem Sys2Proof.Laws.EventsHaveNoWord.of_event {i : Instr} (h : fields i = none) (p : (info i).place = .event) :
    Sys2Proof.Laws.EventsHaveNoWord.Statement i :=
  ⟨fun _ => h, fun _ => p⟩

theorem Sys2Proof.Laws.EventsHaveNoWord.add (ty : Ty) (d : XReg) (a : XReg) (b : XReg) :
    Sys2Proof.Laws.EventsHaveNoWord.Statement (.add ty d a b) := Sys2Proof.Laws.EventsHaveNoWord.of_word rfl nofun
theorem Sys2Proof.Laws.EventsHaveNoWord.sub (ty : Ty) (d : XReg) (a : XReg) (b : XReg) :
    Sys2Proof.Laws.EventsHaveNoWord.Statement (.sub ty d a b) := Sys2Proof.Laws.EventsHaveNoWord.of_word rfl nofun
theorem Sys2Proof.Laws.EventsHaveNoWord.and (ty : Ty) (d : XReg) (a : XReg) (b : XReg) :
    Sys2Proof.Laws.EventsHaveNoWord.Statement (.and ty d a b) := Sys2Proof.Laws.EventsHaveNoWord.of_word rfl nofun
theorem Sys2Proof.Laws.EventsHaveNoWord.or (ty : Ty) (d : XReg) (a : XReg) (b : XReg) :
    Sys2Proof.Laws.EventsHaveNoWord.Statement (.or ty d a b) := Sys2Proof.Laws.EventsHaveNoWord.of_word rfl nofun
theorem Sys2Proof.Laws.EventsHaveNoWord.xor (ty : Ty) (d : XReg) (a : XReg) (b : XReg) :
    Sys2Proof.Laws.EventsHaveNoWord.Statement (.xor ty d a b) := Sys2Proof.Laws.EventsHaveNoWord.of_word rfl nofun
theorem Sys2Proof.Laws.EventsHaveNoWord.sll (ty : Ty) (d : XReg) (a : XReg) (b : XReg) :
    Sys2Proof.Laws.EventsHaveNoWord.Statement (.sll ty d a b) := Sys2Proof.Laws.EventsHaveNoWord.of_word rfl nofun
theorem Sys2Proof.Laws.EventsHaveNoWord.srl (ty : Ty) (d : XReg) (a : XReg) (b : XReg) :
    Sys2Proof.Laws.EventsHaveNoWord.Statement (.srl ty d a b) := Sys2Proof.Laws.EventsHaveNoWord.of_word rfl nofun
theorem Sys2Proof.Laws.EventsHaveNoWord.sra (ty : Ty) (d : XReg) (a : XReg) (b : XReg) :
    Sys2Proof.Laws.EventsHaveNoWord.Statement (.sra ty d a b) := Sys2Proof.Laws.EventsHaveNoWord.of_word rfl nofun
theorem Sys2Proof.Laws.EventsHaveNoWord.slt (ty : Ty) (d : XReg) (a : XReg) (b : XReg) :
    Sys2Proof.Laws.EventsHaveNoWord.Statement (.slt ty d a b) := Sys2Proof.Laws.EventsHaveNoWord.of_word rfl nofun
theorem Sys2Proof.Laws.EventsHaveNoWord.min (ty : Ty) (d : XReg) (a : XReg) (b : XReg) :
    Sys2Proof.Laws.EventsHaveNoWord.Statement (.min ty d a b) := Sys2Proof.Laws.EventsHaveNoWord.of_word rfl nofun
theorem Sys2Proof.Laws.EventsHaveNoWord.max (ty : Ty) (d : XReg) (a : XReg) (b : XReg) :
    Sys2Proof.Laws.EventsHaveNoWord.Statement (.max ty d a b) := Sys2Proof.Laws.EventsHaveNoWord.of_word rfl nofun
theorem Sys2Proof.Laws.EventsHaveNoWord.csel (ty : Ty) (d : XReg) (a : XReg) (b : XReg) (c : XReg) :
    Sys2Proof.Laws.EventsHaveNoWord.Statement (.csel ty d a b c) := Sys2Proof.Laws.EventsHaveNoWord.of_word rfl nofun
theorem Sys2Proof.Laws.EventsHaveNoWord.addsl (ty : Ty) (d : XReg) (a : XReg) (b : XReg) (n : BitVec 3) :
    Sys2Proof.Laws.EventsHaveNoWord.Statement (.addsl ty d a b n) := Sys2Proof.Laws.EventsHaveNoWord.of_word rfl nofun
theorem Sys2Proof.Laws.EventsHaveNoWord.mul (ty : Ty) (d : XReg) (a : XReg) (b : XReg) :
    Sys2Proof.Laws.EventsHaveNoWord.Statement (.mul ty d a b) := Sys2Proof.Laws.EventsHaveNoWord.of_word rfl nofun
theorem Sys2Proof.Laws.EventsHaveNoWord.mulh (ty : Ty) (d : XReg) (a : XReg) (b : XReg) :
    Sys2Proof.Laws.EventsHaveNoWord.Statement (.mulh ty d a b) := Sys2Proof.Laws.EventsHaveNoWord.of_word rfl nofun
theorem Sys2Proof.Laws.EventsHaveNoWord.div (ty : Ty) (d : XReg) (a : XReg) (b : XReg) :
    Sys2Proof.Laws.EventsHaveNoWord.Statement (.div ty d a b) := Sys2Proof.Laws.EventsHaveNoWord.of_word rfl nofun
theorem Sys2Proof.Laws.EventsHaveNoWord.rem (ty : Ty) (d : XReg) (a : XReg) (b : XReg) :
    Sys2Proof.Laws.EventsHaveNoWord.Statement (.rem ty d a b) := Sys2Proof.Laws.EventsHaveNoWord.of_word rfl nofun
theorem Sys2Proof.Laws.EventsHaveNoWord.clz (ty : Ty) (d : XReg) (a : XReg) :
    Sys2Proof.Laws.EventsHaveNoWord.Statement (.clz ty d a) := Sys2Proof.Laws.EventsHaveNoWord.of_word rfl nofun
theorem Sys2Proof.Laws.EventsHaveNoWord.ctz (ty : Ty) (d : XReg) (a : XReg) :
    Sys2Proof.Laws.EventsHaveNoWord.Statement (.ctz ty d a) := Sys2Proof.Laws.EventsHaveNoWord.of_word rfl nofun
theorem Sys2Proof.Laws.EventsHaveNoWord.popc (ty : Ty) (d : XReg) (a : XReg) :
    Sys2Proof.Laws.EventsHaveNoWord.Statement (.popc ty d a) := Sys2Proof.Laws.EventsHaveNoWord.of_word rfl nofun
theorem Sys2Proof.Laws.EventsHaveNoWord.ext (ty : Ty) (d : XReg) (a : XReg) :
    Sys2Proof.Laws.EventsHaveNoWord.Statement (.ext ty d a) := Sys2Proof.Laws.EventsHaveNoWord.of_word rfl nofun
theorem Sys2Proof.Laws.EventsHaveNoWord.addi (ty : Ty) (d : XReg) (a : XReg) (imm : BitVec 16) :
    Sys2Proof.Laws.EventsHaveNoWord.Statement (.addi ty d a imm) := Sys2Proof.Laws.EventsHaveNoWord.of_word rfl nofun
theorem Sys2Proof.Laws.EventsHaveNoWord.andi (ty : Ty) (d : XReg) (a : XReg) (imm : BitVec 16) :
    Sys2Proof.Laws.EventsHaveNoWord.Statement (.andi ty d a imm) := Sys2Proof.Laws.EventsHaveNoWord.of_word rfl nofun
theorem Sys2Proof.Laws.EventsHaveNoWord.ori (ty : Ty) (d : XReg) (a : XReg) (imm : BitVec 16) :
    Sys2Proof.Laws.EventsHaveNoWord.Statement (.ori ty d a imm) := Sys2Proof.Laws.EventsHaveNoWord.of_word rfl nofun
theorem Sys2Proof.Laws.EventsHaveNoWord.xori (ty : Ty) (d : XReg) (a : XReg) (imm : BitVec 16) :
    Sys2Proof.Laws.EventsHaveNoWord.Statement (.xori ty d a imm) := Sys2Proof.Laws.EventsHaveNoWord.of_word rfl nofun
theorem Sys2Proof.Laws.EventsHaveNoWord.slli (ty : Ty) (d : XReg) (a : XReg) (n : BitVec 6) :
    Sys2Proof.Laws.EventsHaveNoWord.Statement (.slli ty d a n) := Sys2Proof.Laws.EventsHaveNoWord.of_word rfl nofun
theorem Sys2Proof.Laws.EventsHaveNoWord.srli (ty : Ty) (d : XReg) (a : XReg) (n : BitVec 6) :
    Sys2Proof.Laws.EventsHaveNoWord.Statement (.srli ty d a n) := Sys2Proof.Laws.EventsHaveNoWord.of_word rfl nofun
theorem Sys2Proof.Laws.EventsHaveNoWord.srai (ty : Ty) (d : XReg) (a : XReg) (n : BitVec 6) :
    Sys2Proof.Laws.EventsHaveNoWord.Statement (.srai ty d a n) := Sys2Proof.Laws.EventsHaveNoWord.of_word rfl nofun
theorem Sys2Proof.Laws.EventsHaveNoWord.slti (ty : Ty) (d : XReg) (a : XReg) (imm : BitVec 16) :
    Sys2Proof.Laws.EventsHaveNoWord.Statement (.slti ty d a imm) := Sys2Proof.Laws.EventsHaveNoWord.of_word rfl nofun
theorem Sys2Proof.Laws.EventsHaveNoWord.muli (ty : Ty) (d : XReg) (a : XReg) (imm : BitVec 16) :
    Sys2Proof.Laws.EventsHaveNoWord.Statement (.muli ty d a imm) := Sys2Proof.Laws.EventsHaveNoWord.of_word rfl nofun
theorem Sys2Proof.Laws.EventsHaveNoWord.lim (d : XReg) (imm : BitVec 32) :
    Sys2Proof.Laws.EventsHaveNoWord.Statement (.lim d imm) := Sys2Proof.Laws.EventsHaveNoWord.of_word rfl nofun
theorem Sys2Proof.Laws.EventsHaveNoWord.lih (d : XReg) (imm : BitVec 32) :
    Sys2Proof.Laws.EventsHaveNoWord.Statement (.lih d imm) := Sys2Proof.Laws.EventsHaveNoWord.of_word rfl nofun
theorem Sys2Proof.Laws.EventsHaveNoWord.addpc (d : XReg) (imm : BitVec 32) :
    Sys2Proof.Laws.EventsHaveNoWord.Statement (.addpc d imm) := Sys2Proof.Laws.EventsHaveNoWord.of_word rfl nofun
theorem Sys2Proof.Laws.EventsHaveNoWord.nop :
    Sys2Proof.Laws.EventsHaveNoWord.Statement (.nop) := Sys2Proof.Laws.EventsHaveNoWord.of_word rfl nofun
theorem Sys2Proof.Laws.EventsHaveNoWord.mov (d : XReg) (a : XReg) :
    Sys2Proof.Laws.EventsHaveNoWord.Statement (.mov d a) := Sys2Proof.Laws.EventsHaveNoWord.of_word rfl nofun
theorem Sys2Proof.Laws.EventsHaveNoWord.addiR (d : XReg) (imm : BitVec 14) :
    Sys2Proof.Laws.EventsHaveNoWord.Statement (.addiR d imm) := Sys2Proof.Laws.EventsHaveNoWord.of_word rfl nofun
theorem Sys2Proof.Laws.EventsHaveNoWord.addR (d : XReg) (a : XReg) :
    Sys2Proof.Laws.EventsHaveNoWord.Statement (.addR d a) := Sys2Proof.Laws.EventsHaveNoWord.of_word rfl nofun
theorem Sys2Proof.Laws.EventsHaveNoWord.subR (d : XReg) (a : XReg) :
    Sys2Proof.Laws.EventsHaveNoWord.Statement (.subR d a) := Sys2Proof.Laws.EventsHaveNoWord.of_word rfl nofun
theorem Sys2Proof.Laws.EventsHaveNoWord.andR (d : XReg) (a : XReg) :
    Sys2Proof.Laws.EventsHaveNoWord.Statement (.andR d a) := Sys2Proof.Laws.EventsHaveNoWord.of_word rfl nofun
theorem Sys2Proof.Laws.EventsHaveNoWord.orR (d : XReg) (a : XReg) :
    Sys2Proof.Laws.EventsHaveNoWord.Statement (.orR d a) := Sys2Proof.Laws.EventsHaveNoWord.of_word rfl nofun
theorem Sys2Proof.Laws.EventsHaveNoWord.xorR (d : XReg) (a : XReg) :
    Sys2Proof.Laws.EventsHaveNoWord.Statement (.xorR d a) := Sys2Proof.Laws.EventsHaveNoWord.of_word rfl nofun
theorem Sys2Proof.Laws.EventsHaveNoWord.shli (d : XReg) (n : BitVec 6) :
    Sys2Proof.Laws.EventsHaveNoWord.Statement (.shli d n) := Sys2Proof.Laws.EventsHaveNoWord.of_word rfl nofun
theorem Sys2Proof.Laws.EventsHaveNoWord.shri (d : XReg) (n : BitVec 6) :
    Sys2Proof.Laws.EventsHaveNoWord.Statement (.shri d n) := Sys2Proof.Laws.EventsHaveNoWord.of_word rfl nofun
theorem Sys2Proof.Laws.EventsHaveNoWord.sraiR (d : XReg) (n : BitVec 6) :
    Sys2Proof.Laws.EventsHaveNoWord.Statement (.sraiR d n) := Sys2Proof.Laws.EventsHaveNoWord.of_word rfl nofun
theorem Sys2Proof.Laws.EventsHaveNoWord.ldR (d : XReg) (a : XReg) (off : BitVec 14) :
    Sys2Proof.Laws.EventsHaveNoWord.Statement (.ldR d a off) := Sys2Proof.Laws.EventsHaveNoWord.of_word rfl nofun
theorem Sys2Proof.Laws.EventsHaveNoWord.stR (v : XReg) (a : XReg) (off : BitVec 14) :
    Sys2Proof.Laws.EventsHaveNoWord.Statement (.stR v a off) := Sys2Proof.Laws.EventsHaveNoWord.of_word rfl nofun
theorem Sys2Proof.Laws.EventsHaveNoWord.beqz (a : XReg) (off : BitVec 14) :
    Sys2Proof.Laws.EventsHaveNoWord.Statement (.beqz a off) := Sys2Proof.Laws.EventsHaveNoWord.of_word rfl nofun
theorem Sys2Proof.Laws.EventsHaveNoWord.bnez (a : XReg) (off : BitVec 14) :
    Sys2Proof.Laws.EventsHaveNoWord.Statement (.bnez a off) := Sys2Proof.Laws.EventsHaveNoWord.of_word rfl nofun
theorem Sys2Proof.Laws.EventsHaveNoWord.wmovR (d : WReg) (a : WReg) :
    Sys2Proof.Laws.EventsHaveNoWord.Statement (.wmovR d a) := Sys2Proof.Laws.EventsHaveNoWord.of_word rfl nofun
theorem Sys2Proof.Laws.EventsHaveNoWord.waddiR (d : WReg) (imm : BitVec 14) :
    Sys2Proof.Laws.EventsHaveNoWord.Statement (.waddiR d imm) := Sys2Proof.Laws.EventsHaveNoWord.of_word rfl nofun
theorem Sys2Proof.Laws.EventsHaveNoWord.waddR (d : WReg) (a : WReg) :
    Sys2Proof.Laws.EventsHaveNoWord.Statement (.waddR d a) := Sys2Proof.Laws.EventsHaveNoWord.of_word rfl nofun
theorem Sys2Proof.Laws.EventsHaveNoWord.wfaddR (d : WReg) (a : WReg) :
    Sys2Proof.Laws.EventsHaveNoWord.Statement (.wfaddR d a) := Sys2Proof.Laws.EventsHaveNoWord.of_word rfl nofun
theorem Sys2Proof.Laws.EventsHaveNoWord.wfmulR (d : WReg) (a : WReg) :
    Sys2Proof.Laws.EventsHaveNoWord.Statement (.wfmulR d a) := Sys2Proof.Laws.EventsHaveNoWord.of_word rfl nofun
theorem Sys2Proof.Laws.EventsHaveNoWord.wlatR (a : WReg) (l : LatchNo) :
    Sys2Proof.Laws.EventsHaveNoWord.Statement (.wlatR a l) := Sys2Proof.Laws.EventsHaveNoWord.of_word rfl nofun
theorem Sys2Proof.Laws.EventsHaveNoWord.wfmalR (d : WReg) (a : WReg) (l : LatchNo) :
    Sys2Proof.Laws.EventsHaveNoWord.Statement (.wfmalR d a l) := Sys2Proof.Laws.EventsHaveNoWord.of_word rfl nofun
theorem Sys2Proof.Laws.EventsHaveNoWord.vaddiR (d : VReg) (imm : BitVec 14) :
    Sys2Proof.Laws.EventsHaveNoWord.Statement (.vaddiR d imm) := Sys2Proof.Laws.EventsHaveNoWord.of_word rfl nofun
theorem Sys2Proof.Laws.EventsHaveNoWord.vmov (d : VReg) (a : VReg) :
    Sys2Proof.Laws.EventsHaveNoWord.Statement (.vmov d a) := Sys2Proof.Laws.EventsHaveNoWord.of_word rfl nofun
theorem Sys2Proof.Laws.EventsHaveNoWord.setvli (d : XReg) (n : BitVec 14) :
    Sys2Proof.Laws.EventsHaveNoWord.Statement (.setvli d n) := Sys2Proof.Laws.EventsHaveNoWord.of_word rfl nofun
theorem Sys2Proof.Laws.EventsHaveNoWord.tfetchR (off : BitVec 14) :
    Sys2Proof.Laws.EventsHaveNoWord.Statement (.tfetchR off) := Sys2Proof.Laws.EventsHaveNoWord.of_word rfl nofun
theorem Sys2Proof.Laws.EventsHaveNoWord.tstopR :
    Sys2Proof.Laws.EventsHaveNoWord.Statement (.tstopR) := Sys2Proof.Laws.EventsHaveNoWord.of_word rfl nofun
theorem Sys2Proof.Laws.EventsHaveNoWord.fadd (ty : Ty) (d : XReg) (a : XReg) (b : XReg) (mode : Mode) :
    Sys2Proof.Laws.EventsHaveNoWord.Statement (.fadd ty d a b mode) := Sys2Proof.Laws.EventsHaveNoWord.of_word rfl nofun
theorem Sys2Proof.Laws.EventsHaveNoWord.fsub (ty : Ty) (d : XReg) (a : XReg) (b : XReg) (mode : Mode) :
    Sys2Proof.Laws.EventsHaveNoWord.Statement (.fsub ty d a b mode) := Sys2Proof.Laws.EventsHaveNoWord.of_word rfl nofun
theorem Sys2Proof.Laws.EventsHaveNoWord.fmul (ty : Ty) (d : XReg) (a : XReg) (b : XReg) (mode : Mode) :
    Sys2Proof.Laws.EventsHaveNoWord.Statement (.fmul ty d a b mode) := Sys2Proof.Laws.EventsHaveNoWord.of_word rfl nofun
theorem Sys2Proof.Laws.EventsHaveNoWord.fdiv (ty : Ty) (d : XReg) (a : XReg) (b : XReg) (mode : Mode) :
    Sys2Proof.Laws.EventsHaveNoWord.Statement (.fdiv ty d a b mode) := Sys2Proof.Laws.EventsHaveNoWord.of_word rfl nofun
theorem Sys2Proof.Laws.EventsHaveNoWord.fsqrt (ty : Ty) (d : XReg) (a : XReg) (mode : Mode) :
    Sys2Proof.Laws.EventsHaveNoWord.Statement (.fsqrt ty d a mode) := Sys2Proof.Laws.EventsHaveNoWord.of_word rfl nofun
theorem Sys2Proof.Laws.EventsHaveNoWord.fmin (ty : Ty) (d : XReg) (a : XReg) (b : XReg) (mode : Mode) :
    Sys2Proof.Laws.EventsHaveNoWord.Statement (.fmin ty d a b mode) := Sys2Proof.Laws.EventsHaveNoWord.of_word rfl nofun
theorem Sys2Proof.Laws.EventsHaveNoWord.fmax (ty : Ty) (d : XReg) (a : XReg) (b : XReg) (mode : Mode) :
    Sys2Proof.Laws.EventsHaveNoWord.Statement (.fmax ty d a b mode) := Sys2Proof.Laws.EventsHaveNoWord.of_word rfl nofun
theorem Sys2Proof.Laws.EventsHaveNoWord.fneg (ty : Ty) (d : XReg) (a : XReg) (mode : Mode) :
    Sys2Proof.Laws.EventsHaveNoWord.Statement (.fneg ty d a mode) := Sys2Proof.Laws.EventsHaveNoWord.of_word rfl nofun
theorem Sys2Proof.Laws.EventsHaveNoWord.fabs (ty : Ty) (d : XReg) (a : XReg) (mode : Mode) :
    Sys2Proof.Laws.EventsHaveNoWord.Statement (.fabs ty d a mode) := Sys2Proof.Laws.EventsHaveNoWord.of_word rfl nofun
theorem Sys2Proof.Laws.EventsHaveNoWord.feq (ty : Ty) (d : XReg) (a : XReg) (b : XReg) (mode : Mode) :
    Sys2Proof.Laws.EventsHaveNoWord.Statement (.feq ty d a b mode) := Sys2Proof.Laws.EventsHaveNoWord.of_word rfl nofun
theorem Sys2Proof.Laws.EventsHaveNoWord.flt (ty : Ty) (d : XReg) (a : XReg) (b : XReg) (mode : Mode) :
    Sys2Proof.Laws.EventsHaveNoWord.Statement (.flt ty d a b mode) := Sys2Proof.Laws.EventsHaveNoWord.of_word rfl nofun
theorem Sys2Proof.Laws.EventsHaveNoWord.fle (ty : Ty) (d : XReg) (a : XReg) (b : XReg) (mode : Mode) :
    Sys2Proof.Laws.EventsHaveNoWord.Statement (.fle ty d a b mode) := Sys2Proof.Laws.EventsHaveNoWord.of_word rfl nofun
theorem Sys2Proof.Laws.EventsHaveNoWord.fcvt (ty : Ty) (u : Ty) (d : XReg) (a : XReg) (mode : Mode) :
    Sys2Proof.Laws.EventsHaveNoWord.Statement (.fcvt ty u d a mode) := Sys2Proof.Laws.EventsHaveNoWord.of_word rfl nofun
theorem Sys2Proof.Laws.EventsHaveNoWord.fma (ty : Ty) (d : XReg) (a : XReg) (b : XReg) (c : XReg) (mode : Mode) :
    Sys2Proof.Laws.EventsHaveNoWord.Statement (.fma ty d a b c mode) := Sys2Proof.Laws.EventsHaveNoWord.of_word rfl nofun
theorem Sys2Proof.Laws.EventsHaveNoWord.fli (ty : Ty) (d : XReg) (imm : BitVec 16) :
    Sys2Proof.Laws.EventsHaveNoWord.Statement (.fli ty d imm) := Sys2Proof.Laws.EventsHaveNoWord.of_word rfl nofun
theorem Sys2Proof.Laws.EventsHaveNoWord.faddi (ty : Ty) (d : XReg) (a : XReg) (imm : BitVec 16) :
    Sys2Proof.Laws.EventsHaveNoWord.Statement (.faddi ty d a imm) := Sys2Proof.Laws.EventsHaveNoWord.of_word rfl nofun
theorem Sys2Proof.Laws.EventsHaveNoWord.fmuli (ty : Ty) (d : XReg) (a : XReg) (imm : BitVec 16) :
    Sys2Proof.Laws.EventsHaveNoWord.Statement (.fmuli ty d a imm) := Sys2Proof.Laws.EventsHaveNoWord.of_word rfl nofun
theorem Sys2Proof.Laws.EventsHaveNoWord.branch (cond : Cond) (a : XReg) (b : XReg) (off : BitVec 32) :
    Sys2Proof.Laws.EventsHaveNoWord.Statement (.branch cond a b off) := Sys2Proof.Laws.EventsHaveNoWord.of_word rfl nofun
theorem Sys2Proof.Laws.EventsHaveNoWord.jal (d : XReg) (off : BitVec 32) :
    Sys2Proof.Laws.EventsHaveNoWord.Statement (.jal d off) := Sys2Proof.Laws.EventsHaveNoWord.of_word rfl nofun
theorem Sys2Proof.Laws.EventsHaveNoWord.jr (d : XReg) (a : XReg) :
    Sys2Proof.Laws.EventsHaveNoWord.Statement (.jr d a) := Sys2Proof.Laws.EventsHaveNoWord.of_word rfl nofun
theorem Sys2Proof.Laws.EventsHaveNoWord.svc (code : BitVec 11) :
    Sys2Proof.Laws.EventsHaveNoWord.Statement (.svc code) := Sys2Proof.Laws.EventsHaveNoWord.of_word rfl nofun
theorem Sys2Proof.Laws.EventsHaveNoWord.brk (code : BitVec 11) :
    Sys2Proof.Laws.EventsHaveNoWord.Statement (.brk code) := Sys2Proof.Laws.EventsHaveNoWord.of_word rfl nofun
theorem Sys2Proof.Laws.EventsHaveNoWord.halt :
    Sys2Proof.Laws.EventsHaveNoWord.Statement (.halt) := Sys2Proof.Laws.EventsHaveNoWord.of_word rfl nofun
theorem Sys2Proof.Laws.EventsHaveNoWord.yield :
    Sys2Proof.Laws.EventsHaveNoWord.Statement (.yield) := Sys2Proof.Laws.EventsHaveNoWord.of_word rfl nofun
theorem Sys2Proof.Laws.EventsHaveNoWord.csrr (d : XReg) (csr : BitVec 12) :
    Sys2Proof.Laws.EventsHaveNoWord.Statement (.csrr d csr) := Sys2Proof.Laws.EventsHaveNoWord.of_word rfl nofun
theorem Sys2Proof.Laws.EventsHaveNoWord.csrw (csr : BitVec 12) (a : XReg) :
    Sys2Proof.Laws.EventsHaveNoWord.Statement (.csrw csr a) := Sys2Proof.Laws.EventsHaveNoWord.of_word rfl nofun
theorem Sys2Proof.Laws.EventsHaveNoWord.setvl (d : XReg) (a : XReg) :
    Sys2Proof.Laws.EventsHaveNoWord.Statement (.setvl d a) := Sys2Proof.Laws.EventsHaveNoWord.of_word rfl nofun
theorem Sys2Proof.Laws.EventsHaveNoWord.setew (ew : Ew) :
    Sys2Proof.Laws.EventsHaveNoWord.Statement (.setew ew) := Sys2Proof.Laws.EventsHaveNoWord.of_word rfl nofun
theorem Sys2Proof.Laws.EventsHaveNoWord.setslip (n : BitVec 4) :
    Sys2Proof.Laws.EventsHaveNoWord.Statement (.setslip n) := Sys2Proof.Laws.EventsHaveNoWord.of_word rfl nofun
theorem Sys2Proof.Laws.EventsHaveNoWord.setvp (a : XReg) :
    Sys2Proof.Laws.EventsHaveNoWord.Statement (.setvp a) := Sys2Proof.Laws.EventsHaveNoWord.of_word rfl nofun
theorem Sys2Proof.Laws.EventsHaveNoWord.vfetch (off : BitVec 32) :
    Sys2Proof.Laws.EventsHaveNoWord.Statement (.vfetch off) := Sys2Proof.Laws.EventsHaveNoWord.of_word rfl nofun
theorem Sys2Proof.Laws.EventsHaveNoWord.tfetch (off : BitVec 32) :
    Sys2Proof.Laws.EventsHaveNoWord.Statement (.tfetch off) := Sys2Proof.Laws.EventsHaveNoWord.of_word rfl nofun
theorem Sys2Proof.Laws.EventsHaveNoWord.tfsel (a : WReg) (l1 : BitVec 16) (l2 : BitVec 16) :
    Sys2Proof.Laws.EventsHaveNoWord.Statement (.tfsel a l1 l2) := Sys2Proof.Laws.EventsHaveNoWord.of_word rfl nofun
theorem Sys2Proof.Laws.EventsHaveNoWord.tstop :
    Sys2Proof.Laws.EventsHaveNoWord.Statement (.tstop) := Sys2Proof.Laws.EventsHaveNoWord.of_word rfl nofun
theorem Sys2Proof.Laws.EventsHaveNoWord.vrejoin :
    Sys2Proof.Laws.EventsHaveNoWord.Statement (.vrejoin) := Sys2Proof.Laws.EventsHaveNoWord.of_word rfl nofun
theorem Sys2Proof.Laws.EventsHaveNoWord.wmov (d : WReg) (a : WReg) :
    Sys2Proof.Laws.EventsHaveNoWord.Statement (.wmov d a) := Sys2Proof.Laws.EventsHaveNoWord.of_word rfl nofun
theorem Sys2Proof.Laws.EventsHaveNoWord.wadd (ty : Ty) (d : WReg) (a : WReg) (b : WReg) :
    Sys2Proof.Laws.EventsHaveNoWord.Statement (.wadd ty d a b) := Sys2Proof.Laws.EventsHaveNoWord.of_word rfl nofun
theorem Sys2Proof.Laws.EventsHaveNoWord.wsub (ty : Ty) (d : WReg) (a : WReg) (b : WReg) :
    Sys2Proof.Laws.EventsHaveNoWord.Statement (.wsub ty d a b) := Sys2Proof.Laws.EventsHaveNoWord.of_word rfl nofun
theorem Sys2Proof.Laws.EventsHaveNoWord.wmul (ty : Ty) (d : WReg) (a : WReg) (b : WReg) :
    Sys2Proof.Laws.EventsHaveNoWord.Statement (.wmul ty d a b) := Sys2Proof.Laws.EventsHaveNoWord.of_word rfl nofun
theorem Sys2Proof.Laws.EventsHaveNoWord.wand (d : WReg) (a : WReg) (b : WReg) :
    Sys2Proof.Laws.EventsHaveNoWord.Statement (.wand d a b) := Sys2Proof.Laws.EventsHaveNoWord.of_word rfl nofun
theorem Sys2Proof.Laws.EventsHaveNoWord.wor (d : WReg) (a : WReg) (b : WReg) :
    Sys2Proof.Laws.EventsHaveNoWord.Statement (.wor d a b) := Sys2Proof.Laws.EventsHaveNoWord.of_word rfl nofun
theorem Sys2Proof.Laws.EventsHaveNoWord.wxor (d : WReg) (a : WReg) (b : WReg) :
    Sys2Proof.Laws.EventsHaveNoWord.Statement (.wxor d a b) := Sys2Proof.Laws.EventsHaveNoWord.of_word rfl nofun
theorem Sys2Proof.Laws.EventsHaveNoWord.wshl (d : WReg) (a : WReg) (b : WReg) :
    Sys2Proof.Laws.EventsHaveNoWord.Statement (.wshl d a b) := Sys2Proof.Laws.EventsHaveNoWord.of_word rfl nofun
theorem Sys2Proof.Laws.EventsHaveNoWord.wshr (d : WReg) (a : WReg) (b : WReg) :
    Sys2Proof.Laws.EventsHaveNoWord.Statement (.wshr d a b) := Sys2Proof.Laws.EventsHaveNoWord.of_word rfl nofun
theorem Sys2Proof.Laws.EventsHaveNoWord.wsra (d : WReg) (a : WReg) (b : WReg) :
    Sys2Proof.Laws.EventsHaveNoWord.Statement (.wsra d a b) := Sys2Proof.Laws.EventsHaveNoWord.of_word rfl nofun
theorem Sys2Proof.Laws.EventsHaveNoWord.wmin (ty : Ty) (d : WReg) (a : WReg) (b : WReg) :
    Sys2Proof.Laws.EventsHaveNoWord.Statement (.wmin ty d a b) := Sys2Proof.Laws.EventsHaveNoWord.of_word rfl nofun
theorem Sys2Proof.Laws.EventsHaveNoWord.wmax (ty : Ty) (d : WReg) (a : WReg) (b : WReg) :
    Sys2Proof.Laws.EventsHaveNoWord.Statement (.wmax ty d a b) := Sys2Proof.Laws.EventsHaveNoWord.of_word rfl nofun
theorem Sys2Proof.Laws.EventsHaveNoWord.wseq (ty : Ty) (d : WReg) (a : WReg) (b : WReg) :
    Sys2Proof.Laws.EventsHaveNoWord.Statement (.wseq ty d a b) := Sys2Proof.Laws.EventsHaveNoWord.of_word rfl nofun
theorem Sys2Proof.Laws.EventsHaveNoWord.wslt (ty : Ty) (d : WReg) (a : WReg) (b : WReg) :
    Sys2Proof.Laws.EventsHaveNoWord.Statement (.wslt ty d a b) := Sys2Proof.Laws.EventsHaveNoWord.of_word rfl nofun
theorem Sys2Proof.Laws.EventsHaveNoWord.wfeq (d : WReg) (a : WReg) (b : WReg) (mode : Mode) :
    Sys2Proof.Laws.EventsHaveNoWord.Statement (.wfeq d a b mode) := Sys2Proof.Laws.EventsHaveNoWord.of_word rfl nofun
theorem Sys2Proof.Laws.EventsHaveNoWord.wflt (d : WReg) (a : WReg) (b : WReg) (mode : Mode) :
    Sys2Proof.Laws.EventsHaveNoWord.Statement (.wflt d a b mode) := Sys2Proof.Laws.EventsHaveNoWord.of_word rfl nofun
theorem Sys2Proof.Laws.EventsHaveNoWord.wfle (d : WReg) (a : WReg) (b : WReg) (mode : Mode) :
    Sys2Proof.Laws.EventsHaveNoWord.Statement (.wfle d a b mode) := Sys2Proof.Laws.EventsHaveNoWord.of_word rfl nofun
theorem Sys2Proof.Laws.EventsHaveNoWord.wsel (d : WReg) (a : WReg) (b : WReg) (c : WReg) :
    Sys2Proof.Laws.EventsHaveNoWord.Statement (.wsel d a b c) := Sys2Proof.Laws.EventsHaveNoWord.of_word rfl nofun
theorem Sys2Proof.Laws.EventsHaveNoWord.wfadd (d : WReg) (a : WReg) (b : WReg) (mode : Mode) :
    Sys2Proof.Laws.EventsHaveNoWord.Statement (.wfadd d a b mode) := Sys2Proof.Laws.EventsHaveNoWord.of_word rfl nofun
theorem Sys2Proof.Laws.EventsHaveNoWord.wfsub (d : WReg) (a : WReg) (b : WReg) (mode : Mode) :
    Sys2Proof.Laws.EventsHaveNoWord.Statement (.wfsub d a b mode) := Sys2Proof.Laws.EventsHaveNoWord.of_word rfl nofun
theorem Sys2Proof.Laws.EventsHaveNoWord.wfmul (d : WReg) (a : WReg) (b : WReg) (mode : Mode) :
    Sys2Proof.Laws.EventsHaveNoWord.Statement (.wfmul d a b mode) := Sys2Proof.Laws.EventsHaveNoWord.of_word rfl nofun
theorem Sys2Proof.Laws.EventsHaveNoWord.wfma (d : WReg) (a : WReg) (b : WReg) (c : WReg) (mode : Mode) :
    Sys2Proof.Laws.EventsHaveNoWord.Statement (.wfma d a b c mode) := Sys2Proof.Laws.EventsHaveNoWord.of_word rfl nofun
theorem Sys2Proof.Laws.EventsHaveNoWord.wfmal (d : WReg) (a : WReg) (l : LatchNo) (mode : Mode) :
    Sys2Proof.Laws.EventsHaveNoWord.Statement (.wfmal d a l mode) := Sys2Proof.Laws.EventsHaveNoWord.of_word rfl nofun
theorem Sys2Proof.Laws.EventsHaveNoWord.wlat (a : WReg) (l : LatchNo) (mode : Mode) :
    Sys2Proof.Laws.EventsHaveNoWord.Statement (.wlat a l mode) := Sys2Proof.Laws.EventsHaveNoWord.of_word rfl nofun
theorem Sys2Proof.Laws.EventsHaveNoWord.wcvt (ty : Ty) (u : Ty) (d : WReg) (a : WReg) (mode : Mode) :
    Sys2Proof.Laws.EventsHaveNoWord.Statement (.wcvt ty u d a mode) := Sys2Proof.Laws.EventsHaveNoWord.of_word rfl nofun
theorem Sys2Proof.Laws.EventsHaveNoWord.wfmin (d : WReg) (a : WReg) (b : WReg) (mode : Mode) :
    Sys2Proof.Laws.EventsHaveNoWord.Statement (.wfmin d a b mode) := Sys2Proof.Laws.EventsHaveNoWord.of_word rfl nofun
theorem Sys2Proof.Laws.EventsHaveNoWord.wfmax (d : WReg) (a : WReg) (b : WReg) (mode : Mode) :
    Sys2Proof.Laws.EventsHaveNoWord.Statement (.wfmax d a b mode) := Sys2Proof.Laws.EventsHaveNoWord.of_word rfl nofun
theorem Sys2Proof.Laws.EventsHaveNoWord.wget (d : WReg) (a : VSrc) :
    Sys2Proof.Laws.EventsHaveNoWord.Statement (.wget d a) := Sys2Proof.Laws.EventsHaveNoWord.of_word rfl nofun
theorem Sys2Proof.Laws.EventsHaveNoWord.wput (d : VReg) (a : WReg) :
    Sys2Proof.Laws.EventsHaveNoWord.Statement (.wput d a) := Sys2Proof.Laws.EventsHaveNoWord.of_word rfl nofun
theorem Sys2Proof.Laws.EventsHaveNoWord.wli (ty : Ty) (d : WReg) (imm : BitVec 16) :
    Sys2Proof.Laws.EventsHaveNoWord.Statement (.wli ty d imm) := Sys2Proof.Laws.EventsHaveNoWord.of_word rfl nofun
theorem Sys2Proof.Laws.EventsHaveNoWord.waddi (ty : Ty) (d : WReg) (a : WReg) (imm : BitVec 16) :
    Sys2Proof.Laws.EventsHaveNoWord.Statement (.waddi ty d a imm) := Sys2Proof.Laws.EventsHaveNoWord.of_word rfl nofun
theorem Sys2Proof.Laws.EventsHaveNoWord.wandi (d : WReg) (a : WReg) (imm : BitVec 16) :
    Sys2Proof.Laws.EventsHaveNoWord.Statement (.wandi d a imm) := Sys2Proof.Laws.EventsHaveNoWord.of_word rfl nofun
theorem Sys2Proof.Laws.EventsHaveNoWord.wori (d : WReg) (a : WReg) (imm : BitVec 16) :
    Sys2Proof.Laws.EventsHaveNoWord.Statement (.wori d a imm) := Sys2Proof.Laws.EventsHaveNoWord.of_word rfl nofun
theorem Sys2Proof.Laws.EventsHaveNoWord.wxori (d : WReg) (a : WReg) (imm : BitVec 16) :
    Sys2Proof.Laws.EventsHaveNoWord.Statement (.wxori d a imm) := Sys2Proof.Laws.EventsHaveNoWord.of_word rfl nofun
theorem Sys2Proof.Laws.EventsHaveNoWord.wshli (d : WReg) (a : WReg) (n : BitVec 5) :
    Sys2Proof.Laws.EventsHaveNoWord.Statement (.wshli d a n) := Sys2Proof.Laws.EventsHaveNoWord.of_word rfl nofun
theorem Sys2Proof.Laws.EventsHaveNoWord.wshri (d : WReg) (a : WReg) (n : BitVec 5) :
    Sys2Proof.Laws.EventsHaveNoWord.Statement (.wshri d a n) := Sys2Proof.Laws.EventsHaveNoWord.of_word rfl nofun
theorem Sys2Proof.Laws.EventsHaveNoWord.wsrai (d : WReg) (a : WReg) (n : BitVec 5) :
    Sys2Proof.Laws.EventsHaveNoWord.Statement (.wsrai d a n) := Sys2Proof.Laws.EventsHaveNoWord.of_word rfl nofun
theorem Sys2Proof.Laws.EventsHaveNoWord.wseqi (ty : Ty) (d : WReg) (a : WReg) (imm : BitVec 16) :
    Sys2Proof.Laws.EventsHaveNoWord.Statement (.wseqi ty d a imm) := Sys2Proof.Laws.EventsHaveNoWord.of_word rfl nofun
theorem Sys2Proof.Laws.EventsHaveNoWord.wslti (ty : Ty) (d : WReg) (a : WReg) (imm : BitVec 16) :
    Sys2Proof.Laws.EventsHaveNoWord.Statement (.wslti ty d a imm) := Sys2Proof.Laws.EventsHaveNoWord.of_word rfl nofun
theorem Sys2Proof.Laws.EventsHaveNoWord.wld (ty : Ty) (d : WReg) (a : WReg) (off : BitVec 16) (sp : Space) :
    Sys2Proof.Laws.EventsHaveNoWord.Statement (.wld ty d a off sp) := Sys2Proof.Laws.EventsHaveNoWord.of_word rfl nofun
theorem Sys2Proof.Laws.EventsHaveNoWord.wst (ty : Ty) (v : WReg) (a : WReg) (off : BitVec 16) :
    Sys2Proof.Laws.EventsHaveNoWord.Statement (.wst ty v a off) := Sys2Proof.Laws.EventsHaveNoWord.of_word rfl nofun
theorem Sys2Proof.Laws.EventsHaveNoWord.vadd (ty : Ty) (m : MReg) (d : VReg) (a : VSrc) (b : VSrc) :
    Sys2Proof.Laws.EventsHaveNoWord.Statement (.vadd ty m d a b) := Sys2Proof.Laws.EventsHaveNoWord.of_word rfl nofun
theorem Sys2Proof.Laws.EventsHaveNoWord.vsub (ty : Ty) (m : MReg) (d : VReg) (a : VSrc) (b : VSrc) :
    Sys2Proof.Laws.EventsHaveNoWord.Statement (.vsub ty m d a b) := Sys2Proof.Laws.EventsHaveNoWord.of_word rfl nofun
theorem Sys2Proof.Laws.EventsHaveNoWord.vmul (ty : Ty) (m : MReg) (d : VReg) (a : VSrc) (b : VSrc) :
    Sys2Proof.Laws.EventsHaveNoWord.Statement (.vmul ty m d a b) := Sys2Proof.Laws.EventsHaveNoWord.of_word rfl nofun
theorem Sys2Proof.Laws.EventsHaveNoWord.vmulh (ty : Ty) (m : MReg) (d : VReg) (a : VSrc) (b : VSrc) :
    Sys2Proof.Laws.EventsHaveNoWord.Statement (.vmulh ty m d a b) := Sys2Proof.Laws.EventsHaveNoWord.of_word rfl nofun
theorem Sys2Proof.Laws.EventsHaveNoWord.vdiv (ty : Ty) (m : MReg) (d : VReg) (a : VSrc) (b : VSrc) :
    Sys2Proof.Laws.EventsHaveNoWord.Statement (.vdiv ty m d a b) := Sys2Proof.Laws.EventsHaveNoWord.of_word rfl nofun
theorem Sys2Proof.Laws.EventsHaveNoWord.vrem (ty : Ty) (m : MReg) (d : VReg) (a : VSrc) (b : VSrc) :
    Sys2Proof.Laws.EventsHaveNoWord.Statement (.vrem ty m d a b) := Sys2Proof.Laws.EventsHaveNoWord.of_word rfl nofun
theorem Sys2Proof.Laws.EventsHaveNoWord.vmin (ty : Ty) (m : MReg) (d : VReg) (a : VSrc) (b : VSrc) :
    Sys2Proof.Laws.EventsHaveNoWord.Statement (.vmin ty m d a b) := Sys2Proof.Laws.EventsHaveNoWord.of_word rfl nofun
theorem Sys2Proof.Laws.EventsHaveNoWord.vmax (ty : Ty) (m : MReg) (d : VReg) (a : VSrc) (b : VSrc) :
    Sys2Proof.Laws.EventsHaveNoWord.Statement (.vmax ty m d a b) := Sys2Proof.Laws.EventsHaveNoWord.of_word rfl nofun
theorem Sys2Proof.Laws.EventsHaveNoWord.vabs (ty : Ty) (m : MReg) (d : VReg) (a : VSrc) :
    Sys2Proof.Laws.EventsHaveNoWord.Statement (.vabs ty m d a) := Sys2Proof.Laws.EventsHaveNoWord.of_word rfl nofun
theorem Sys2Proof.Laws.EventsHaveNoWord.vneg (ty : Ty) (m : MReg) (d : VReg) (a : VSrc) :
    Sys2Proof.Laws.EventsHaveNoWord.Statement (.vneg ty m d a) := Sys2Proof.Laws.EventsHaveNoWord.of_word rfl nofun
theorem Sys2Proof.Laws.EventsHaveNoWord.vmadd (ty : Ty) (m : MReg) (d : VReg) (a : VSrc) (b : VSrc) (c : VSrc) :
    Sys2Proof.Laws.EventsHaveNoWord.Statement (.vmadd ty m d a b c) := Sys2Proof.Laws.EventsHaveNoWord.of_word rfl nofun
theorem Sys2Proof.Laws.EventsHaveNoWord.vsll (ty : Ty) (m : MReg) (d : VReg) (a : VSrc) (b : VSrc) :
    Sys2Proof.Laws.EventsHaveNoWord.Statement (.vsll ty m d a b) := Sys2Proof.Laws.EventsHaveNoWord.of_word rfl nofun
theorem Sys2Proof.Laws.EventsHaveNoWord.vsrl (ty : Ty) (m : MReg) (d : VReg) (a : VSrc) (b : VSrc) :
    Sys2Proof.Laws.EventsHaveNoWord.Statement (.vsrl ty m d a b) := Sys2Proof.Laws.EventsHaveNoWord.of_word rfl nofun
theorem Sys2Proof.Laws.EventsHaveNoWord.vsra (ty : Ty) (m : MReg) (d : VReg) (a : VSrc) (b : VSrc) :
    Sys2Proof.Laws.EventsHaveNoWord.Statement (.vsra ty m d a b) := Sys2Proof.Laws.EventsHaveNoWord.of_word rfl nofun
theorem Sys2Proof.Laws.EventsHaveNoWord.vand (ty : Ty) (m : MReg) (d : VReg) (a : VSrc) (b : VSrc) :
    Sys2Proof.Laws.EventsHaveNoWord.Statement (.vand ty m d a b) := Sys2Proof.Laws.EventsHaveNoWord.of_word rfl nofun
theorem Sys2Proof.Laws.EventsHaveNoWord.vor (ty : Ty) (m : MReg) (d : VReg) (a : VSrc) (b : VSrc) :
    Sys2Proof.Laws.EventsHaveNoWord.Statement (.vor ty m d a b) := Sys2Proof.Laws.EventsHaveNoWord.of_word rfl nofun
theorem Sys2Proof.Laws.EventsHaveNoWord.vxor (ty : Ty) (m : MReg) (d : VReg) (a : VSrc) (b : VSrc) :
    Sys2Proof.Laws.EventsHaveNoWord.Statement (.vxor ty m d a b) := Sys2Proof.Laws.EventsHaveNoWord.of_word rfl nofun
theorem Sys2Proof.Laws.EventsHaveNoWord.vandn (ty : Ty) (m : MReg) (d : VReg) (a : VSrc) (b : VSrc) :
    Sys2Proof.Laws.EventsHaveNoWord.Statement (.vandn ty m d a b) := Sys2Proof.Laws.EventsHaveNoWord.of_word rfl nofun
theorem Sys2Proof.Laws.EventsHaveNoWord.vnot (ty : Ty) (m : MReg) (d : VReg) (a : VSrc) :
    Sys2Proof.Laws.EventsHaveNoWord.Statement (.vnot ty m d a) := Sys2Proof.Laws.EventsHaveNoWord.of_word rfl nofun
theorem Sys2Proof.Laws.EventsHaveNoWord.vaddi (ty : Ty) (m : MReg) (d : VReg) (a : VSrc) (imm : BitVec 16) :
    Sys2Proof.Laws.EventsHaveNoWord.Statement (.vaddi ty m d a imm) := Sys2Proof.Laws.EventsHaveNoWord.of_word rfl nofun
theorem Sys2Proof.Laws.EventsHaveNoWord.vmuli (ty : Ty) (m : MReg) (d : VReg) (a : VSrc) (imm : BitVec 16) :
    Sys2Proof.Laws.EventsHaveNoWord.Statement (.vmuli ty m d a imm) := Sys2Proof.Laws.EventsHaveNoWord.of_word rfl nofun
theorem Sys2Proof.Laws.EventsHaveNoWord.vmini (ty : Ty) (m : MReg) (d : VReg) (a : VSrc) (imm : BitVec 16) :
    Sys2Proof.Laws.EventsHaveNoWord.Statement (.vmini ty m d a imm) := Sys2Proof.Laws.EventsHaveNoWord.of_word rfl nofun
theorem Sys2Proof.Laws.EventsHaveNoWord.vmaxi (ty : Ty) (m : MReg) (d : VReg) (a : VSrc) (imm : BitVec 16) :
    Sys2Proof.Laws.EventsHaveNoWord.Statement (.vmaxi ty m d a imm) := Sys2Proof.Laws.EventsHaveNoWord.of_word rfl nofun
theorem Sys2Proof.Laws.EventsHaveNoWord.vandi (ty : Ty) (m : MReg) (d : VReg) (a : VSrc) (imm : BitVec 16) :
    Sys2Proof.Laws.EventsHaveNoWord.Statement (.vandi ty m d a imm) := Sys2Proof.Laws.EventsHaveNoWord.of_word rfl nofun
theorem Sys2Proof.Laws.EventsHaveNoWord.vori (ty : Ty) (m : MReg) (d : VReg) (a : VSrc) (imm : BitVec 16) :
    Sys2Proof.Laws.EventsHaveNoWord.Statement (.vori ty m d a imm) := Sys2Proof.Laws.EventsHaveNoWord.of_word rfl nofun
theorem Sys2Proof.Laws.EventsHaveNoWord.vxori (ty : Ty) (m : MReg) (d : VReg) (a : VSrc) (imm : BitVec 16) :
    Sys2Proof.Laws.EventsHaveNoWord.Statement (.vxori ty m d a imm) := Sys2Proof.Laws.EventsHaveNoWord.of_word rfl nofun
theorem Sys2Proof.Laws.EventsHaveNoWord.vslli (ty : Ty) (m : MReg) (d : VReg) (a : VSrc) (n : BitVec 5) :
    Sys2Proof.Laws.EventsHaveNoWord.Statement (.vslli ty m d a n) := Sys2Proof.Laws.EventsHaveNoWord.of_word rfl nofun
theorem Sys2Proof.Laws.EventsHaveNoWord.vsrli (ty : Ty) (m : MReg) (d : VReg) (a : VSrc) (n : BitVec 5) :
    Sys2Proof.Laws.EventsHaveNoWord.Statement (.vsrli ty m d a n) := Sys2Proof.Laws.EventsHaveNoWord.of_word rfl nofun
theorem Sys2Proof.Laws.EventsHaveNoWord.vsrai (ty : Ty) (m : MReg) (d : VReg) (a : VSrc) (n : BitVec 5) :
    Sys2Proof.Laws.EventsHaveNoWord.Statement (.vsrai ty m d a n) := Sys2Proof.Laws.EventsHaveNoWord.of_word rfl nofun
theorem Sys2Proof.Laws.EventsHaveNoWord.vcmpi (rel : Rel) (ty : Ty) (m : MReg) (d : MReg) (a : VSrc) (imm : BitVec 16) :
    Sys2Proof.Laws.EventsHaveNoWord.Statement (.vcmpi rel ty m d a imm) := Sys2Proof.Laws.EventsHaveNoWord.of_word rfl nofun
theorem Sys2Proof.Laws.EventsHaveNoWord.vcmp (rel : Rel) (ty : Ty) (m : MReg) (d : MReg) (a : VSrc) (b : VSrc) :
    Sys2Proof.Laws.EventsHaveNoWord.Statement (.vcmp rel ty m d a b) := Sys2Proof.Laws.EventsHaveNoWord.of_word rfl nofun
theorem Sys2Proof.Laws.EventsHaveNoWord.vsel (ty : Ty) (d : VReg) (a : VSrc) (b : VSrc) (c : MReg) :
    Sys2Proof.Laws.EventsHaveNoWord.Statement (.vsel ty d a b c) := Sys2Proof.Laws.EventsHaveNoWord.of_word rfl nofun
theorem Sys2Proof.Laws.EventsHaveNoWord.vbcast (ty : Ty) (m : MReg) (d : VReg) (a : XReg) :
    Sys2Proof.Laws.EventsHaveNoWord.Statement (.vbcast ty m d a) := Sys2Proof.Laws.EventsHaveNoWord.of_word rfl nofun
theorem Sys2Proof.Laws.EventsHaveNoWord.vtag (d : VReg) (a : VSrc) (tag : Ty) (span : BitVec 3) :
    Sys2Proof.Laws.EventsHaveNoWord.Statement (.vtag d a tag span) := Sys2Proof.Laws.EventsHaveNoWord.of_word rfl nofun
theorem Sys2Proof.Laws.EventsHaveNoWord.vidx (ty : Ty) (m : MReg) (d : VReg) (start : BitVec 16) (step : BitVec 16) :
    Sys2Proof.Laws.EventsHaveNoWord.Statement (.vidx ty m d start step) := Sys2Proof.Laws.EventsHaveNoWord.of_word rfl nofun
theorem Sys2Proof.Laws.EventsHaveNoWord.vaddF (ty : Ty) (m : MReg) (d : VReg) (a : VSrc) (b : VSrc) (mode : Mode) :
    Sys2Proof.Laws.EventsHaveNoWord.Statement (.vaddF ty m d a b mode) := Sys2Proof.Laws.EventsHaveNoWord.of_word rfl nofun
theorem Sys2Proof.Laws.EventsHaveNoWord.vsubF (ty : Ty) (m : MReg) (d : VReg) (a : VSrc) (b : VSrc) (mode : Mode) :
    Sys2Proof.Laws.EventsHaveNoWord.Statement (.vsubF ty m d a b mode) := Sys2Proof.Laws.EventsHaveNoWord.of_word rfl nofun
theorem Sys2Proof.Laws.EventsHaveNoWord.vmulF (ty : Ty) (m : MReg) (d : VReg) (a : VSrc) (b : VSrc) (mode : Mode) :
    Sys2Proof.Laws.EventsHaveNoWord.Statement (.vmulF ty m d a b mode) := Sys2Proof.Laws.EventsHaveNoWord.of_word rfl nofun
theorem Sys2Proof.Laws.EventsHaveNoWord.vdivF (ty : Ty) (m : MReg) (d : VReg) (a : VSrc) (b : VSrc) (mode : Mode) :
    Sys2Proof.Laws.EventsHaveNoWord.Statement (.vdivF ty m d a b mode) := Sys2Proof.Laws.EventsHaveNoWord.of_word rfl nofun
theorem Sys2Proof.Laws.EventsHaveNoWord.vsqrt (ty : Ty) (m : MReg) (d : VReg) (a : VSrc) (mode : Mode) :
    Sys2Proof.Laws.EventsHaveNoWord.Statement (.vsqrt ty m d a mode) := Sys2Proof.Laws.EventsHaveNoWord.of_word rfl nofun
theorem Sys2Proof.Laws.EventsHaveNoWord.vminF (ty : Ty) (m : MReg) (d : VReg) (a : VSrc) (b : VSrc) (mode : Mode) :
    Sys2Proof.Laws.EventsHaveNoWord.Statement (.vminF ty m d a b mode) := Sys2Proof.Laws.EventsHaveNoWord.of_word rfl nofun
theorem Sys2Proof.Laws.EventsHaveNoWord.vmaxF (ty : Ty) (m : MReg) (d : VReg) (a : VSrc) (b : VSrc) (mode : Mode) :
    Sys2Proof.Laws.EventsHaveNoWord.Statement (.vmaxF ty m d a b mode) := Sys2Proof.Laws.EventsHaveNoWord.of_word rfl nofun
theorem Sys2Proof.Laws.EventsHaveNoWord.vnegF (ty : Ty) (m : MReg) (d : VReg) (a : VSrc) (mode : Mode) :
    Sys2Proof.Laws.EventsHaveNoWord.Statement (.vnegF ty m d a mode) := Sys2Proof.Laws.EventsHaveNoWord.of_word rfl nofun
theorem Sys2Proof.Laws.EventsHaveNoWord.vabsF (ty : Ty) (m : MReg) (d : VReg) (a : VSrc) (mode : Mode) :
    Sys2Proof.Laws.EventsHaveNoWord.Statement (.vabsF ty m d a mode) := Sys2Proof.Laws.EventsHaveNoWord.of_word rfl nofun
theorem Sys2Proof.Laws.EventsHaveNoWord.vfma (ty : Ty) (m : MReg) (d : VReg) (a : VSrc) (b : VSrc) (c : VSrc) (mode : Mode) :
    Sys2Proof.Laws.EventsHaveNoWord.Statement (.vfma ty m d a b c mode) := Sys2Proof.Laws.EventsHaveNoWord.of_word rfl nofun
theorem Sys2Proof.Laws.EventsHaveNoWord.vfmaw (u : Ty) (m : MReg) (d : VReg) (a : VSrc) (b : VSrc) (mode : Mode) :
    Sys2Proof.Laws.EventsHaveNoWord.Statement (.vfmaw u m d a b mode) := Sys2Proof.Laws.EventsHaveNoWord.of_word rfl nofun
theorem Sys2Proof.Laws.EventsHaveNoWord.vaddiF (ty : Ty) (m : MReg) (d : VReg) (a : VSrc) (imm : BitVec 16) :
    Sys2Proof.Laws.EventsHaveNoWord.Statement (.vaddiF ty m d a imm) := Sys2Proof.Laws.EventsHaveNoWord.of_word rfl nofun
theorem Sys2Proof.Laws.EventsHaveNoWord.vmuliF (ty : Ty) (m : MReg) (d : VReg) (a : VSrc) (imm : BitVec 16) :
    Sys2Proof.Laws.EventsHaveNoWord.Statement (.vmuliF ty m d a imm) := Sys2Proof.Laws.EventsHaveNoWord.of_word rfl nofun
theorem Sys2Proof.Laws.EventsHaveNoWord.vminiF (ty : Ty) (m : MReg) (d : VReg) (a : VSrc) (imm : BitVec 16) :
    Sys2Proof.Laws.EventsHaveNoWord.Statement (.vminiF ty m d a imm) := Sys2Proof.Laws.EventsHaveNoWord.of_word rfl nofun
theorem Sys2Proof.Laws.EventsHaveNoWord.vmaxiF (ty : Ty) (m : MReg) (d : VReg) (a : VSrc) (imm : BitVec 16) :
    Sys2Proof.Laws.EventsHaveNoWord.Statement (.vmaxiF ty m d a imm) := Sys2Proof.Laws.EventsHaveNoWord.of_word rfl nofun
theorem Sys2Proof.Laws.EventsHaveNoWord.vcvt (ty : Ty) (u : Ty) (m : MReg) (d : VReg) (a : VSrc) (mode : Mode) :
    Sys2Proof.Laws.EventsHaveNoWord.Statement (.vcvt ty u m d a mode) := Sys2Proof.Laws.EventsHaveNoWord.of_word rfl nofun
theorem Sys2Proof.Laws.EventsHaveNoWord.vqnt (u : Ty) (kind : QKind) (d : VReg) (a : VSrc) :
    Sys2Proof.Laws.EventsHaveNoWord.Statement (.vqnt u kind d a) := Sys2Proof.Laws.EventsHaveNoWord.of_word rfl nofun
theorem Sys2Proof.Laws.EventsHaveNoWord.vdqnt (ty : Ty) (m : MReg) (d : VReg) (a : VSrc) (mode : Mode) :
    Sys2Proof.Laws.EventsHaveNoWord.Statement (.vdqnt ty m d a mode) := Sys2Proof.Laws.EventsHaveNoWord.of_word rfl nofun
theorem Sys2Proof.Laws.EventsHaveNoWord.vbfly (ty : Ty) (d : VReg) (a : VSrc) (j : BitVec 4) (nw : Bool) (mode : Mode) :
    Sys2Proof.Laws.EventsHaveNoWord.Statement (.vbfly ty d a j nw mode) := Sys2Proof.Laws.EventsHaveNoWord.of_word rfl nofun
theorem Sys2Proof.Laws.EventsHaveNoWord.vrnd (m : MReg) (d : VReg) (a : XReg) (b : XReg) :
    Sys2Proof.Laws.EventsHaveNoWord.Statement (.vrnd m d a b) := Sys2Proof.Laws.EventsHaveNoWord.of_word rfl nofun
theorem Sys2Proof.Laws.EventsHaveNoWord.vredsum (ty : Ty) (m : MReg) (d : XReg) (a : VSrc) (b : XReg) :
    Sys2Proof.Laws.EventsHaveNoWord.Statement (.vredsum ty m d a b) := Sys2Proof.Laws.EventsHaveNoWord.of_word rfl nofun
theorem Sys2Proof.Laws.EventsHaveNoWord.vredmin (ty : Ty) (m : MReg) (d : XReg) (a : VSrc) (b : XReg) :
    Sys2Proof.Laws.EventsHaveNoWord.Statement (.vredmin ty m d a b) := Sys2Proof.Laws.EventsHaveNoWord.of_word rfl nofun
theorem Sys2Proof.Laws.EventsHaveNoWord.vredmax (ty : Ty) (m : MReg) (d : XReg) (a : VSrc) (b : XReg) :
    Sys2Proof.Laws.EventsHaveNoWord.Statement (.vredmax ty m d a b) := Sys2Proof.Laws.EventsHaveNoWord.of_word rfl nofun
theorem Sys2Proof.Laws.EventsHaveNoWord.vredand (ty : Ty) (m : MReg) (d : XReg) (a : VSrc) (b : XReg) :
    Sys2Proof.Laws.EventsHaveNoWord.Statement (.vredand ty m d a b) := Sys2Proof.Laws.EventsHaveNoWord.of_word rfl nofun
theorem Sys2Proof.Laws.EventsHaveNoWord.vredor (ty : Ty) (m : MReg) (d : XReg) (a : VSrc) (b : XReg) :
    Sys2Proof.Laws.EventsHaveNoWord.Statement (.vredor ty m d a b) := Sys2Proof.Laws.EventsHaveNoWord.of_word rfl nofun
theorem Sys2Proof.Laws.EventsHaveNoWord.vredxor (ty : Ty) (m : MReg) (d : XReg) (a : VSrc) (b : XReg) :
    Sys2Proof.Laws.EventsHaveNoWord.Statement (.vredxor ty m d a b) := Sys2Proof.Laws.EventsHaveNoWord.of_word rfl nofun
theorem Sys2Proof.Laws.EventsHaveNoWord.vscansum (ty : Ty) (m : MReg) (d : VReg) (a : VSrc) (c : MReg) (ex : Bool) :
    Sys2Proof.Laws.EventsHaveNoWord.Statement (.vscansum ty m d a c ex) := Sys2Proof.Laws.EventsHaveNoWord.of_word rfl nofun
theorem Sys2Proof.Laws.EventsHaveNoWord.vscanmin (ty : Ty) (m : MReg) (d : VReg) (a : VSrc) (c : MReg) (ex : Bool) :
    Sys2Proof.Laws.EventsHaveNoWord.Statement (.vscanmin ty m d a c ex) := Sys2Proof.Laws.EventsHaveNoWord.of_word rfl nofun
theorem Sys2Proof.Laws.EventsHaveNoWord.vscanmax (ty : Ty) (m : MReg) (d : VReg) (a : VSrc) (c : MReg) (ex : Bool) :
    Sys2Proof.Laws.EventsHaveNoWord.Statement (.vscanmax ty m d a c ex) := Sys2Proof.Laws.EventsHaveNoWord.of_word rfl nofun
theorem Sys2Proof.Laws.EventsHaveNoWord.vsegsum (ty : Ty) (m : MReg) (d : VReg) (a : VSrc) (c : MReg) :
    Sys2Proof.Laws.EventsHaveNoWord.Statement (.vsegsum ty m d a c) := Sys2Proof.Laws.EventsHaveNoWord.of_word rfl nofun
theorem Sys2Proof.Laws.EventsHaveNoWord.vsegmin (ty : Ty) (m : MReg) (d : VReg) (a : VSrc) (c : MReg) :
    Sys2Proof.Laws.EventsHaveNoWord.Statement (.vsegmin ty m d a c) := Sys2Proof.Laws.EventsHaveNoWord.of_word rfl nofun
theorem Sys2Proof.Laws.EventsHaveNoWord.vsegmax (ty : Ty) (m : MReg) (d : VReg) (a : VSrc) (c : MReg) :
    Sys2Proof.Laws.EventsHaveNoWord.Statement (.vsegmax ty m d a c) := Sys2Proof.Laws.EventsHaveNoWord.of_word rfl nofun
theorem Sys2Proof.Laws.EventsHaveNoWord.vslideup (ty : Ty) (m : MReg) (d : VReg) (a : VSrc) (b : XReg) :
    Sys2Proof.Laws.EventsHaveNoWord.Statement (.vslideup ty m d a b) := Sys2Proof.Laws.EventsHaveNoWord.of_word rfl nofun
theorem Sys2Proof.Laws.EventsHaveNoWord.vslidedn (ty : Ty) (m : MReg) (d : VReg) (a : VSrc) (b : XReg) :
    Sys2Proof.Laws.EventsHaveNoWord.Statement (.vslidedn ty m d a b) := Sys2Proof.Laws.EventsHaveNoWord.of_word rfl nofun
theorem Sys2Proof.Laws.EventsHaveNoWord.vrot (ty : Ty) (m : MReg) (d : VReg) (a : VSrc) (b : XReg) :
    Sys2Proof.Laws.EventsHaveNoWord.Statement (.vrot ty m d a b) := Sys2Proof.Laws.EventsHaveNoWord.of_word rfl nofun
theorem Sys2Proof.Laws.EventsHaveNoWord.vperm (ty : Ty) (m : MReg) (d : VReg) (a : VSrc) (b : VSrc) :
    Sys2Proof.Laws.EventsHaveNoWord.Statement (.vperm ty m d a b) := Sys2Proof.Laws.EventsHaveNoWord.of_word rfl nofun
theorem Sys2Proof.Laws.EventsHaveNoWord.vcompress (ty : Ty) (d : VReg) (a : VSrc) (c : MReg) :
    Sys2Proof.Laws.EventsHaveNoWord.Statement (.vcompress ty d a c) := Sys2Proof.Laws.EventsHaveNoWord.of_word rfl nofun
theorem Sys2Proof.Laws.EventsHaveNoWord.vexpand (ty : Ty) (d : VReg) (a : VSrc) (c : MReg) :
    Sys2Proof.Laws.EventsHaveNoWord.Statement (.vexpand ty d a c) := Sys2Proof.Laws.EventsHaveNoWord.of_word rfl nofun
theorem Sys2Proof.Laws.EventsHaveNoWord.vxch (ty : Ty) (d : VReg) (a : VSrc) (b : XReg) (c : XReg) :
    Sys2Proof.Laws.EventsHaveNoWord.Statement (.vxch ty d a b c) := Sys2Proof.Laws.EventsHaveNoWord.of_word rfl nofun
theorem Sys2Proof.Laws.EventsHaveNoWord.mand (d : MReg) (a : MReg) (b : MReg) :
    Sys2Proof.Laws.EventsHaveNoWord.Statement (.mand d a b) := Sys2Proof.Laws.EventsHaveNoWord.of_word rfl nofun
theorem Sys2Proof.Laws.EventsHaveNoWord.mor (d : MReg) (a : MReg) (b : MReg) :
    Sys2Proof.Laws.EventsHaveNoWord.Statement (.mor d a b) := Sys2Proof.Laws.EventsHaveNoWord.of_word rfl nofun
theorem Sys2Proof.Laws.EventsHaveNoWord.mxor (d : MReg) (a : MReg) (b : MReg) :
    Sys2Proof.Laws.EventsHaveNoWord.Statement (.mxor d a b) := Sys2Proof.Laws.EventsHaveNoWord.of_word rfl nofun
theorem Sys2Proof.Laws.EventsHaveNoWord.mandn (d : MReg) (a : MReg) (b : MReg) :
    Sys2Proof.Laws.EventsHaveNoWord.Statement (.mandn d a b) := Sys2Proof.Laws.EventsHaveNoWord.of_word rfl nofun
theorem Sys2Proof.Laws.EventsHaveNoWord.mnot (d : MReg) (a : MReg) :
    Sys2Proof.Laws.EventsHaveNoWord.Statement (.mnot d a) := Sys2Proof.Laws.EventsHaveNoWord.of_word rfl nofun
theorem Sys2Proof.Laws.EventsHaveNoWord.mset (d : MReg) :
    Sys2Proof.Laws.EventsHaveNoWord.Statement (.mset d) := Sys2Proof.Laws.EventsHaveNoWord.of_word rfl nofun
theorem Sys2Proof.Laws.EventsHaveNoWord.mpopc (d : XReg) (a : MReg) :
    Sys2Proof.Laws.EventsHaveNoWord.Statement (.mpopc d a) := Sys2Proof.Laws.EventsHaveNoWord.of_word rfl nofun
theorem Sys2Proof.Laws.EventsHaveNoWord.mfirst (d : XReg) (a : MReg) :
    Sys2Proof.Laws.EventsHaveNoWord.Statement (.mfirst d a) := Sys2Proof.Laws.EventsHaveNoWord.of_word rfl nofun
theorem Sys2Proof.Laws.EventsHaveNoWord.ld (ty : Ty) (sp : Space) (d : XReg) (a : XReg) (off : BitVec 16) :
    Sys2Proof.Laws.EventsHaveNoWord.Statement (.ld ty sp d a off) := Sys2Proof.Laws.EventsHaveNoWord.of_word rfl nofun
theorem Sys2Proof.Laws.EventsHaveNoWord.st (ty : Ty) (sp : Space) (v : XReg) (a : XReg) (off : BitVec 16) :
    Sys2Proof.Laws.EventsHaveNoWord.Statement (.st ty sp v a off) := Sys2Proof.Laws.EventsHaveNoWord.of_word rfl nofun
theorem Sys2Proof.Laws.EventsHaveNoWord.vld (ty : Ty) (sp : Space) (m : MReg) (d : VReg) (a : XReg) (b : XReg) (off : BitVec 16) :
    Sys2Proof.Laws.EventsHaveNoWord.Statement (.vld ty sp m d a b off) := Sys2Proof.Laws.EventsHaveNoWord.of_word rfl nofun
theorem Sys2Proof.Laws.EventsHaveNoWord.vst (ty : Ty) (sp : Space) (m : MReg) (v : VReg) (a : XReg) (b : XReg) (off : BitVec 16) :
    Sys2Proof.Laws.EventsHaveNoWord.Statement (.vst ty sp m v a b off) := Sys2Proof.Laws.EventsHaveNoWord.of_word rfl nofun
theorem Sys2Proof.Laws.EventsHaveNoWord.vlds (ty : Ty) (sp : Space) (m : MReg) (d : VReg) (a : XReg) (b : XReg) (off : BitVec 16) :
    Sys2Proof.Laws.EventsHaveNoWord.Statement (.vlds ty sp m d a b off) := Sys2Proof.Laws.EventsHaveNoWord.of_word rfl nofun
theorem Sys2Proof.Laws.EventsHaveNoWord.vsts (ty : Ty) (sp : Space) (m : MReg) (v : VReg) (a : XReg) (b : XReg) (off : BitVec 16) :
    Sys2Proof.Laws.EventsHaveNoWord.Statement (.vsts ty sp m v a b off) := Sys2Proof.Laws.EventsHaveNoWord.of_word rfl nofun
theorem Sys2Proof.Laws.EventsHaveNoWord.vldx (ty : Ty) (sp : Space) (m : MReg) (d : VReg) (a : XReg) (b : VSrc) (off : BitVec 16) (sc : Bool) :
    Sys2Proof.Laws.EventsHaveNoWord.Statement (.vldx ty sp m d a b off sc) := Sys2Proof.Laws.EventsHaveNoWord.of_word rfl nofun
theorem Sys2Proof.Laws.EventsHaveNoWord.vstx (ty : Ty) (sp : Space) (m : MReg) (v : VReg) (a : XReg) (b : VSrc) (off : BitVec 16) (sc : Bool) :
    Sys2Proof.Laws.EventsHaveNoWord.Statement (.vstx ty sp m v a b off sc) := Sys2Proof.Laws.EventsHaveNoWord.of_word rfl nofun
theorem Sys2Proof.Laws.EventsHaveNoWord.vldseg (ty : Ty) (u : Ty) (sp : Space) (m : MReg) (d : VReg) (a : XReg) (n1 : BitVec 3) (mode : Mode) :
    Sys2Proof.Laws.EventsHaveNoWord.Statement (.vldseg ty u sp m d a n1 mode) := Sys2Proof.Laws.EventsHaveNoWord.of_word rfl nofun
theorem Sys2Proof.Laws.EventsHaveNoWord.vstseg (ty : Ty) (u : Ty) (sp : Space) (m : MReg) (v : VReg) (a : XReg) (n1 : BitVec 3) (mode : Mode) :
    Sys2Proof.Laws.EventsHaveNoWord.Statement (.vstseg ty u sp m v a n1 mode) := Sys2Proof.Laws.EventsHaveNoWord.of_word rfl nofun
theorem Sys2Proof.Laws.EventsHaveNoWord.amoadd (ty : Ty) (ord : Order) (scope : Scope) (d : XReg) (a : XReg) (b : XReg) :
    Sys2Proof.Laws.EventsHaveNoWord.Statement (.amoadd ty ord scope d a b) := Sys2Proof.Laws.EventsHaveNoWord.of_word rfl nofun
theorem Sys2Proof.Laws.EventsHaveNoWord.amomin (ty : Ty) (ord : Order) (scope : Scope) (d : XReg) (a : XReg) (b : XReg) :
    Sys2Proof.Laws.EventsHaveNoWord.Statement (.amomin ty ord scope d a b) := Sys2Proof.Laws.EventsHaveNoWord.of_word rfl nofun
theorem Sys2Proof.Laws.EventsHaveNoWord.amomax (ty : Ty) (ord : Order) (scope : Scope) (d : XReg) (a : XReg) (b : XReg) :
    Sys2Proof.Laws.EventsHaveNoWord.Statement (.amomax ty ord scope d a b) := Sys2Proof.Laws.EventsHaveNoWord.of_word rfl nofun
theorem Sys2Proof.Laws.EventsHaveNoWord.amoand (ty : Ty) (ord : Order) (scope : Scope) (d : XReg) (a : XReg) (b : XReg) :
    Sys2Proof.Laws.EventsHaveNoWord.Statement (.amoand ty ord scope d a b) := Sys2Proof.Laws.EventsHaveNoWord.of_word rfl nofun
theorem Sys2Proof.Laws.EventsHaveNoWord.amoor (ty : Ty) (ord : Order) (scope : Scope) (d : XReg) (a : XReg) (b : XReg) :
    Sys2Proof.Laws.EventsHaveNoWord.Statement (.amoor ty ord scope d a b) := Sys2Proof.Laws.EventsHaveNoWord.of_word rfl nofun
theorem Sys2Proof.Laws.EventsHaveNoWord.amoxor (ty : Ty) (ord : Order) (scope : Scope) (d : XReg) (a : XReg) (b : XReg) :
    Sys2Proof.Laws.EventsHaveNoWord.Statement (.amoxor ty ord scope d a b) := Sys2Proof.Laws.EventsHaveNoWord.of_word rfl nofun
theorem Sys2Proof.Laws.EventsHaveNoWord.amoswap (ty : Ty) (ord : Order) (scope : Scope) (d : XReg) (a : XReg) (b : XReg) :
    Sys2Proof.Laws.EventsHaveNoWord.Statement (.amoswap ty ord scope d a b) := Sys2Proof.Laws.EventsHaveNoWord.of_word rfl nofun
theorem Sys2Proof.Laws.EventsHaveNoWord.amocas (ty : Ty) (ord : Order) (scope : Scope) (d : XReg) (a : XReg) (b : XReg) (c : XReg) :
    Sys2Proof.Laws.EventsHaveNoWord.Statement (.amocas ty ord scope d a b c) := Sys2Proof.Laws.EventsHaveNoWord.of_word rfl nofun
theorem Sys2Proof.Laws.EventsHaveNoWord.amofadd (ord : Order) (scope : Scope) (d : XReg) (a : XReg) (b : XReg) :
    Sys2Proof.Laws.EventsHaveNoWord.Statement (.amofadd ord scope d a b) := Sys2Proof.Laws.EventsHaveNoWord.of_word rfl nofun
theorem Sys2Proof.Laws.EventsHaveNoWord.vredm (op : RedOp) (ty : Ty) (scope : Scope) (m : MReg) (a : XReg) (b : VSrc) (c : VSrc) :
    Sys2Proof.Laws.EventsHaveNoWord.Statement (.vredm op ty scope m a b c) := Sys2Proof.Laws.EventsHaveNoWord.of_word rfl nofun
theorem Sys2Proof.Laws.EventsHaveNoWord.fence (scope : Scope) :
    Sys2Proof.Laws.EventsHaveNoWord.Statement (.fence scope) := Sys2Proof.Laws.EventsHaveNoWord.of_word rfl nofun
theorem Sys2Proof.Laws.EventsHaveNoWord.vdrain :
    Sys2Proof.Laws.EventsHaveNoWord.Statement (.vdrain) := Sys2Proof.Laws.EventsHaveNoWord.of_word rfl nofun
theorem Sys2Proof.Laws.EventsHaveNoWord.vdrainl :
    Sys2Proof.Laws.EventsHaveNoWord.Statement (.vdrainl) := Sys2Proof.Laws.EventsHaveNoWord.of_word rfl nofun
theorem Sys2Proof.Laws.EventsHaveNoWord.vdrains :
    Sys2Proof.Laws.EventsHaveNoWord.Statement (.vdrains) := Sys2Proof.Laws.EventsHaveNoWord.of_word rfl nofun
theorem Sys2Proof.Laws.EventsHaveNoWord.waitArr (d : XReg) (a : XReg) (b : XReg) :
    Sys2Proof.Laws.EventsHaveNoWord.Statement (.waitArr d a b) := Sys2Proof.Laws.EventsHaveNoWord.of_word rfl nofun
theorem Sys2Proof.Laws.EventsHaveNoWord.waitW (sp : Space) (d : XReg) (a : XReg) (b : XReg) :
    Sys2Proof.Laws.EventsHaveNoWord.Statement (.waitW sp d a b) := Sys2Proof.Laws.EventsHaveNoWord.of_word rfl nofun
theorem Sys2Proof.Laws.EventsHaveNoWord.waitWatch (d : XReg) :
    Sys2Proof.Laws.EventsHaveNoWord.Statement (.waitWatch d) := Sys2Proof.Laws.EventsHaveNoWord.of_word rfl nofun
theorem Sys2Proof.Laws.EventsHaveNoWord.vwatch (m : MReg) (d : XReg) (a : XReg) (b : VSrc) :
    Sys2Proof.Laws.EventsHaveNoWord.Statement (.vwatch m d a b) := Sys2Proof.Laws.EventsHaveNoWord.of_word rfl nofun
theorem Sys2Proof.Laws.EventsHaveNoWord.gsync (d : XReg) (a : XReg) :
    Sys2Proof.Laws.EventsHaveNoWord.Statement (.gsync d a) := Sys2Proof.Laws.EventsHaveNoWord.of_word rfl nofun
theorem Sys2Proof.Laws.EventsHaveNoWord.gsyncW (d : XReg) (a : XReg) :
    Sys2Proof.Laws.EventsHaveNoWord.Statement (.gsyncW d a) := Sys2Proof.Laws.EventsHaveNoWord.of_word rfl nofun
theorem Sys2Proof.Laws.EventsHaveNoWord.hinit (scope : Scope) (d : XReg) (a : XReg) :
    Sys2Proof.Laws.EventsHaveNoWord.Statement (.hinit scope d a) := Sys2Proof.Laws.EventsHaveNoWord.of_word rfl nofun
theorem Sys2Proof.Laws.EventsHaveNoWord.hpush (scope : Scope) (d : XReg) (a : XReg) (b : XReg) :
    Sys2Proof.Laws.EventsHaveNoWord.Statement (.hpush scope d a b) := Sys2Proof.Laws.EventsHaveNoWord.of_word rfl nofun
theorem Sys2Proof.Laws.EventsHaveNoWord.hpop (scope : Scope) (d : XReg) (a : XReg) :
    Sys2Proof.Laws.EventsHaveNoWord.Statement (.hpop scope d a) := Sys2Proof.Laws.EventsHaveNoWord.of_word rfl nofun
theorem Sys2Proof.Laws.EventsHaveNoWord.hstat (scope : Scope) (d : XReg) (a : XReg) :
    Sys2Proof.Laws.EventsHaveNoWord.Statement (.hstat scope d a) := Sys2Proof.Laws.EventsHaveNoWord.of_word rfl nofun
theorem Sys2Proof.Laws.EventsHaveNoWord.hpushVp (scope : Scope) (d : WReg) (a : WReg) (b : WReg) :
    Sys2Proof.Laws.EventsHaveNoWord.Statement (.hpushVp scope d a b) := Sys2Proof.Laws.EventsHaveNoWord.of_word rfl nofun
theorem Sys2Proof.Laws.EventsHaveNoWord.hpopVp (scope : Scope) (d : WReg) (a : WReg) :
    Sys2Proof.Laws.EventsHaveNoWord.Statement (.hpopVp scope d a) := Sys2Proof.Laws.EventsHaveNoWord.of_word rfl nofun
theorem Sys2Proof.Laws.EventsHaveNoWord.wmpub (k : LinkNo) (a : XReg) :
    Sys2Proof.Laws.EventsHaveNoWord.Statement (.wmpub k a) := Sys2Proof.Laws.EventsHaveNoWord.of_word rfl nofun
theorem Sys2Proof.Laws.EventsHaveNoWord.aarm (d : XReg) (a : XReg) (b : XReg) :
    Sys2Proof.Laws.EventsHaveNoWord.Statement (.aarm d a b) := Sys2Proof.Laws.EventsHaveNoWord.of_word rfl nofun
theorem Sys2Proof.Laws.EventsHaveNoWord.msetdl (mode : DForm) (a : XReg) :
    Sys2Proof.Laws.EventsHaveNoWord.Statement (.msetdl mode a) := Sys2Proof.Laws.EventsHaveNoWord.of_word rfl nofun
theorem Sys2Proof.Laws.EventsHaveNoWord.dlda (sp : Space) (h : Bool) (a : XReg) (b : XReg) (c : XReg) :
    Sys2Proof.Laws.EventsHaveNoWord.Statement (.dlda sp h a b c) := Sys2Proof.Laws.EventsHaveNoWord.of_word rfl nofun
theorem Sys2Proof.Laws.EventsHaveNoWord.dldb (sp : Space) (h : Bool) (a : XReg) (b : XReg) (c : XReg) :
    Sys2Proof.Laws.EventsHaveNoWord.Statement (.dldb sp h a b c) := Sys2Proof.Laws.EventsHaveNoWord.of_word rfl nofun
theorem Sys2Proof.Laws.EventsHaveNoWord.dhold (ha : Bool) (hb : Bool) (wa : Bool) (wb : Bool) :
    Sys2Proof.Laws.EventsHaveNoWord.Statement (.dhold ha hb wa wb) := Sys2Proof.Laws.EventsHaveNoWord.of_word rfl nofun
theorem Sys2Proof.Laws.EventsHaveNoWord.dzero (k : Slot) (c : XReg) :
    Sys2Proof.Laws.EventsHaveNoWord.Statement (.dzero k c) := Sys2Proof.Laws.EventsHaveNoWord.of_word rfl nofun
theorem Sys2Proof.Laws.EventsHaveNoWord.dsetfill (a : XReg) :
    Sys2Proof.Laws.EventsHaveNoWord.Statement (.dsetfill a) := Sys2Proof.Laws.EventsHaveNoWord.of_word rfl nofun
theorem Sys2Proof.Laws.EventsHaveNoWord.dbudget (a : XReg) :
    Sys2Proof.Laws.EventsHaveNoWord.Statement (.dbudget a) := Sys2Proof.Laws.EventsHaveNoWord.of_word rfl nofun
theorem Sys2Proof.Laws.EventsHaveNoWord.dmeta (sp : Space) (a : XReg) (b : XReg) (c : XReg) :
    Sys2Proof.Laws.EventsHaveNoWord.Statement (.dmeta sp a b c) := Sys2Proof.Laws.EventsHaveNoWord.of_word rfl nofun
theorem Sys2Proof.Laws.EventsHaveNoWord.dmovV (ty : Ty) (d : VReg) (k : Slot) (row : Bool) (c : XReg) :
    Sys2Proof.Laws.EventsHaveNoWord.Statement (.dmovV ty d k row c) := Sys2Proof.Laws.EventsHaveNoWord.of_word rfl nofun
theorem Sys2Proof.Laws.EventsHaveNoWord.dmovA (m : MReg) (k : Slot) (a : VSrc) :
    Sys2Proof.Laws.EventsHaveNoWord.Statement (.dmovA m k a) := Sys2Proof.Laws.EventsHaveNoWord.of_word rfl nofun
theorem Sys2Proof.Laws.EventsHaveNoWord.dcvt (ty : Ty) (uf : Bool) (d : VReg) (k : Slot) (row : Bool) (c : XReg) :
    Sys2Proof.Laws.EventsHaveNoWord.Statement (.dcvt ty uf d k row c) := Sys2Proof.Laws.EventsHaveNoWord.of_word rfl nofun
theorem Sys2Proof.Laws.EventsHaveNoWord.dmacV (ty : Ty) (k : Slot) (a : VSrc) (b : VSrc) (c : XReg) :
    Sys2Proof.Laws.EventsHaveNoWord.Statement (.dmacV ty k a b c) := Sys2Proof.Laws.EventsHaveNoWord.of_word rfl nofun
theorem Sys2Proof.Laws.EventsHaveNoWord.dmacL (ty : Ty) (k : Slot) (c : XReg) :
    Sys2Proof.Laws.EventsHaveNoWord.Statement (.dmacL ty k c) := Sys2Proof.Laws.EventsHaveNoWord.of_word rfl nofun
theorem Sys2Proof.Laws.EventsHaveNoWord.dmacTriV (ty : Ty) (k : Slot) (a : VSrc) (b : VSrc) (c : XReg) :
    Sys2Proof.Laws.EventsHaveNoWord.Statement (.dmacTriV ty k a b c) := Sys2Proof.Laws.EventsHaveNoWord.of_word rfl nofun
theorem Sys2Proof.Laws.EventsHaveNoWord.dmacTriL (ty : Ty) (k : Slot) (c : XReg) :
    Sys2Proof.Laws.EventsHaveNoWord.Statement (.dmacTriL ty k c) := Sys2Proof.Laws.EventsHaveNoWord.of_word rfl nofun
theorem Sys2Proof.Laws.EventsHaveNoWord.dmacs (ty : Ty) (k : Slot) (c : XReg) :
    Sys2Proof.Laws.EventsHaveNoWord.Statement (.dmacs ty k c) := Sys2Proof.Laws.EventsHaveNoWord.of_word rfl nofun
theorem Sys2Proof.Laws.EventsHaveNoWord.dsweep (ty : Ty) (k : Slot) (tri : Bool) (sp : Bool) (c : XReg) :
    Sys2Proof.Laws.EventsHaveNoWord.Statement (.dsweep ty k tri sp c) := Sys2Proof.Laws.EventsHaveNoWord.of_word rfl nofun
theorem Sys2Proof.Laws.EventsHaveNoWord.dmacVI (ty : Ty) (k : Slot) (a : VSrc) (b : VSrc) (p : BitVec 8) (q : BitVec 8) :
    Sys2Proof.Laws.EventsHaveNoWord.Statement (.dmacVI ty k a b p q) := Sys2Proof.Laws.EventsHaveNoWord.of_word rfl nofun
theorem Sys2Proof.Laws.EventsHaveNoWord.dmacLI (ty : Ty) (k : Slot) (p : BitVec 8) (q : BitVec 8) :
    Sys2Proof.Laws.EventsHaveNoWord.Statement (.dmacLI ty k p q) := Sys2Proof.Laws.EventsHaveNoWord.of_word rfl nofun
theorem Sys2Proof.Laws.EventsHaveNoWord.dmacsI (ty : Ty) (k : Slot) (mo : BitVec 7) (p : BitVec 8) (q : BitVec 8) :
    Sys2Proof.Laws.EventsHaveNoWord.Statement (.dmacsI ty k mo p q) := Sys2Proof.Laws.EventsHaveNoWord.of_word rfl nofun
theorem Sys2Proof.Laws.EventsHaveNoWord.dmovi (ty : Ty) (k : Slot) (n1 : BitVec 7) (imm : BitVec 16) :
    Sys2Proof.Laws.EventsHaveNoWord.Statement (.dmovi ty k n1 imm) := Sys2Proof.Laws.EventsHaveNoWord.of_word rfl nofun
theorem Sys2Proof.Laws.EventsHaveNoWord.sopenAff (ty : Ty) (sp : Space) (s : SReg) (a : XReg) (b : XReg) (c : XReg) :
    Sys2Proof.Laws.EventsHaveNoWord.Statement (.sopenAff ty sp s a b c) := Sys2Proof.Laws.EventsHaveNoWord.of_word rfl nofun
theorem Sys2Proof.Laws.EventsHaveNoWord.sopenInd (ty : Ty) (vsp : Space) (isp : Space) (iw16 : Bool) (s : SReg) (a : XReg) (b : XReg) (c : XReg) :
    Sys2Proof.Laws.EventsHaveNoWord.Statement (.sopenInd ty vsp isp iw16 s a b c) := Sys2Proof.Laws.EventsHaveNoWord.of_word rfl nofun
theorem Sys2Proof.Laws.EventsHaveNoWord.sopenFib (ty : Ty) (isp : Space) (vsp : Space) (enc : FibEnc) (s : SReg) (a : XReg) (b : XReg) (c : XReg) :
    Sys2Proof.Laws.EventsHaveNoWord.Statement (.sopenFib ty isp vsp enc s a b c) := Sys2Proof.Laws.EventsHaveNoWord.of_word rfl nofun
theorem Sys2Proof.Laws.EventsHaveNoWord.snext (d : VReg) (ve : Option VReg) (s : SReg) (b : XReg) :
    Sys2Proof.Laws.EventsHaveNoWord.Statement (.snext d ve s b) := Sys2Proof.Laws.EventsHaveNoWord.of_word rfl nofun
theorem Sys2Proof.Laws.EventsHaveNoWord.sdone (d : XReg) (md : MReg) (s : SReg) :
    Sys2Proof.Laws.EventsHaveNoWord.Statement (.sdone d md s) := Sys2Proof.Laws.EventsHaveNoWord.of_word rfl nofun
theorem Sys2Proof.Laws.EventsHaveNoWord.sseek (coord : Bool) (s : SReg) (b : XReg) :
    Sys2Proof.Laws.EventsHaveNoWord.Statement (.sseek coord s b) := Sys2Proof.Laws.EventsHaveNoWord.of_word rfl nofun
theorem Sys2Proof.Laws.EventsHaveNoWord.sclose (s : SReg) :
    Sys2Proof.Laws.EventsHaveNoWord.Statement (.sclose s) := Sys2Proof.Laws.EventsHaveNoWord.of_word rfl nofun
theorem Sys2Proof.Laws.EventsHaveNoWord.cxopen (union : Bool) (tol : Bool) (sj : SReg) (sk : SReg) :
    Sys2Proof.Laws.EventsHaveNoWord.Statement (.cxopen union tol sj sk) := Sys2Proof.Laws.EventsHaveNoWord.of_word rfl nofun
theorem Sys2Proof.Laws.EventsHaveNoWord.cxnext (d : XReg) (vc : VReg) (va : VReg) (vb : VReg) :
    Sys2Proof.Laws.EventsHaveNoWord.Statement (.cxnext d vc va vb) := Sys2Proof.Laws.EventsHaveNoWord.of_word rfl nofun
theorem Sys2Proof.Laws.EventsHaveNoWord.cxsplit (a : XReg) :
    Sys2Proof.Laws.EventsHaveNoWord.Statement (.cxsplit a) := Sys2Proof.Laws.EventsHaveNoWord.of_word rfl nofun
theorem Sys2Proof.Laws.EventsHaveNoWord.cxclaim (scope : Scope) (d : XReg) (a : XReg) :
    Sys2Proof.Laws.EventsHaveNoWord.Statement (.cxclaim scope d a) := Sys2Proof.Laws.EventsHaveNoWord.of_word rfl nofun
theorem Sys2Proof.Laws.EventsHaveNoWord.cxstat (d : XReg) (sel : BitVec 3) :
    Sys2Proof.Laws.EventsHaveNoWord.Statement (.cxstat d sel) := Sys2Proof.Laws.EventsHaveNoWord.of_word rfl nofun
theorem Sys2Proof.Laws.EventsHaveNoWord.cxsave (sp : Space) (a : XReg) :
    Sys2Proof.Laws.EventsHaveNoWord.Statement (.cxsave sp a) := Sys2Proof.Laws.EventsHaveNoWord.of_word rfl nofun
theorem Sys2Proof.Laws.EventsHaveNoWord.cxload (sp : Space) (a : XReg) :
    Sys2Proof.Laws.EventsHaveNoWord.Statement (.cxload sp a) := Sys2Proof.Laws.EventsHaveNoWord.of_word rfl nofun
theorem Sys2Proof.Laws.EventsHaveNoWord.cpset (k : Chan) (reg : BitVec 5) (sp : Space) (a : XReg) :
    Sys2Proof.Laws.EventsHaveNoWord.Statement (.cpset k reg sp a) := Sys2Proof.Laws.EventsHaveNoWord.of_word rfl nofun
theorem Sys2Proof.Laws.EventsHaveNoWord.cpget (d : XReg) (k : Chan) (reg : BitVec 5) :
    Sys2Proof.Laws.EventsHaveNoWord.Statement (.cpget d k reg) := Sys2Proof.Laws.EventsHaveNoWord.of_word rfl nofun
theorem Sys2Proof.Laws.EventsHaveNoWord.cplaunch (d : XReg) (k : Chan) :
    Sys2Proof.Laws.EventsHaveNoWord.Statement (.cplaunch d k) := Sys2Proof.Laws.EventsHaveNoWord.of_word rfl nofun
theorem Sys2Proof.Laws.EventsHaveNoWord.cpwait (d : XReg) (a : XReg) :
    Sys2Proof.Laws.EventsHaveNoWord.Statement (.cpwait d a) := Sys2Proof.Laws.EventsHaveNoWord.of_word rfl nofun
theorem Sys2Proof.Laws.EventsHaveNoWord.cpwm (d : XReg) (k : Chan) (a : XReg) :
    Sys2Proof.Laws.EventsHaveNoWord.Statement (.cpwm d k a) := Sys2Proof.Laws.EventsHaveNoWord.of_word rfl nofun
theorem Sys2Proof.Laws.EventsHaveNoWord.cpcancel (k : Chan) :
    Sys2Proof.Laws.EventsHaveNoWord.Statement (.cpcancel k) := Sys2Proof.Laws.EventsHaveNoWord.of_word rfl nofun
theorem Sys2Proof.Laws.EventsHaveNoWord.cparm (d : XReg) (k : Chan) (a : XReg) (b : XReg) :
    Sys2Proof.Laws.EventsHaveNoWord.Statement (.cparm d k a b) := Sys2Proof.Laws.EventsHaveNoWord.of_word rfl nofun
theorem Sys2Proof.Laws.EventsHaveNoWord.cpexport (d : XReg) (a : XReg) (b : XReg) :
    Sys2Proof.Laws.EventsHaveNoWord.Statement (.cpexport d a b) := Sys2Proof.Laws.EventsHaveNoWord.of_word rfl nofun
theorem Sys2Proof.Laws.EventsHaveNoWord.tret :
    Sys2Proof.Laws.EventsHaveNoWord.Statement (.tret) := Sys2Proof.Laws.EventsHaveNoWord.of_word rfl nofun
theorem Sys2Proof.Laws.EventsHaveNoWord.tlbinv (kind : TlbKind) (g : Bool) (a : XReg) (b : XReg) :
    Sys2Proof.Laws.EventsHaveNoWord.Statement (.tlbinv kind g a b) := Sys2Proof.Laws.EventsHaveNoWord.of_word rfl nofun
theorem Sys2Proof.Laws.EventsHaveNoWord.ctxsave (d : XReg) (a : XReg) (b : XReg) :
    Sys2Proof.Laws.EventsHaveNoWord.Statement (.ctxsave d a b) := Sys2Proof.Laws.EventsHaveNoWord.of_word rfl nofun
theorem Sys2Proof.Laws.EventsHaveNoWord.ctxload (a : XReg) :
    Sys2Proof.Laws.EventsHaveNoWord.Statement (.ctxload a) := Sys2Proof.Laws.EventsHaveNoWord.of_word rfl nofun
theorem Sys2Proof.Laws.EventsHaveNoWord.dspill (k : Slot) (a : XReg) :
    Sys2Proof.Laws.EventsHaveNoWord.Statement (.dspill k a) := Sys2Proof.Laws.EventsHaveNoWord.of_word rfl nofun
theorem Sys2Proof.Laws.EventsHaveNoWord.dfill (k : Slot) (a : XReg) :
    Sys2Proof.Laws.EventsHaveNoWord.Statement (.dfill k a) := Sys2Proof.Laws.EventsHaveNoWord.of_word rfl nofun
theorem Sys2Proof.Laws.EventsHaveNoWord.wbtag (d : XReg) :
    Sys2Proof.Laws.EventsHaveNoWord.Statement (.wbtag d) := Sys2Proof.Laws.EventsHaveNoWord.of_word rfl nofun
theorem Sys2Proof.Laws.EventsHaveNoWord.wbtagSet (d : XReg) (a : XReg) :
    Sys2Proof.Laws.EventsHaveNoWord.Statement (.wbtagSet d a) := Sys2Proof.Laws.EventsHaveNoWord.of_word rfl nofun
theorem Sys2Proof.Laws.EventsHaveNoWord.idle :
    Sys2Proof.Laws.EventsHaveNoWord.Statement (.idle) := Sys2Proof.Laws.EventsHaveNoWord.of_word rfl nofun
theorem Sys2Proof.Laws.EventsHaveNoWord.pmode (a : XReg) :
    Sys2Proof.Laws.EventsHaveNoWord.Statement (.pmode a) := Sys2Proof.Laws.EventsHaveNoWord.of_word rfl nofun
theorem Sys2Proof.Laws.EventsHaveNoWord.qpost (d : XReg) (a : XReg) (b : XReg) :
    Sys2Proof.Laws.EventsHaveNoWord.Statement (.qpost d a b) := Sys2Proof.Laws.EventsHaveNoWord.of_word rfl nofun
theorem Sys2Proof.Laws.EventsHaveNoWord.errlog (a : XReg) (b : XReg) :
    Sys2Proof.Laws.EventsHaveNoWord.Statement (.errlog a b) := Sys2Proof.Laws.EventsHaveNoWord.of_word rfl nofun
theorem Sys2Proof.Laws.EventsHaveNoWord.dutyset (d : XReg) (a : XReg) :
    Sys2Proof.Laws.EventsHaveNoWord.Statement (.dutyset d a) := Sys2Proof.Laws.EventsHaveNoWord.of_word rfl nofun
theorem Sys2Proof.Laws.EventsHaveNoWord.hint (odd : Bool) (bits : BitVec 55) :
    Sys2Proof.Laws.EventsHaveNoWord.Statement (.hint odd bits) := Sys2Proof.Laws.EventsHaveNoWord.of_word rfl nofun
theorem Sys2Proof.Laws.EventsHaveNoWord.convoyCommit :
    Sys2Proof.Laws.EventsHaveNoWord.Statement (.convoyCommit) := Sys2Proof.Laws.EventsHaveNoWord.of_event rfl rfl
theorem Sys2Proof.Laws.EventsHaveNoWord.elementGroupOperation (lane : LaneNo) :
    Sys2Proof.Laws.EventsHaveNoWord.Statement (.elementGroupOperation lane) := Sys2Proof.Laws.EventsHaveNoWord.of_event rfl rfl
theorem Sys2Proof.Laws.EventsHaveNoWord.trapEntry (cause : BitVec 8) (tval : FaultAt) :
    Sys2Proof.Laws.EventsHaveNoWord.Statement (.trapEntry cause tval) := Sys2Proof.Laws.EventsHaveNoWord.of_event rfl rfl
theorem Sys2Proof.Laws.EventsHaveNoWord.vpTrap :
    Sys2Proof.Laws.EventsHaveNoWord.Statement (.vpTrap) := Sys2Proof.Laws.EventsHaveNoWord.of_event rfl rfl
theorem Sys2Proof.Laws.EventsHaveNoWord.preempt :
    Sys2Proof.Laws.EventsHaveNoWord.Statement (.preempt) := Sys2Proof.Laws.EventsHaveNoWord.of_event rfl rfl
theorem Sys2Proof.Laws.EventsHaveNoWord.resume :
    Sys2Proof.Laws.EventsHaveNoWord.Statement (.resume) := Sys2Proof.Laws.EventsHaveNoWord.of_event rfl rfl
theorem Sys2Proof.Laws.EventsHaveNoWord.spill :
    Sys2Proof.Laws.EventsHaveNoWord.Statement (.spill) := Sys2Proof.Laws.EventsHaveNoWord.of_event rfl rfl
theorem Sys2Proof.Laws.EventsHaveNoWord.kill :
    Sys2Proof.Laws.EventsHaveNoWord.Statement (.kill) := Sys2Proof.Laws.EventsHaveNoWord.of_event rfl rfl
theorem Sys2Proof.Laws.EventsHaveNoWord.mailbox :
    Sys2Proof.Laws.EventsHaveNoWord.Statement (.mailbox) := Sys2Proof.Laws.EventsHaveNoWord.of_event rfl rfl
theorem Sys2Proof.Laws.EventsHaveNoWord.aibBegin (lane : LaneNo) :
    Sys2Proof.Laws.EventsHaveNoWord.Statement (.aibBegin lane) := Sys2Proof.Laws.EventsHaveNoWord.of_event rfl rfl
theorem Sys2Proof.Laws.EventsHaveNoWord.aibComplete (lane : LaneNo) :
    Sys2Proof.Laws.EventsHaveNoWord.Statement (.aibComplete lane) := Sys2Proof.Laws.EventsHaveNoWord.of_event rfl rfl
theorem Sys2Proof.Laws.EventsHaveNoWord.waitComplete :
    Sys2Proof.Laws.EventsHaveNoWord.Statement (.waitComplete) := Sys2Proof.Laws.EventsHaveNoWord.of_event rfl rfl
theorem Sys2Proof.Laws.EventsHaveNoWord.waitWPoll :
    Sys2Proof.Laws.EventsHaveNoWord.Statement (.waitWPoll) := Sys2Proof.Laws.EventsHaveNoWord.of_event rfl rfl
theorem Sys2Proof.Laws.EventsHaveNoWord.hamperHomeOp (n : Nat) :
    Sys2Proof.Laws.EventsHaveNoWord.Statement (.hamperHomeOp n) := Sys2Proof.Laws.EventsHaveNoWord.of_event rfl rfl
theorem Sys2Proof.Laws.EventsHaveNoWord.pairMatch (n : Nat) :
    Sys2Proof.Laws.EventsHaveNoWord.Statement (.pairMatch n) := Sys2Proof.Laws.EventsHaveNoWord.of_event rfl rfl
theorem Sys2Proof.Laws.EventsHaveNoWord.pairWindowExpiry (n : Nat) :
    Sys2Proof.Laws.EventsHaveNoWord.Statement (.pairWindowExpiry n) := Sys2Proof.Laws.EventsHaveNoWord.of_event rfl rfl
theorem Sys2Proof.Laws.EventsHaveNoWord.pageWalk (acc : AccKind) (va : Word) :
    Sys2Proof.Laws.EventsHaveNoWord.Statement (.pageWalk acc va) := Sys2Proof.Laws.EventsHaveNoWord.of_event rfl rfl
theorem Sys2Proof.Laws.EventsHaveNoWord.translationServer (acc : AccKind) (va : FaultAt) :
    Sys2Proof.Laws.EventsHaveNoWord.Statement (.translationServer acc va) := Sys2Proof.Laws.EventsHaveNoWord.of_event rfl rfl
theorem Sys2Proof.Laws.EventsHaveNoWord.copyElement (k : Chan) :
    Sys2Proof.Laws.EventsHaveNoWord.Statement (.copyElement k) := Sys2Proof.Laws.EventsHaveNoWord.of_event rfl rfl
theorem Sys2Proof.Laws.EventsHaveNoWord.spillReplay (k : Chan) :
    Sys2Proof.Laws.EventsHaveNoWord.Statement (.spillReplay k) := Sys2Proof.Laws.EventsHaveNoWord.of_event rfl rfl
theorem Sys2Proof.Laws.EventsHaveNoWord.transferComplete (k : Chan) :
    Sys2Proof.Laws.EventsHaveNoWord.Statement (.transferComplete k) := Sys2Proof.Laws.EventsHaveNoWord.of_event rfl rfl
theorem Sys2Proof.Laws.EventsHaveNoWord.dmetaWrite :
    Sys2Proof.Laws.EventsHaveNoWord.Statement (.dmetaWrite) := Sys2Proof.Laws.EventsHaveNoWord.of_event rfl rfl
theorem Sys2Proof.Laws.EventsHaveNoWord.slotTake (q : QueueNo) :
    Sys2Proof.Laws.EventsHaveNoWord.Statement (.slotTake q) := Sys2Proof.Laws.EventsHaveNoWord.of_event rfl rfl
theorem Sys2Proof.Laws.EventsHaveNoWord.slotReread (q : QueueNo) :
    Sys2Proof.Laws.EventsHaveNoWord.Statement (.slotReread q) := Sys2Proof.Laws.EventsHaveNoWord.of_event rfl rfl
theorem Sys2Proof.Laws.EventsHaveNoWord.starvation (n : Nat) :
    Sys2Proof.Laws.EventsHaveNoWord.Statement (.starvation n) := Sys2Proof.Laws.EventsHaveNoWord.of_event rfl rfl
theorem Sys2Proof.Laws.EventsHaveNoWord.dispatch (p : PartNo) :
    Sys2Proof.Laws.EventsHaveNoWord.Statement (.dispatch p) := Sys2Proof.Laws.EventsHaveNoWord.of_event rfl rfl
theorem Sys2Proof.Laws.EventsHaveNoWord.preemptionComplete (n : Nat) :
    Sys2Proof.Laws.EventsHaveNoWord.Statement (.preemptionComplete n) := Sys2Proof.Laws.EventsHaveNoWord.of_event rfl rfl
theorem Sys2Proof.Laws.EventsHaveNoWord.preloadFault (n : Nat) :
    Sys2Proof.Laws.EventsHaveNoWord.Statement (.preloadFault n) := Sys2Proof.Laws.EventsHaveNoWord.of_event rfl rfl
theorem Sys2Proof.Laws.EventsHaveNoWord.launchComplete (n : Nat) :
    Sys2Proof.Laws.EventsHaveNoWord.Statement (.launchComplete n) := Sys2Proof.Laws.EventsHaveNoWord.of_event rfl rfl
theorem Sys2Proof.Laws.EventsHaveNoWord.replayStart (n : Nat) :
    Sys2Proof.Laws.EventsHaveNoWord.Statement (.replayStart n) := Sys2Proof.Laws.EventsHaveNoWord.of_event rfl rfl
theorem Sys2Proof.Laws.EventsHaveNoWord.doorbellTail (q : QueueNo) (u : Half) :
    Sys2Proof.Laws.EventsHaveNoWord.Statement (.doorbellTail q u) := Sys2Proof.Laws.EventsHaveNoWord.of_event rfl rfl
theorem Sys2Proof.Laws.EventsHaveNoWord.ring (c : CoreNo) :
    Sys2Proof.Laws.EventsHaveNoWord.Statement (.ring c) := Sys2Proof.Laws.EventsHaveNoWord.of_event rfl rfl
theorem Sys2Proof.Laws.EventsHaveNoWord.alert (c : CoreNo) :
    Sys2Proof.Laws.EventsHaveNoWord.Statement (.alert c) := Sys2Proof.Laws.EventsHaveNoWord.of_event rfl rfl
theorem Sys2Proof.Laws.EventsHaveNoWord.dispatchCommand (p : PartNo) :
    Sys2Proof.Laws.EventsHaveNoWord.Statement (.dispatchCommand p) := Sys2Proof.Laws.EventsHaveNoWord.of_event rfl rfl
theorem Sys2Proof.Laws.EventsHaveNoWord.preemptCommand (p : PartNo) :
    Sys2Proof.Laws.EventsHaveNoWord.Statement (.preemptCommand p) := Sys2Proof.Laws.EventsHaveNoWord.of_event rfl rfl
theorem Sys2Proof.Laws.EventsHaveNoWord.answer (p : PartNo) :
    Sys2Proof.Laws.EventsHaveNoWord.Statement (.answer p) := Sys2Proof.Laws.EventsHaveNoWord.of_event rfl rfl
theorem Sys2Proof.Laws.EventsHaveNoWord.replay (p : PartNo) :
    Sys2Proof.Laws.EventsHaveNoWord.Statement (.replay p) := Sys2Proof.Laws.EventsHaveNoWord.of_event rfl rfl
theorem Sys2Proof.Laws.EventsHaveNoWord.proceed (p : PartNo) :
    Sys2Proof.Laws.EventsHaveNoWord.Statement (.proceed p) := Sys2Proof.Laws.EventsHaveNoWord.of_event rfl rfl
theorem Sys2Proof.Laws.EventsHaveNoWord.verdict (p : PartNo) :
    Sys2Proof.Laws.EventsHaveNoWord.Statement (.verdict p) := Sys2Proof.Laws.EventsHaveNoWord.of_event rfl rfl
theorem Sys2Proof.Laws.EventsHaveNoWord.hostWindowWrite (addr : Nat) (data : List Byte) :
    Sys2Proof.Laws.EventsHaveNoWord.Statement (.hostWindowWrite addr data) := Sys2Proof.Laws.EventsHaveNoWord.of_event rfl rfl
theorem Sys2Proof.Laws.EventsHaveNoWord.hostWindowRead (addr : Nat) (n : Nat) :
    Sys2Proof.Laws.EventsHaveNoWord.Statement (.hostWindowRead addr n) := Sys2Proof.Laws.EventsHaveNoWord.of_event rfl rfl
theorem Sys2Proof.Laws.EventsHaveNoWord.registerWrite (addr : Nat) (n : Nat) (v : Word) :
    Sys2Proof.Laws.EventsHaveNoWord.Statement (.registerWrite addr n v) := Sys2Proof.Laws.EventsHaveNoWord.of_event rfl rfl
theorem Sys2Proof.Laws.EventsHaveNoWord.flitCrcRetry (p : PortNo) :
    Sys2Proof.Laws.EventsHaveNoWord.Statement (.flitCrcRetry p) := Sys2Proof.Laws.EventsHaveNoWord.of_event rfl rfl
theorem Sys2Proof.Laws.EventsHaveNoWord.portDown (p : PortNo) :
    Sys2Proof.Laws.EventsHaveNoWord.Statement (.portDown p) := Sys2Proof.Laws.EventsHaveNoWord.of_event rfl rfl
theorem Sys2Proof.Laws.EventsHaveNoWord.remoteElementApply (addr : Nat) (data : List Byte) :
    Sys2Proof.Laws.EventsHaveNoWord.Statement (.remoteElementApply addr data) := Sys2Proof.Laws.EventsHaveNoWord.of_event rfl rfl
theorem Sys2Proof.Laws.EventsHaveNoWord.remoteAcknowledge (k : Chan) :
    Sys2Proof.Laws.EventsHaveNoWord.Statement (.remoteAcknowledge k) := Sys2Proof.Laws.EventsHaveNoWord.of_event rfl rfl
theorem Sys2Proof.Laws.EventsHaveNoWord.deviceReset :
    Sys2Proof.Laws.EventsHaveNoWord.Statement (.deviceReset) := Sys2Proof.Laws.EventsHaveNoWord.of_event rfl rfl
theorem Sys2Proof.Laws.EventsHaveNoWord.imageVerify :
    Sys2Proof.Laws.EventsHaveNoWord.Statement (.imageVerify) := Sys2Proof.Laws.EventsHaveNoWord.of_event rfl rfl
theorem Sys2Proof.Laws.EventsHaveNoWord.sgo :
    Sys2Proof.Laws.EventsHaveNoWord.Statement (.sgo) := Sys2Proof.Laws.EventsHaveNoWord.of_event rfl rfl
theorem Sys2Proof.Laws.EventsHaveNoWord.ago :
    Sys2Proof.Laws.EventsHaveNoWord.Statement (.ago) := Sys2Proof.Laws.EventsHaveNoWord.of_event rfl rfl
theorem Sys2Proof.Laws.EventsHaveNoWord.plimit (v : Word) :
    Sys2Proof.Laws.EventsHaveNoWord.Statement (.plimit v) := Sys2Proof.Laws.EventsHaveNoWord.of_event rfl rfl
theorem Sys2Proof.Laws.EventsHaveNoWord.throttleAdjust (up : Bool) :
    Sys2Proof.Laws.EventsHaveNoWord.Statement (.throttleAdjust up) := Sys2Proof.Laws.EventsHaveNoWord.of_event rfl rfl
theorem Sys2Proof.Laws.EventsHaveNoWord.overTemperature (die : DieNo) :
    Sys2Proof.Laws.EventsHaveNoWord.Statement (.overTemperature die) := Sys2Proof.Laws.EventsHaveNoWord.of_event rfl rfl
theorem Sys2Proof.Laws.EventsHaveNoWord.storageError (site : ErrSite) (how : ErrHow) :
    Sys2Proof.Laws.EventsHaveNoWord.Statement (.storageError site how) := Sys2Proof.Laws.EventsHaveNoWord.of_event rfl rfl
theorem Sys2Proof.Laws.EventsHaveNoWord.lastingCoreFault (c : CoreNo) :
    Sys2Proof.Laws.EventsHaveNoWord.Statement (.lastingCoreFault c) := Sys2Proof.Laws.EventsHaveNoWord.of_event rfl rfl
theorem Sys2Proof.Laws.EventsHaveNoWord.writeQueueExecution (op : HomeOp) :
    Sys2Proof.Laws.EventsHaveNoWord.Statement (.writeQueueExecution op) := Sys2Proof.Laws.EventsHaveNoWord.of_event rfl rfl
theorem Sys2Proof.Laws.EventsHaveNoWord.sliceAcknowledgement (sl : SliceNo) :
    Sys2Proof.Laws.EventsHaveNoWord.Statement (.sliceAcknowledgement sl) := Sys2Proof.Laws.EventsHaveNoWord.of_event rfl rfl
theorem Sys2Proof.Laws.EventsHaveNoWord.eread (p : PartNo) (v : Half) :
    Sys2Proof.Laws.EventsHaveNoWord.Statement (.eread p v) := Sys2Proof.Laws.EventsHaveNoWord.of_event rfl rfl
theorem Sys2Proof.Laws.EventsHaveNoWord.portRetrain (p : PortNo) :
    Sys2Proof.Laws.EventsHaveNoWord.Statement (.portRetrain p) := Sys2Proof.Laws.EventsHaveNoWord.of_event rfl rfl
end

