-- ==== Sys2Proof/Laws/State.lean ====
section
/-!
SUPPORT. The laws of the state's updates: one lemma for each field of each update, so that no proof unfolds a record update; and
the laws of registers (04_state R69) and of the ways a meaning ends.
-/

namespace Sys2Proof.Machine

/-! ### Vectors by number -/

@[simp] theorem get_set_same {α : Type} {n : Nat} (v : Vector α n) (i : Fin n) (a : α) : (v.set i.val a i.isLt).get i = a := by
  show (v.set i.val a i.isLt)[i.val] = a
  simp

theorem get_set_ne {α : Type} {n : Nat} (v : Vector α n) (i j : Fin n) (a : α) (h : j ≠ i) :
    (v.set i.val a i.isLt).get j = v.get j := by
  show (v.set i.val a i.isLt)[j.val] = v[j.val]
  have hv : i.val ≠ j.val := fun e => h (Fin.ext e.symm)
  simp [hv]

@[simp] theorem set_get_self {α : Type} {n : Nat} (v : Vector α n) (i : Fin n) : v.set i.val (v.get i) i.isLt = v := by
  show v.set i.val v[i.val] i.isLt = v
  simp

/-! ### A core replaced -/

@[simp] theorem setCore_core (s : State) (c : Core) : (s.setCore c).core = c := get_set_same s.dev.cores s.cur c

/-- Every other core is unchanged. -/
theorem setCore_other (s : State) (c : Core) (i : CoreNo) (h : i ≠ s.cur) :
    (s.setCore c).dev.cores.get i = s.dev.cores.get i := by
  exact get_set_ne s.dev.cores s.cur i c h

/-- A core put back as it is changes nothing. -/
@[simp] theorem setCore_self (s : State) : s.setCore s.core = s := by simp [State.setCore, State.core]

@[simp] theorem setCore_setCore (s : State) (c c' : Core) : (s.setCore c).setCore c' = s.setCore c' := by
  simp [State.setCore]

@[simp] theorem setCore_thr (s : State) (c : Core) : (s.setCore c).thr = c.thr := by
  simp [State.thr]

@[simp] theorem setCore_base (s : State) (c : Core) : (s.setCore c).base = s.base := rfl
@[simp] theorem setCore_ctx (s : State) (c : Core) : (s.setCore c).ctx = s.ctx := rfl
@[simp] theorem setCore_agenda (s : State) (c : Core) : (s.setCore c).agenda = s.agenda := rfl
@[simp] theorem setCore_cur (s : State) (c : Core) : (s.setCore c).cur = s.cur := rfl
@[simp] theorem setCore_tick (s : State) (c : Core) : (s.setCore c).tick = s.tick := rfl
@[simp] theorem setCore_dev_mem (s : State) (c : Core) : (s.setCore c).dev.mem = s.dev.mem := rfl
@[simp] theorem setCore_dev_poison (s : State) (c : Core) : (s.setCore c).dev.poison = s.dev.poison := rfl
@[simp] theorem setCore_dev_remote (s : State) (c : Core) : (s.setCore c).dev.remote = s.dev.remote := rfl
@[simp] theorem setCore_dev_held (s : State) (c : Core) : (s.setCore c).dev.held = s.dev.held := rfl
@[simp] theorem setCore_dev_dstate (s : State) (c : Core) : (s.setCore c).dev.dstate = s.dev.dstate := rfl
@[simp] theorem setCore_dev_duty (s : State) (c : Core) : (s.setCore c).dev.duty = s.dev.duty := rfl
@[simp] theorem setCore_dev_pwin (s : State) (c : Core) : (s.setCore c).dev.pwin = s.dev.pwin := rfl
@[simp] theorem setCore_dev_pairTab (s : State) (c : Core) : (s.setCore c).dev.pairTab = s.dev.pairTab := rfl
@[simp] theorem setCore_dev_hops (s : State) (c : Core) : (s.setCore c).dev.hops = s.dev.hops := rfl
@[simp] theorem setCore_dev_parts (s : State) (c : Core) : (s.setCore c).dev.parts = s.dev.parts := rfl
@[simp] theorem setCore_dev_time (s : State) (c : Core) : (s.setCore c).dev.time = s.dev.time := rfl
@[simp] theorem setCore_dev_launches (s : State) (c : Core) : (s.setCore c).dev.launches = s.dev.launches := rfl
@[simp] theorem setCore_dev_replays (s : State) (c : Core) : (s.setCore c).dev.replays = s.dev.replays := rfl
@[simp] theorem setCore_dev_producers (s : State) (c : Core) : (s.setCore c).dev.producers = s.dev.producers := rfl
@[simp] theorem setCore_dev_kept (s : State) (c : Core) : (s.setCore c).dev.kept = s.dev.kept := rfl
@[simp] theorem setCore_dev_stuck (s : State) (c : Core) : (s.setCore c).dev.stuck = s.dev.stuck := rfl
@[simp] theorem setCore_dev_mailboxes (s : State) (c : Core) : (s.setCore c).dev.mailboxes = s.dev.mailboxes := rfl
@[simp] theorem setCore_dev_chans (s : State) (c : Core) : (s.setCore c).dev.chans = s.dev.chans := rfl
@[simp] theorem setCore_dev_msix (s : State) (c : Core) : (s.setCore c).dev.msix = s.dev.msix := rfl
@[simp] theorem setCore_dev_portUp (s : State) (c : Core) : (s.setCore c).dev.portUp = s.dev.portUp := rfl
@[simp] theorem setCore_dev_retries (s : State) (c : Core) : (s.setCore c).dev.retries = s.dev.retries := rfl
@[simp] theorem setCore_dev_fid (s : State) (c : Core) : (s.setCore c).dev.fid = s.dev.fid := rfl
@[simp] theorem setCore_dev_boot (s : State) (c : Core) : (s.setCore c).dev.boot = s.dev.boot := rfl
@[simp] theorem setCore_dev_flash (s : State) (c : Core) : (s.setCore c).dev.flash = s.dev.flash := rfl
@[simp] theorem setCore_dev_hostData (s : State) (c : Core) : (s.setCore c).dev.hostData = s.dev.hostData := rfl
@[simp] theorem setCore_dev_nextId (s : State) (c : Core) : (s.setCore c).dev.nextId = s.dev.nextId := rfl
@[simp] theorem setCore_dev_nextArrival (s : State) (c : Core) : (s.setCore c).dev.nextArrival = s.dev.nextArrival := rfl
@[simp] theorem setCore_dev_nextTag (s : State) (c : Core) : (s.setCore c).dev.nextTag = s.dev.nextTag := rfl

/-! ### A thread replaced -/

@[simp] theorem setThr_thr (s : State) (t : Thread) : (s.setThr t).thr = t := by
  simp [State.thr, State.setThr]

@[simp] theorem setThr_core (s : State) (t : Thread) : (s.setThr t).core = { s.core with thr := t } := by
  simp [State.setThr]

/-- Every other core is unchanged. -/
theorem setThr_other (s : State) (t : Thread) (i : CoreNo) (h : i ≠ s.cur) :
    (s.setThr t).dev.cores.get i = s.dev.cores.get i := setCore_other s _ i h

@[simp] theorem setThr_base (s : State) (t : Thread) : (s.setThr t).base = s.base := rfl
@[simp] theorem setThr_ctx (s : State) (t : Thread) : (s.setThr t).ctx = s.ctx := rfl
@[simp] theorem setThr_agenda (s : State) (t : Thread) : (s.setThr t).agenda = s.agenda := rfl
@[simp] theorem setThr_cur (s : State) (t : Thread) : (s.setThr t).cur = s.cur := rfl
@[simp] theorem setThr_tick (s : State) (t : Thread) : (s.setThr t).tick = s.tick := rfl
@[simp] theorem setThr_dev_mem (s : State) (t : Thread) : (s.setThr t).dev.mem = s.dev.mem := rfl
@[simp] theorem setThr_dev_poison (s : State) (t : Thread) : (s.setThr t).dev.poison = s.dev.poison := rfl
@[simp] theorem setThr_dev_remote (s : State) (t : Thread) : (s.setThr t).dev.remote = s.dev.remote := rfl
@[simp] theorem setThr_dev_held (s : State) (t : Thread) : (s.setThr t).dev.held = s.dev.held := rfl
@[simp] theorem setThr_dev_dstate (s : State) (t : Thread) : (s.setThr t).dev.dstate = s.dev.dstate := rfl
@[simp] theorem setThr_dev_duty (s : State) (t : Thread) : (s.setThr t).dev.duty = s.dev.duty := rfl
@[simp] theorem setThr_dev_pwin (s : State) (t : Thread) : (s.setThr t).dev.pwin = s.dev.pwin := rfl
@[simp] theorem setThr_dev_pairTab (s : State) (t : Thread) : (s.setThr t).dev.pairTab = s.dev.pairTab := rfl
@[simp] theorem setThr_dev_hops (s : State) (t : Thread) : (s.setThr t).dev.hops = s.dev.hops := rfl
@[simp] theorem setThr_dev_parts (s : State) (t : Thread) : (s.setThr t).dev.parts = s.dev.parts := rfl
@[simp] theorem setThr_dev_time (s : State) (t : Thread) : (s.setThr t).dev.time = s.dev.time := rfl
@[simp] theorem setThr_dev_launches (s : State) (t : Thread) : (s.setThr t).dev.launches = s.dev.launches := rfl
@[simp] theorem setThr_dev_replays (s : State) (t : Thread) : (s.setThr t).dev.replays = s.dev.replays := rfl
@[simp] theorem setThr_dev_producers (s : State) (t : Thread) : (s.setThr t).dev.producers = s.dev.producers := rfl
@[simp] theorem setThr_dev_kept (s : State) (t : Thread) : (s.setThr t).dev.kept = s.dev.kept := rfl
@[simp] theorem setThr_dev_stuck (s : State) (t : Thread) : (s.setThr t).dev.stuck = s.dev.stuck := rfl
@[simp] theorem setThr_dev_mailboxes (s : State) (t : Thread) : (s.setThr t).dev.mailboxes = s.dev.mailboxes := rfl
@[simp] theorem setThr_dev_chans (s : State) (t : Thread) : (s.setThr t).dev.chans = s.dev.chans := rfl
@[simp] theorem setThr_dev_msix (s : State) (t : Thread) : (s.setThr t).dev.msix = s.dev.msix := rfl
@[simp] theorem setThr_dev_portUp (s : State) (t : Thread) : (s.setThr t).dev.portUp = s.dev.portUp := rfl
@[simp] theorem setThr_dev_retries (s : State) (t : Thread) : (s.setThr t).dev.retries = s.dev.retries := rfl
@[simp] theorem setThr_dev_fid (s : State) (t : Thread) : (s.setThr t).dev.fid = s.dev.fid := rfl
@[simp] theorem setThr_dev_boot (s : State) (t : Thread) : (s.setThr t).dev.boot = s.dev.boot := rfl
@[simp] theorem setThr_dev_flash (s : State) (t : Thread) : (s.setThr t).dev.flash = s.dev.flash := rfl
@[simp] theorem setThr_dev_hostData (s : State) (t : Thread) : (s.setThr t).dev.hostData = s.dev.hostData := rfl
@[simp] theorem setThr_dev_nextId (s : State) (t : Thread) : (s.setThr t).dev.nextId = s.dev.nextId := rfl
@[simp] theorem setThr_dev_nextArrival (s : State) (t : Thread) : (s.setThr t).dev.nextArrival = s.dev.nextArrival := rfl
@[simp] theorem setThr_dev_nextTag (s : State) (t : Thread) : (s.setThr t).dev.nextTag = s.dev.nextTag := rfl

/-! ### Registers of a core -/

/-- `x0` reads zero (R69). -/
@[simp] theorem getX_zero (c : Core) : c.getX 0 = 0 := rfl
/-- A write to `x0` is discarded (R69). -/
@[simp] theorem setX_zero (c : Core) (v : Word) : c.setX 0 v = c := rfl

@[simp] theorem setBank_bank (c : Core) (b : Vector Word 64) : (c.setBank b).bank = b := by
  unfold Core.setBank
  by_cases h0 : c.pl = 0
  · simp [h0, Core.bank]
  · rw [if_neg h0]
    by_cases h1 : c.pl = 1
    · simp [h1, Core.bank]
    · rw [if_neg h1]; simp only [Core.bank]; rw [if_neg h0, if_neg h1]

/-- A register written reads back. -/
theorem getX_setX_same (c : Core) (r : XReg) (v : Word) (h : r ≠ 0) : (c.setX r v).getX r = v := by
  simp [Core.setX, Core.getX, h]

/-- Every other register reads as before. -/
theorem getX_setX_ne (c : Core) (r q : XReg) (v : Word) (h : q ≠ r) : (c.setX r v).getX q = c.getX q := by
  unfold Core.setX
  split
  · rfl
  · unfold Core.getX
    rw [setBank_bank, get_set_ne c.bank r q v h]

@[simp] theorem setBank_mode (c : Core) (b : Vector Word 64) : (c.setBank b).mode = c.mode := by
  unfold Core.setBank; split <;> [rfl; (split <;> rfl)]
@[simp] theorem setX_mode (c : Core) (r : XReg) (v : Word) : (c.setX r v).mode = c.mode := by
  unfold Core.setX; split <;> simp
@[simp] theorem setBank_pc (c : Core) (b : Vector Word 64) : (c.setBank b).pc = c.pc := by
  unfold Core.setBank; split <;> [rfl; (split <;> rfl)]
@[simp] theorem setX_pc (c : Core) (r : XReg) (v : Word) : (c.setX r v).pc = c.pc := by
  unfold Core.setX; split <;> simp
@[simp] theorem setBank_pl (c : Core) (b : Vector Word 64) : (c.setBank b).pl = c.pl := by
  unfold Core.setBank; split <;> [rfl; (split <;> rfl)]
@[simp] theorem setX_pl (c : Core) (r : XReg) (v : Word) : (c.setX r v).pl = c.pl := by
  unfold Core.setX; split <;> simp
@[simp] theorem setBank_ie (c : Core) (b : Vector Word 64) : (c.setBank b).ie = c.ie := by
  unfold Core.setBank; split <;> [rfl; (split <;> rfl)]
@[simp] theorem setX_ie (c : Core) (r : XReg) (v : Word) : (c.setX r v).ie = c.ie := by
  unfold Core.setX; split <;> simp
@[simp] theorem setBank_t1 (c : Core) (b : Vector Word 64) : (c.setBank b).t1 = c.t1 := by
  unfold Core.setBank; split <;> [rfl; (split <;> rfl)]
@[simp] theorem setX_t1 (c : Core) (r : XReg) (v : Word) : (c.setX r v).t1 = c.t1 := by
  unfold Core.setX; split <;> simp
@[simp] theorem setBank_t2 (c : Core) (b : Vector Word 64) : (c.setBank b).t2 = c.t2 := by
  unfold Core.setBank; split <;> [rfl; (split <;> rfl)]
@[simp] theorem setX_t2 (c : Core) (r : XReg) (v : Word) : (c.setX r v).t2 = c.t2 := by
  unfold Core.setX; split <;> simp
@[simp] theorem setBank_ptbr (c : Core) (b : Vector Word 64) : (c.setBank b).ptbr = c.ptbr := by
  unfold Core.setBank; split <;> [rfl; (split <;> rfl)]
@[simp] theorem setX_ptbr (c : Core) (r : XReg) (v : Word) : (c.setX r v).ptbr = c.ptbr := by
  unfold Core.setX; split <;> simp
@[simp] theorem setBank_asid (c : Core) (b : Vector Word 64) : (c.setBank b).asid = c.asid := by
  unfold Core.setBank; split <;> [rfl; (split <;> rfl)]
@[simp] theorem setX_asid (c : Core) (r : XReg) (v : Word) : (c.setX r v).asid = c.asid := by
  unfold Core.setX; split <;> simp
@[simp] theorem setBank_part (c : Core) (b : Vector Word 64) : (c.setBank b).part = c.part := by
  unfold Core.setBank; split <;> [rfl; (split <;> rfl)]
@[simp] theorem setX_part (c : Core) (r : XReg) (v : Word) : (c.setX r v).part = c.part := by
  unfold Core.setX; split <;> simp
@[simp] theorem setBank_am (c : Core) (b : Vector Word 64) : (c.setBank b).am = c.am := by
  unfold Core.setBank; split <;> [rfl; (split <;> rfl)]
@[simp] theorem setX_am (c : Core) (r : XReg) (v : Word) : (c.setX r v).am = c.am := by
  unfold Core.setX; split <;> simp
@[simp] theorem setBank_ab (c : Core) (b : Vector Word 64) : (c.setBank b).ab = c.ab := by
  unfold Core.setBank; split <;> [rfl; (split <;> rfl)]
@[simp] theorem setX_ab (c : Core) (r : XReg) (v : Word) : (c.setX r v).ab = c.ab := by
  unfold Core.setX; split <;> simp
@[simp] theorem setBank_wb (c : Core) (b : Vector Word 64) : (c.setBank b).wb = c.wb := by
  unfold Core.setBank; split <;> [rfl; (split <;> rfl)]
@[simp] theorem setX_wb (c : Core) (r : XReg) (v : Word) : (c.setX r v).wb = c.wb := by
  unfold Core.setX; split <;> simp
@[simp] theorem setBank_md (c : Core) (b : Vector Word 64) : (c.setBank b).md = c.md := by
  unfold Core.setBank; split <;> [rfl; (split <;> rfl)]
@[simp] theorem setX_md (c : Core) (r : XReg) (v : Word) : (c.setX r v).md = c.md := by
  unfold Core.setX; split <;> simp
@[simp] theorem setBank_abStamp (c : Core) (b : Vector Word 64) : (c.setBank b).abStamp = c.abStamp := by
  unfold Core.setBank; split <;> [rfl; (split <;> rfl)]
@[simp] theorem setX_abStamp (c : Core) (r : XReg) (v : Word) : (c.setX r v).abStamp = c.abStamp := by
  unfold Core.setX; split <;> simp
@[simp] theorem setBank_wbStamp (c : Core) (b : Vector Word 64) : (c.setBank b).wbStamp = c.wbStamp := by
  unfold Core.setBank; split <;> [rfl; (split <;> rfl)]
@[simp] theorem setX_wbStamp (c : Core) (r : XReg) (v : Word) : (c.setX r v).wbStamp = c.wbStamp := by
  unfold Core.setX; split <;> simp
@[simp] theorem setBank_abPoison (c : Core) (b : Vector Word 64) : (c.setBank b).abPoison = c.abPoison := by
  unfold Core.setBank; split <;> [rfl; (split <;> rfl)]
@[simp] theorem setX_abPoison (c : Core) (r : XReg) (v : Word) : (c.setX r v).abPoison = c.abPoison := by
  unfold Core.setX; split <;> simp
@[simp] theorem setBank_wbPoison (c : Core) (b : Vector Word 64) : (c.setBank b).wbPoison = c.wbPoison := by
  unfold Core.setBank; split <;> [rfl; (split <;> rfl)]
@[simp] theorem setX_wbPoison (c : Core) (r : XReg) (v : Word) : (c.setX r v).wbPoison = c.wbPoison := by
  unfold Core.setX; split <;> simp
@[simp] theorem setBank_wbTag (c : Core) (b : Vector Word 64) : (c.setBank b).wbTag = c.wbTag := by
  unfold Core.setBank; split <;> [rfl; (split <;> rfl)]
@[simp] theorem setX_wbTag (c : Core) (r : XReg) (v : Word) : (c.setX r v).wbTag = c.wbTag := by
  unfold Core.setX; split <;> simp
@[simp] theorem setBank_launchTag (c : Core) (b : Vector Word 64) : (c.setBank b).launchTag = c.launchTag := by
  unfold Core.setBank; split <;> [rfl; (split <;> rfl)]
@[simp] theorem setX_launchTag (c : Core) (r : XReg) (v : Word) : (c.setX r v).launchTag = c.launchTag := by
  unfold Core.setX; split <;> simp
@[simp] theorem setBank_tlb (c : Core) (b : Vector Word 64) : (c.setBank b).tlb = c.tlb := by
  unfold Core.setBank; split <;> [rfl; (split <;> rfl)]
@[simp] theorem setX_tlb (c : Core) (r : XReg) (v : Word) : (c.setX r v).tlb = c.tlb := by
  unfold Core.setX; split <;> simp
@[simp] theorem setBank_touched (c : Core) (b : Vector Word 64) : (c.setBank b).touched = c.touched := by
  unfold Core.setBank; split <;> [rfl; (split <;> rfl)]
@[simp] theorem setBank_touchedBufs (c : Core) (b : Vector Word 64) : (c.setBank b).touchedBufs = c.touchedBufs := by
  unfold Core.setBank; split <;> [rfl; (split <;> rfl)]
@[simp] theorem setX_touched (c : Core) (r : XReg) (v : Word) : (c.setX r v).touched = c.touched := by
  unfold Core.setX; split <;> simp
@[simp] theorem setX_touchedBufs (c : Core) (r : XReg) (v : Word) : (c.setX r v).touchedBufs = c.touchedBufs := by
  unfold Core.setX; split <;> simp
@[simp] theorem setBank_irq (c : Core) (b : Vector Word 64) : (c.setBank b).irq = c.irq := by
  unfold Core.setBank; split <;> [rfl; (split <;> rfl)]
@[simp] theorem setX_irq (c : Core) (r : XReg) (v : Word) : (c.setX r v).irq = c.irq := by
  unfold Core.setX; split <;> simp
@[simp] theorem setBank_launch (c : Core) (b : Vector Word 64) : (c.setBank b).launch = c.launch := by
  unfold Core.setBank; split <;> [rfl; (split <;> rfl)]
@[simp] theorem setX_launch (c : Core) (r : XReg) (v : Word) : (c.setX r v).launch = c.launch := by
  unfold Core.setX; split <;> simp
@[simp] theorem setBank_ended (c : Core) (b : Vector Word 64) : (c.setBank b).ended = c.ended := by
  unfold Core.setBank; split <;> [rfl; (split <;> rfl)]
@[simp] theorem setX_ended (c : Core) (r : XReg) (v : Word) : (c.setX r v).ended = c.ended := by
  unfold Core.setX; split <;> simp
@[simp] theorem setBank_idleBelow (c : Core) (b : Vector Word 64) : (c.setBank b).idleBelow = c.idleBelow := by
  unfold Core.setBank; split <;> [rfl; (split <;> rfl)]
@[simp] theorem setX_idleBelow (c : Core) (r : XReg) (v : Word) : (c.setX r v).idleBelow = c.idleBelow := by
  unfold Core.setX; split <;> simp
@[simp] theorem setBank_vpsStopped (c : Core) (b : Vector Word 64) : (c.setBank b).vpsStopped = c.vpsStopped := by
  unfold Core.setBank; split <;> [rfl; (split <;> rfl)]
@[simp] theorem setX_vpsStopped (c : Core) (r : XReg) (v : Word) : (c.setX r v).vpsStopped = c.vpsStopped := by
  unfold Core.setX; split <;> simp
@[simp] theorem setBank_wait (c : Core) (b : Vector Word 64) : (c.setBank b).wait = c.wait := by
  unfold Core.setBank; split <;> [rfl; (split <;> rfl)]
@[simp] theorem setBank_split (c : Core) (b : Vector Word 64) : (c.setBank b).split = c.split := by
  unfold Core.setBank; split <;> [rfl; (split <;> rfl)]
@[simp] theorem setBank_lateNo (c : Core) (b : Vector Word 64) : (c.setBank b).lateNo = c.lateNo := by
  unfold Core.setBank; split <;> (try split) <;> rfl
@[simp] theorem setBank_late (c : Core) (b : Vector Word 64) : (c.setBank b).late = c.late := by
  unfold Core.setBank; split <;> [rfl; (split <;> rfl)]
@[simp] theorem setX_wait (c : Core) (r : XReg) (v : Word) : (c.setX r v).wait = c.wait := by
  unfold Core.setX; split <;> simp
@[simp] theorem setX_split (c : Core) (r : XReg) (v : Word) : (c.setX r v).split = c.split := by
  unfold Core.setX; split <;> simp
@[simp] theorem setX_lateNo (c : Core) (r : XReg) (v : Word) : (c.setX r v).lateNo = c.lateNo := by
  unfold Core.setX; split <;> simp
@[simp] theorem setX_late (c : Core) (r : XReg) (v : Word) : (c.setX r v).late = c.late := by
  unfold Core.setX; split <;> simp
@[simp] theorem setBank_opBase (c : Core) (b : Vector Word 64) : (c.setBank b).opBase = c.opBase := by
  unfold Core.setBank; split <;> [rfl; (split <;> rfl)]
@[simp] theorem setX_opBase (c : Core) (r : XReg) (v : Word) : (c.setX r v).opBase = c.opBase := by
  unfold Core.setX; split <;> simp
@[simp] theorem setBank_opSlips (c : Core) (b : Vector Word 64) : (c.setBank b).opSlips = c.opSlips := by
  unfold Core.setBank; split <;> [rfl; (split <;> rfl)]
@[simp] theorem setX_opSlips (c : Core) (r : XReg) (v : Word) : (c.setX r v).opSlips = c.opSlips := by
  unfold Core.setX; split <;> simp
@[simp] theorem setBank_laneDone (c : Core) (b : Vector Word 64) : (c.setBank b).laneDone = c.laneDone := by
  unfold Core.setBank; split <;> [rfl; (split <;> rfl)]
@[simp] theorem setX_laneDone (c : Core) (r : XReg) (v : Word) : (c.setX r v).laneDone = c.laneDone := by
  unfold Core.setX; split <;> simp
@[simp] theorem setBank_dmeta (c : Core) (b : Vector Word 64) : (c.setBank b).dmeta = c.dmeta := by
  unfold Core.setBank; split <;> [rfl; (split <;> rfl)]
@[simp] theorem setX_dmeta (c : Core) (r : XReg) (v : Word) : (c.setX r v).dmeta = c.dmeta := by
  unfold Core.setX; split <;> simp
@[simp] theorem setBank_saved (c : Core) (b : Vector Word 64) : (c.setBank b).saved = c.saved := by
  unfold Core.setBank; split <;> [rfl; (split <;> rfl)]
@[simp] theorem setX_saved (c : Core) (r : XReg) (v : Word) : (c.setX r v).saved = c.saved := by
  unfold Core.setX; split <;> simp
@[simp] theorem setBank_thr_v (c : Core) (b : Vector Word 64) : (c.setBank b).thr.v = c.thr.v := by
  unfold Core.setBank; split <;> [rfl; (split <;> rfl)]
@[simp] theorem setX_thr_v (c : Core) (r : XReg) (v : Word) : (c.setX r v).thr.v = c.thr.v := by
  unfold Core.setX; split <;> simp
@[simp] theorem setBank_thr_m (c : Core) (b : Vector Word 64) : (c.setBank b).thr.m = c.thr.m := by
  unfold Core.setBank; split <;> [rfl; (split <;> rfl)]
@[simp] theorem setX_thr_m (c : Core) (r : XReg) (v : Word) : (c.setX r v).thr.m = c.thr.m := by
  unfold Core.setX; split <;> simp
@[simp] theorem setBank_thr_vl (c : Core) (b : Vector Word 64) : (c.setBank b).thr.vl = c.thr.vl := by
  unfold Core.setBank; split <;> [rfl; (split <;> rfl)]
@[simp] theorem setX_thr_vl (c : Core) (r : XReg) (v : Word) : (c.setX r v).thr.vl = c.thr.vl := by
  unfold Core.setX; split <;> simp
@[simp] theorem setBank_thr_ew (c : Core) (b : Vector Word 64) : (c.setBank b).thr.ew = c.thr.ew := by
  unfold Core.setBank; split <;> [rfl; (split <;> rfl)]
@[simp] theorem setX_thr_ew (c : Core) (r : XReg) (v : Word) : (c.setX r v).thr.ew = c.thr.ew := by
  unfold Core.setX; split <;> simp
@[simp] theorem setBank_thr_slip (c : Core) (b : Vector Word 64) : (c.setBank b).thr.slip = c.thr.slip := by
  unfold Core.setBank; split <;> [rfl; (split <;> rfl)]
@[simp] theorem setX_thr_slip (c : Core) (r : XReg) (v : Word) : (c.setX r v).thr.slip = c.thr.slip := by
  unfold Core.setX; split <;> simp
@[simp] theorem setBank_thr_dl (c : Core) (b : Vector Word 64) : (c.setBank b).thr.dl = c.thr.dl := by
  unfold Core.setBank; split <;> [rfl; (split <;> rfl)]
@[simp] theorem setX_thr_dl (c : Core) (r : XReg) (v : Word) : (c.setX r v).thr.dl = c.thr.dl := by
  unfold Core.setX; split <;> simp
@[simp] theorem setBank_thr_dmode (c : Core) (b : Vector Word 64) : (c.setBank b).thr.dmode = c.thr.dmode := by
  unfold Core.setBank; split <;> [rfl; (split <;> rfl)]
@[simp] theorem setX_thr_dmode (c : Core) (r : XReg) (v : Word) : (c.setX r v).thr.dmode = c.thr.dmode := by
  unfold Core.setX; split <;> simp
@[simp] theorem setBank_thr_mn (c : Core) (b : Vector Word 64) : (c.setBank b).thr.mn = c.thr.mn := by
  unfold Core.setBank; split <;> [rfl; (split <;> rfl)]
@[simp] theorem setX_thr_mn (c : Core) (r : XReg) (v : Word) : (c.setX r v).thr.mn = c.thr.mn := by
  unfold Core.setX; split <;> simp
@[simp] theorem setBank_thr_nctl (c : Core) (b : Vector Word 64) : (c.setBank b).thr.nctl = c.thr.nctl := by
  unfold Core.setBank; split <;> [rfl; (split <;> rfl)]
@[simp] theorem setX_thr_nctl (c : Core) (r : XReg) (v : Word) : (c.setX r v).thr.nctl = c.thr.nctl := by
  unfold Core.setX; split <;> simp
@[simp] theorem setBank_thr_srseed (c : Core) (b : Vector Word 64) : (c.setBank b).thr.srseed = c.thr.srseed := by
  unfold Core.setBank; split <;> [rfl; (split <;> rfl)]
@[simp] theorem setX_thr_srseed (c : Core) (r : XReg) (v : Word) : (c.setX r v).thr.srseed = c.thr.srseed := by
  unfold Core.setX; split <;> simp
@[simp] theorem setBank_thr_vstart (c : Core) (b : Vector Word 64) : (c.setBank b).thr.vstart = c.thr.vstart := by
  unfold Core.setBank; split <;> [rfl; (split <;> rfl)]
@[simp] theorem setX_thr_vstart (c : Core) (r : XReg) (v : Word) : (c.setX r v).thr.vstart = c.thr.vstart := by
  unfold Core.setX; split <;> simp
@[simp] theorem setBank_thr_vstartPc (c : Core) (b : Vector Word 64) : (c.setBank b).thr.vstartPc = c.thr.vstartPc := by
  unfold Core.setBank; split <;> [rfl; (split <;> rfl)]
@[simp] theorem setX_thr_vstartPc (c : Core) (r : XReg) (v : Word) : (c.setX r v).thr.vstartPc = c.thr.vstartPc := by
  unfold Core.setX; split <;> simp
@[simp] theorem setBank_thr_vstartPl (c : Core) (b : Vector Word 64) : (c.setBank b).thr.vstartPl = c.thr.vstartPl := by
  unfold Core.setBank; split <;> [rfl; (split <;> rfl)]
@[simp] theorem setX_thr_vstartPl (c : Core) (r : XReg) (v : Word) : (c.setX r v).thr.vstartPl = c.thr.vstartPl := by
  unfold Core.setX; split <;> simp
@[simp] theorem setBank_thr_tid (c : Core) (b : Vector Word 64) : (c.setBank b).thr.tid = c.thr.tid := by
  unfold Core.setBank; split <;> [rfl; (split <;> rfl)]
@[simp] theorem setX_thr_tid (c : Core) (r : XReg) (v : Word) : (c.setX r v).thr.tid = c.thr.tid := by
  unfold Core.setX; split <;> simp
@[simp] theorem setBank_thr_lnch (c : Core) (b : Vector Word 64) : (c.setBank b).thr.lnch = c.thr.lnch := by
  unfold Core.setBank; split <;> [rfl; (split <;> rfl)]
@[simp] theorem setX_thr_lnch (c : Core) (r : XReg) (v : Word) : (c.setX r v).thr.lnch = c.thr.lnch := by
  unfold Core.setX; split <;> simp
@[simp] theorem setBank_thr_gmem (c : Core) (b : Vector Word 64) : (c.setBank b).thr.gmem = c.thr.gmem := by
  unfold Core.setBank; split <;> [rfl; (split <;> rfl)]
@[simp] theorem setX_thr_gmem (c : Core) (r : XReg) (v : Word) : (c.setX r v).thr.gmem = c.thr.gmem := by
  unfold Core.setX; split <;> simp
@[simp] theorem setBank_thr_nthr (c : Core) (b : Vector Word 64) : (c.setBank b).thr.nthr = c.thr.nthr := by
  unfold Core.setBank; split <;> [rfl; (split <;> rfl)]
@[simp] theorem setX_thr_nthr (c : Core) (r : XReg) (v : Word) : (c.setX r v).thr.nthr = c.thr.nthr := by
  unfold Core.setX; split <;> simp
@[simp] theorem setBank_thr_vps (c : Core) (b : Vector Word 64) : (c.setBank b).thr.vps = c.thr.vps := by
  unfold Core.setBank; split <;> [rfl; (split <;> rfl)]
@[simp] theorem setX_thr_vps (c : Core) (r : XReg) (v : Word) : (c.setX r v).thr.vps = c.thr.vps := by
  unfold Core.setX; split <;> simp
@[simp] theorem setBank_thr_threadMode (c : Core) (b : Vector Word 64) : (c.setBank b).thr.threadMode = c.thr.threadMode := by
  unfold Core.setBank; split <;> [rfl; (split <;> rfl)]
@[simp] theorem setX_thr_threadMode (c : Core) (r : XReg) (v : Word) : (c.setX r v).thr.threadMode = c.thr.threadMode := by
  unfold Core.setX; split <;> simp
@[simp] theorem setBank_thr_vpLevel (c : Core) (b : Vector Word 64) : (c.setBank b).thr.vpLevel = c.thr.vpLevel := by
  unfold Core.setBank; split <;> [rfl; (split <;> rfl)]
@[simp] theorem setX_thr_vpLevel (c : Core) (r : XReg) (v : Word) : (c.setX r v).thr.vpLevel = c.thr.vpLevel := by
  unfold Core.setX; split <;> simp
@[simp] theorem setBank_thr_modeDue (c : Core) (b : Vector Word 64) : (c.setBank b).thr.modeDue = c.thr.modeDue := by
  unfold Core.setBank; split <;> [rfl; (split <;> rfl)]
@[simp] theorem setX_thr_modeDue (c : Core) (r : XReg) (v : Word) : (c.setX r v).thr.modeDue = c.thr.modeDue := by
  unfold Core.setX; split <;> simp
@[simp] theorem setBank_thr_lastVp (c : Core) (b : Vector Word 64) : (c.setBank b).thr.lastVp = c.thr.lastVp := by
  unfold Core.setBank; split <;> [rfl; (split <;> rfl)]
@[simp] theorem setX_thr_lastVp (c : Core) (r : XReg) (v : Word) : (c.setX r v).thr.lastVp = c.thr.lastVp := by
  unfold Core.setX; split <;> simp
@[simp] theorem setBank_thr_aib (c : Core) (b : Vector Word 64) : (c.setBank b).thr.aib = c.thr.aib := by
  unfold Core.setBank; split <;> [rfl; (split <;> rfl)]
@[simp] theorem setX_thr_aib (c : Core) (r : XReg) (v : Word) : (c.setX r v).thr.aib = c.thr.aib := by
  unfold Core.setX; split <;> simp
@[simp] theorem setBank_thr_streams (c : Core) (b : Vector Word 64) : (c.setBank b).thr.streams = c.thr.streams := by
  unfold Core.setBank; split <;> [rfl; (split <;> rfl)]
@[simp] theorem setX_thr_streams (c : Core) (r : XReg) (v : Word) : (c.setX r v).thr.streams = c.thr.streams := by
  unfold Core.setX; split <;> simp
@[simp] theorem setBank_thr_cde (c : Core) (b : Vector Word 64) : (c.setBank b).thr.cde = c.thr.cde := by
  unfold Core.setBank; split <;> [rfl; (split <;> rfl)]
@[simp] theorem setX_thr_cde (c : Core) (r : XReg) (v : Word) : (c.setX r v).thr.cde = c.thr.cde := by
  unfold Core.setX; split <;> simp
@[simp] theorem setBank_thr_latchA (c : Core) (b : Vector Word 64) : (c.setBank b).thr.latchA = c.thr.latchA := by
  unfold Core.setBank; split <;> [rfl; (split <;> rfl)]
@[simp] theorem setX_thr_latchA (c : Core) (r : XReg) (v : Word) : (c.setX r v).thr.latchA = c.thr.latchA := by
  unfold Core.setX; split <;> simp
@[simp] theorem setBank_thr_latchB (c : Core) (b : Vector Word 64) : (c.setBank b).thr.latchB = c.thr.latchB := by
  unfold Core.setBank; split <;> [rfl; (split <;> rfl)]
@[simp] theorem setX_thr_latchB (c : Core) (r : XReg) (v : Word) : (c.setX r v).thr.latchB = c.thr.latchB := by
  unfold Core.setX; split <;> simp
@[simp] theorem setBank_thr_fill (c : Core) (b : Vector Word 64) : (c.setBank b).thr.fill = c.thr.fill := by
  unfold Core.setBank; split <;> [rfl; (split <;> rfl)]
@[simp] theorem setX_thr_fill (c : Core) (r : XReg) (v : Word) : (c.setX r v).thr.fill = c.thr.fill := by
  unfold Core.setX; split <;> simp
@[simp] theorem setBank_thr_budget (c : Core) (b : Vector Word 64) : (c.setBank b).thr.budget = c.thr.budget := by
  unfold Core.setBank; split <;> [rfl; (split <;> rfl)]
@[simp] theorem setX_thr_budget (c : Core) (r : XReg) (v : Word) : (c.setX r v).thr.budget = c.thr.budget := by
  unfold Core.setX; split <;> simp
@[simp] theorem setBank_thr_shadow (c : Core) (b : Vector Word 64) : (c.setBank b).thr.shadow = c.thr.shadow := by
  unfold Core.setBank; split <;> [rfl; (split <;> rfl)]
@[simp] theorem setX_thr_shadow (c : Core) (r : XReg) (v : Word) : (c.setX r v).thr.shadow = c.thr.shadow := by
  unfold Core.setX; split <;> simp
@[simp] theorem setBank_thr_seqNo (c : Core) (b : Vector Word 64) : (c.setBank b).thr.seqNo = c.thr.seqNo := by
  unfold Core.setBank; split <;> [rfl; (split <;> rfl)]
@[simp] theorem setX_thr_seqNo (c : Core) (r : XReg) (v : Word) : (c.setX r v).thr.seqNo = c.thr.seqNo := by
  unfold Core.setX; split <;> simp
@[simp] theorem setBank_thr_cpStatus (c : Core) (b : Vector Word 64) : (c.setBank b).thr.cpStatus = c.thr.cpStatus := by
  unfold Core.setBank; split <;> [rfl; (split <;> rfl)]
@[simp] theorem setX_thr_cpStatus (c : Core) (r : XReg) (v : Word) : (c.setX r v).thr.cpStatus = c.thr.cpStatus := by
  unfold Core.setX; split <;> simp
@[simp] theorem setBank_thr_transfers (c : Core) (b : Vector Word 64) : (c.setBank b).thr.transfers = c.thr.transfers := by
  unfold Core.setBank; split <;> [rfl; (split <;> rfl)]
@[simp] theorem setX_thr_transfers (c : Core) (r : XReg) (v : Word) : (c.setX r v).thr.transfers = c.thr.transfers := by
  unfold Core.setX; split <;> simp
@[simp] theorem setBank_thr_wm (c : Core) (b : Vector Word 64) : (c.setBank b).thr.wm = c.thr.wm := by
  unfold Core.setBank; split <;> [rfl; (split <;> rfl)]
@[simp] theorem setX_thr_wm (c : Core) (r : XReg) (v : Word) : (c.setX r v).thr.wm = c.thr.wm := by
  unfold Core.setX; split <;> simp
@[simp] theorem setBank_thr_lw (c : Core) (b : Vector Word 64) : (c.setBank b).thr.lw = c.thr.lw := by
  unfold Core.setBank; split <;> [rfl; (split <;> rfl)]
@[simp] theorem setX_thr_lw (c : Core) (r : XReg) (v : Word) : (c.setX r v).thr.lw = c.thr.lw := by
  unfold Core.setX; split <;> simp
@[simp] theorem setBank_thr_watches (c : Core) (b : Vector Word 64) : (c.setBank b).thr.watches = c.thr.watches := by
  unfold Core.setBank; split <;> [rfl; (split <;> rfl)]
@[simp] theorem setX_thr_watches (c : Core) (r : XReg) (v : Word) : (c.setX r v).thr.watches = c.thr.watches := by
  unfold Core.setX; split <;> simp
@[simp] theorem setBank_thr_xchgNo (c : Core) (b : Vector Word 64) : (c.setBank b).thr.xchgNo = c.thr.xchgNo := by
  unfold Core.setBank; split <;> [rfl; (split <;> rfl)]
@[simp] theorem setX_thr_xchgNo (c : Core) (r : XReg) (v : Word) : (c.setX r v).thr.xchgNo = c.thr.xchgNo := by
  unfold Core.setX; split <;> simp
@[simp] theorem setBank_thr_xchg (c : Core) (b : Vector Word 64) : (c.setBank b).thr.xchg = c.thr.xchg := by
  unfold Core.setBank; split <;> [rfl; (split <;> rfl)]
@[simp] theorem setX_thr_xchg (c : Core) (r : XReg) (v : Word) : (c.setX r v).thr.xchg = c.thr.xchg := by
  unfold Core.setX; split <;> simp

/-! ### An x register written -/

@[simp] theorem wx_zero (s : State) (v : Word) : s.wx 0 v = s := by
  simp [State.wx, State.setCore, State.core]

@[simp] theorem wx_core (s : State) (d : XReg) (v : Word) : (s.wx d v).core = s.core.setX d v := by simp [State.wx]

@[simp] theorem wx_base (s : State) (d : XReg) (v : Word) : (s.wx d v).base = s.base := rfl
@[simp] theorem wx_ctx (s : State) (d : XReg) (v : Word) : (s.wx d v).ctx = s.ctx := rfl
@[simp] theorem wx_agenda (s : State) (d : XReg) (v : Word) : (s.wx d v).agenda = s.agenda := rfl
@[simp] theorem wx_cur (s : State) (d : XReg) (v : Word) : (s.wx d v).cur = s.cur := rfl
@[simp] theorem wx_tick (s : State) (d : XReg) (v : Word) : (s.wx d v).tick = s.tick := rfl
@[simp] theorem wx_dev_mem (s : State) (d : XReg) (v : Word) : (s.wx d v).dev.mem = s.dev.mem := rfl
@[simp] theorem wx_dev_poison (s : State) (d : XReg) (v : Word) : (s.wx d v).dev.poison = s.dev.poison := rfl
@[simp] theorem wx_dev_remote (s : State) (d : XReg) (v : Word) : (s.wx d v).dev.remote = s.dev.remote := rfl
@[simp] theorem wx_dev_held (s : State) (d : XReg) (v : Word) : (s.wx d v).dev.held = s.dev.held := rfl
@[simp] theorem wx_dev_dstate (s : State) (d : XReg) (v : Word) : (s.wx d v).dev.dstate = s.dev.dstate := rfl
@[simp] theorem wx_dev_duty (s : State) (d : XReg) (v : Word) : (s.wx d v).dev.duty = s.dev.duty := rfl
@[simp] theorem wx_dev_pwin (s : State) (d : XReg) (v : Word) : (s.wx d v).dev.pwin = s.dev.pwin := rfl
@[simp] theorem wx_dev_pairTab (s : State) (d : XReg) (v : Word) : (s.wx d v).dev.pairTab = s.dev.pairTab := rfl
@[simp] theorem wx_dev_hops (s : State) (d : XReg) (v : Word) : (s.wx d v).dev.hops = s.dev.hops := rfl
@[simp] theorem wx_dev_parts (s : State) (d : XReg) (v : Word) : (s.wx d v).dev.parts = s.dev.parts := rfl
@[simp] theorem wx_dev_time (s : State) (d : XReg) (v : Word) : (s.wx d v).dev.time = s.dev.time := rfl
@[simp] theorem wx_dev_launches (s : State) (d : XReg) (v : Word) : (s.wx d v).dev.launches = s.dev.launches := rfl
@[simp] theorem wx_dev_replays (s : State) (d : XReg) (v : Word) : (s.wx d v).dev.replays = s.dev.replays := rfl
@[simp] theorem wx_dev_producers (s : State) (d : XReg) (v : Word) : (s.wx d v).dev.producers = s.dev.producers := rfl
@[simp] theorem wx_dev_kept (s : State) (d : XReg) (v : Word) : (s.wx d v).dev.kept = s.dev.kept := rfl
@[simp] theorem wx_dev_stuck (s : State) (d : XReg) (v : Word) : (s.wx d v).dev.stuck = s.dev.stuck := rfl
@[simp] theorem wx_dev_mailboxes (s : State) (d : XReg) (v : Word) : (s.wx d v).dev.mailboxes = s.dev.mailboxes := rfl
@[simp] theorem wx_dev_chans (s : State) (d : XReg) (v : Word) : (s.wx d v).dev.chans = s.dev.chans := rfl
@[simp] theorem wx_dev_msix (s : State) (d : XReg) (v : Word) : (s.wx d v).dev.msix = s.dev.msix := rfl
@[simp] theorem wx_dev_portUp (s : State) (d : XReg) (v : Word) : (s.wx d v).dev.portUp = s.dev.portUp := rfl
@[simp] theorem wx_dev_retries (s : State) (d : XReg) (v : Word) : (s.wx d v).dev.retries = s.dev.retries := rfl
@[simp] theorem wx_dev_fid (s : State) (d : XReg) (v : Word) : (s.wx d v).dev.fid = s.dev.fid := rfl
@[simp] theorem wx_dev_boot (s : State) (d : XReg) (v : Word) : (s.wx d v).dev.boot = s.dev.boot := rfl
@[simp] theorem wx_dev_flash (s : State) (d : XReg) (v : Word) : (s.wx d v).dev.flash = s.dev.flash := rfl
@[simp] theorem wx_dev_hostData (s : State) (d : XReg) (v : Word) : (s.wx d v).dev.hostData = s.dev.hostData := rfl
@[simp] theorem wx_dev_nextId (s : State) (d : XReg) (v : Word) : (s.wx d v).dev.nextId = s.dev.nextId := rfl
@[simp] theorem wx_dev_nextArrival (s : State) (d : XReg) (v : Word) : (s.wx d v).dev.nextArrival = s.dev.nextArrival := rfl
@[simp] theorem wx_dev_nextTag (s : State) (d : XReg) (v : Word) : (s.wx d v).dev.nextTag = s.dev.nextTag := rfl

/-- Every other core is unchanged by a register written. -/
theorem wx_other (s : State) (d : XReg) (v : Word) (i : CoreNo) (h : i ≠ s.cur) :
    (s.wx d v).dev.cores.get i = s.dev.cores.get i := setCore_other s _ i h

/-! ### Who runs -/

theorem onThread_none (s : State) (k : Out) (h : s.ctx.vp = none) : onThread s k = k := by simp [onThread, h]
theorem onThread_some (s : State) (k : Out) (r : VpRun) (h : s.ctx.vp = some r) : onThread s k = illegal s := by
  simp [onThread, h]
theorem onVp_some (s : State) (k : VpRun → Out) (r : VpRun) (h : s.ctx.vp = some r) : onVp s k = k r := by simp [onVp, h]
theorem onVp_none (s : State) (k : VpRun → Out) (h : s.ctx.vp = none) : onVp s k = illegal s := by simp [onVp, h]
theorem needLevel_of_le (s : State) (l : Nat) (k : Out) (h : l ≤ s.core.pl.toNat) : needLevel s l k = k := by
  simp [needLevel, Nat.not_lt.mpr h]
theorem needLevel_of_lt (s : State) (l : Nat) (k : Out) (h : s.core.pl.toNat < l) : needLevel s l k = illegal s := by
  simp [needLevel, h]
theorem onVector_ready (s : State) (k : Out) (h : s.ctx.vp = none) (ht : s.thr.threadMode = false) : onVector s k = k := by
  simp [onVector, onThread, h, ht]
/-- What waits for instructions of the queue goes on where none of them is there. -/
theorem onLate_ready (p : Late → Bool) (s : State) (k : Out) (h : s.core.late.any p = false) : onLate p s k = k := by simp [onLate, h]
theorem onDrained_ready (s : State) (k : Out) (h : s.core.late = []) : onDrained s k = k := onLate_ready _ s k (by simp [h])
theorem onReleased_ready (s : State) (k : Out) (h : s.core.late = []) : onReleased s k = k := onLate_ready _ s k (by simp [h])
theorem needEw_eq (s : State) (w : Nat) (k : Out) (h : s.srcCore.thr.ew.bits = w) : needEw s w k = k := by simp [needEw, h]
theorem needOperand_true (s : State) (k : Out) : needOperand s true k = k := rfl
theorem needOperand_false (s : State) (k : Out) : needOperand s false k = operand s := rfl

/-! ### Parts of a meaning -/

@[simp] theorem bind_ok {α β : Type} (a : α) (s : State) (f : α → State → Acc β) : (Acc.ok a s).bind f = f a s := rfl
@[simp] theorem bind_stop {α β : Type} (o : Out) (f : α → State → Acc β) : (Acc.stop o).bind f = .stop o := rfl
@[simp] theorem out_ok {α : Type} (a : α) (s : State) (f : α → State → Out) : (Acc.ok a s).out f = f a s := rfl
@[simp] theorem out_stop {α : Type} (o : Out) (f : α → State → Out) : (Acc.stop o : Acc α).out f = o := rfl

/-- An outcome that is neither a fault nor a refusal is a next state. -/
theorem exists_next (o : Out) (h : ∀ r, o ≠ .refused r) : ∃ t, o = .next t := by
  cases o with
  | next t => exact ⟨t, rfl⟩
  | fault r => cases r
  | refused r => exact absurd rfl (h r)

/-! ### Traps -/

/-- Taking a trap enters the level above (R371). -/
@[simp] theorem enterTrap_pl (c : Core) (code : BitVec 8) (int vp : Bool) (n : BitVec 10) (v e : Word) :
    (c.enterTrap code int vp n v e).pl = trapLevel c.pl := rfl
@[simp] theorem enterTrap_ie (c : Core) (code : BitVec 8) (int vp : Bool) (n : BitVec 10) (v e : Word) :
    (c.enterTrap code int vp n v e).ie = false := rfl
@[simp] theorem enterTrap_pc (c : Core) (code : BitVec 8) (int vp : Bool) (n : BitVec 10) (v e : Word) :
    (c.enterTrap code int vp n v e).pc = align8 (c.trapRegs (trapLevel c.pl)).tvec := rfl

@[simp] theorem setTrapRegs_mode (c : Core) (l : BitVec 2) (t : TrapRegs) : (c.setTrapRegs l t).mode = c.mode := by
  unfold Core.setTrapRegs; split <;> rfl
@[simp] theorem enterTrap_mode (c : Core) (code : BitVec 8) (int vp : Bool) (n : BitVec 10) (v e : Word) :
    (c.enterTrap code int vp n v e).mode = c.mode := by
  simp [Core.enterTrap]
@[simp] theorem setTrapRegs_pc (c : Core) (l : BitVec 2) (t : TrapRegs) : (c.setTrapRegs l t).pc = c.pc := by
  unfold Core.setTrapRegs; split <;> rfl
@[simp] theorem setTrapRegs_pl (c : Core) (l : BitVec 2) (t : TrapRegs) : (c.setTrapRegs l t).pl = c.pl := by
  unfold Core.setTrapRegs; split <;> rfl
@[simp] theorem setTrapRegs_ie (c : Core) (l : BitVec 2) (t : TrapRegs) : (c.setTrapRegs l t).ie = c.ie := by
  unfold Core.setTrapRegs; split <;> rfl
@[simp] theorem setTrapRegs_x1 (c : Core) (l : BitVec 2) (t : TrapRegs) : (c.setTrapRegs l t).x1 = c.x1 := by
  unfold Core.setTrapRegs; split <;> rfl
@[simp] theorem enterTrap_x1 (c : Core) (code : BitVec 8) (int vp : Bool) (n : BitVec 10) (v e : Word) :
    (c.enterTrap code int vp n v e).x1 = c.x1 := by
  simp [Core.enterTrap]
@[simp] theorem setTrapRegs_x2 (c : Core) (l : BitVec 2) (t : TrapRegs) : (c.setTrapRegs l t).x2 = c.x2 := by
  unfold Core.setTrapRegs; split <;> rfl
@[simp] theorem enterTrap_x2 (c : Core) (code : BitVec 8) (int vp : Bool) (n : BitVec 10) (v e : Word) :
    (c.enterTrap code int vp n v e).x2 = c.x2 := by
  simp [Core.enterTrap]
@[simp] theorem setTrapRegs_ptbr (c : Core) (l : BitVec 2) (t : TrapRegs) : (c.setTrapRegs l t).ptbr = c.ptbr := by
  unfold Core.setTrapRegs; split <;> rfl
@[simp] theorem enterTrap_ptbr (c : Core) (code : BitVec 8) (int vp : Bool) (n : BitVec 10) (v e : Word) :
    (c.enterTrap code int vp n v e).ptbr = c.ptbr := by
  simp [Core.enterTrap]
@[simp] theorem setTrapRegs_asid (c : Core) (l : BitVec 2) (t : TrapRegs) : (c.setTrapRegs l t).asid = c.asid := by
  unfold Core.setTrapRegs; split <;> rfl
@[simp] theorem enterTrap_asid (c : Core) (code : BitVec 8) (int vp : Bool) (n : BitVec 10) (v e : Word) :
    (c.enterTrap code int vp n v e).asid = c.asid := by
  simp [Core.enterTrap]
@[simp] theorem setTrapRegs_part (c : Core) (l : BitVec 2) (t : TrapRegs) : (c.setTrapRegs l t).part = c.part := by
  unfold Core.setTrapRegs; split <;> rfl
@[simp] theorem enterTrap_part (c : Core) (code : BitVec 8) (int vp : Bool) (n : BitVec 10) (v e : Word) :
    (c.enterTrap code int vp n v e).part = c.part := by
  simp [Core.enterTrap]
@[simp] theorem setTrapRegs_thr (c : Core) (l : BitVec 2) (t : TrapRegs) : (c.setTrapRegs l t).thr = c.thr := by
  unfold Core.setTrapRegs; split <;> rfl
@[simp] theorem enterTrap_thr (c : Core) (code : BitVec 8) (int vp : Bool) (n : BitVec 10) (v e : Word) :
    (c.enterTrap code int vp n v e).thr = c.thr := by
  simp [Core.enterTrap]
@[simp] theorem setTrapRegs_am (c : Core) (l : BitVec 2) (t : TrapRegs) : (c.setTrapRegs l t).am = c.am := by
  unfold Core.setTrapRegs; split <;> rfl
@[simp] theorem enterTrap_am (c : Core) (code : BitVec 8) (int vp : Bool) (n : BitVec 10) (v e : Word) :
    (c.enterTrap code int vp n v e).am = c.am := by
  simp [Core.enterTrap]
@[simp] theorem setTrapRegs_ab (c : Core) (l : BitVec 2) (t : TrapRegs) : (c.setTrapRegs l t).ab = c.ab := by
  unfold Core.setTrapRegs; split <;> rfl
@[simp] theorem enterTrap_ab (c : Core) (code : BitVec 8) (int vp : Bool) (n : BitVec 10) (v e : Word) :
    (c.enterTrap code int vp n v e).ab = c.ab := by
  simp [Core.enterTrap]
@[simp] theorem setTrapRegs_wb (c : Core) (l : BitVec 2) (t : TrapRegs) : (c.setTrapRegs l t).wb = c.wb := by
  unfold Core.setTrapRegs; split <;> rfl
@[simp] theorem enterTrap_wb (c : Core) (code : BitVec 8) (int vp : Bool) (n : BitVec 10) (v e : Word) :
    (c.enterTrap code int vp n v e).wb = c.wb := by
  simp [Core.enterTrap]
@[simp] theorem setTrapRegs_md (c : Core) (l : BitVec 2) (t : TrapRegs) : (c.setTrapRegs l t).md = c.md := by
  unfold Core.setTrapRegs; split <;> rfl
@[simp] theorem enterTrap_md (c : Core) (code : BitVec 8) (int vp : Bool) (n : BitVec 10) (v e : Word) :
    (c.enterTrap code int vp n v e).md = c.md := by
  simp [Core.enterTrap]
@[simp] theorem setTrapRegs_abStamp (c : Core) (l : BitVec 2) (t : TrapRegs) : (c.setTrapRegs l t).abStamp = c.abStamp := by
  unfold Core.setTrapRegs; split <;> rfl
@[simp] theorem enterTrap_abStamp (c : Core) (code : BitVec 8) (int vp : Bool) (n : BitVec 10) (v e : Word) :
    (c.enterTrap code int vp n v e).abStamp = c.abStamp := by
  simp [Core.enterTrap]
@[simp] theorem setTrapRegs_wbStamp (c : Core) (l : BitVec 2) (t : TrapRegs) : (c.setTrapRegs l t).wbStamp = c.wbStamp := by
  unfold Core.setTrapRegs; split <;> rfl
@[simp] theorem enterTrap_wbStamp (c : Core) (code : BitVec 8) (int vp : Bool) (n : BitVec 10) (v e : Word) :
    (c.enterTrap code int vp n v e).wbStamp = c.wbStamp := by
  simp [Core.enterTrap]
@[simp] theorem setTrapRegs_abPoison (c : Core) (l : BitVec 2) (t : TrapRegs) : (c.setTrapRegs l t).abPoison = c.abPoison := by
  unfold Core.setTrapRegs; split <;> rfl
@[simp] theorem enterTrap_abPoison (c : Core) (code : BitVec 8) (int vp : Bool) (n : BitVec 10) (v e : Word) :
    (c.enterTrap code int vp n v e).abPoison = c.abPoison := by
  simp [Core.enterTrap]
@[simp] theorem setTrapRegs_wbPoison (c : Core) (l : BitVec 2) (t : TrapRegs) : (c.setTrapRegs l t).wbPoison = c.wbPoison := by
  unfold Core.setTrapRegs; split <;> rfl
@[simp] theorem enterTrap_wbPoison (c : Core) (code : BitVec 8) (int vp : Bool) (n : BitVec 10) (v e : Word) :
    (c.enterTrap code int vp n v e).wbPoison = c.wbPoison := by
  simp [Core.enterTrap]
@[simp] theorem setTrapRegs_wbTag (c : Core) (l : BitVec 2) (t : TrapRegs) : (c.setTrapRegs l t).wbTag = c.wbTag := by
  unfold Core.setTrapRegs; split <;> rfl
@[simp] theorem enterTrap_wbTag (c : Core) (code : BitVec 8) (int vp : Bool) (n : BitVec 10) (v e : Word) :
    (c.enterTrap code int vp n v e).wbTag = c.wbTag := by
  simp [Core.enterTrap]
@[simp] theorem setTrapRegs_launchTag (c : Core) (l : BitVec 2) (t : TrapRegs) : (c.setTrapRegs l t).launchTag = c.launchTag := by
  unfold Core.setTrapRegs; split <;> rfl
@[simp] theorem enterTrap_launchTag (c : Core) (code : BitVec 8) (int vp : Bool) (n : BitVec 10) (v e : Word) :
    (c.enterTrap code int vp n v e).launchTag = c.launchTag := by
  simp [Core.enterTrap]
@[simp] theorem setTrapRegs_tlb (c : Core) (l : BitVec 2) (t : TrapRegs) : (c.setTrapRegs l t).tlb = c.tlb := by
  unfold Core.setTrapRegs; split <;> rfl
@[simp] theorem enterTrap_tlb (c : Core) (code : BitVec 8) (int vp : Bool) (n : BitVec 10) (v e : Word) :
    (c.enterTrap code int vp n v e).tlb = c.tlb := by
  simp [Core.enterTrap]
@[simp] theorem setTrapRegs_touched (c : Core) (l : BitVec 2) (t : TrapRegs) : (c.setTrapRegs l t).touched = c.touched := by
  unfold Core.setTrapRegs; split <;> rfl
@[simp] theorem setTrapRegs_touchedBufs (c : Core) (l : BitVec 2) (t : TrapRegs) : (c.setTrapRegs l t).touchedBufs = c.touchedBufs := by
  unfold Core.setTrapRegs; split <;> rfl
@[simp] theorem enterTrap_touched (c : Core) (code : BitVec 8) (int vp : Bool) (n : BitVec 10) (v e : Word) :
    (c.enterTrap code int vp n v e).touched = c.touched := by
  simp [Core.enterTrap]
@[simp] theorem enterTrap_touchedBufs (c : Core) (code : BitVec 8) (int vp : Bool) (n : BitVec 10) (v e : Word) :
    (c.enterTrap code int vp n v e).touchedBufs = c.touchedBufs := by
  simp [Core.enterTrap]
@[simp] theorem setTrapRegs_irq (c : Core) (l : BitVec 2) (t : TrapRegs) : (c.setTrapRegs l t).irq = c.irq := by
  unfold Core.setTrapRegs; split <;> rfl
@[simp] theorem enterTrap_irq (c : Core) (code : BitVec 8) (int vp : Bool) (n : BitVec 10) (v e : Word) :
    (c.enterTrap code int vp n v e).irq = c.irq := by
  simp [Core.enterTrap]
@[simp] theorem setTrapRegs_launch (c : Core) (l : BitVec 2) (t : TrapRegs) : (c.setTrapRegs l t).launch = c.launch := by
  unfold Core.setTrapRegs; split <;> rfl
@[simp] theorem enterTrap_launch (c : Core) (code : BitVec 8) (int vp : Bool) (n : BitVec 10) (v e : Word) :
    (c.enterTrap code int vp n v e).launch = c.launch := by
  simp [Core.enterTrap]
@[simp] theorem setTrapRegs_ended (c : Core) (l : BitVec 2) (t : TrapRegs) : (c.setTrapRegs l t).ended = c.ended := by
  unfold Core.setTrapRegs; split <;> rfl
@[simp] theorem enterTrap_ended (c : Core) (code : BitVec 8) (int vp : Bool) (n : BitVec 10) (v e : Word) :
    (c.enterTrap code int vp n v e).ended = c.ended := by
  simp [Core.enterTrap]
@[simp] theorem setTrapRegs_idleBelow (c : Core) (l : BitVec 2) (t : TrapRegs) : (c.setTrapRegs l t).idleBelow = c.idleBelow := by
  unfold Core.setTrapRegs; split <;> rfl
@[simp] theorem enterTrap_idleBelow (c : Core) (code : BitVec 8) (int vp : Bool) (n : BitVec 10) (v e : Word) :
    (c.enterTrap code int vp n v e).idleBelow = c.idleBelow := by
  simp [Core.enterTrap]
@[simp] theorem setTrapRegs_vpsStopped (c : Core) (l : BitVec 2) (t : TrapRegs) : (c.setTrapRegs l t).vpsStopped = c.vpsStopped := by
  unfold Core.setTrapRegs; split <;> rfl
@[simp] theorem enterTrap_vpsStopped (c : Core) (code : BitVec 8) (int vp : Bool) (n : BitVec 10) (v e : Word) :
    (c.enterTrap code int vp n v e).vpsStopped = c.vpsStopped := by
  simp [Core.enterTrap]
@[simp] theorem setTrapRegs_wait (c : Core) (l : BitVec 2) (t : TrapRegs) : (c.setTrapRegs l t).wait = c.wait := by
  unfold Core.setTrapRegs; split <;> rfl
@[simp] theorem setTrapRegs_split (c : Core) (l : BitVec 2) (t : TrapRegs) : (c.setTrapRegs l t).split = c.split := by
  unfold Core.setTrapRegs; split <;> rfl
@[simp] theorem setTrapRegs_lateNo (c : Core) (l : BitVec 2) (t : TrapRegs) : (c.setTrapRegs l t).lateNo = c.lateNo := by
  unfold Core.setTrapRegs; split <;> rfl
@[simp] theorem setTrapRegs_late (c : Core) (l : BitVec 2) (t : TrapRegs) : (c.setTrapRegs l t).late = c.late := by
  unfold Core.setTrapRegs; split <;> rfl
@[simp] theorem enterTrap_wait (c : Core) (code : BitVec 8) (int vp : Bool) (n : BitVec 10) (v e : Word) :
    (c.enterTrap code int vp n v e).wait = c.wait := by
  simp [Core.enterTrap]
@[simp] theorem enterTrap_split (c : Core) (code : BitVec 8) (int vp : Bool) (n : BitVec 10) (v e : Word) :
    (c.enterTrap code int vp n v e).split = c.split := by
  simp [Core.enterTrap]
@[simp] theorem enterTrap_lateNo (c : Core) (code : BitVec 8) (int vp : Bool) (n : BitVec 10) (v e : Word) :
    (c.enterTrap code int vp n v e).lateNo = c.lateNo := by
  simp [Core.enterTrap]
@[simp] theorem enterTrap_late (c : Core) (code : BitVec 8) (int vp : Bool) (n : BitVec 10) (v e : Word) :
    (c.enterTrap code int vp n v e).late = c.late := by
  simp [Core.enterTrap]
@[simp] theorem setTrapRegs_opBase (c : Core) (l : BitVec 2) (t : TrapRegs) : (c.setTrapRegs l t).opBase = c.opBase := by
  unfold Core.setTrapRegs; split <;> rfl
@[simp] theorem enterTrap_opBase (c : Core) (code : BitVec 8) (int vp : Bool) (n : BitVec 10) (v e : Word) :
    (c.enterTrap code int vp n v e).opBase = c.opBase := by
  simp [Core.enterTrap]
@[simp] theorem setTrapRegs_opSlips (c : Core) (l : BitVec 2) (t : TrapRegs) : (c.setTrapRegs l t).opSlips = c.opSlips := by
  unfold Core.setTrapRegs; split <;> rfl
@[simp] theorem enterTrap_opSlips (c : Core) (code : BitVec 8) (int vp : Bool) (n : BitVec 10) (v e : Word) :
    (c.enterTrap code int vp n v e).opSlips = c.opSlips := by
  simp [Core.enterTrap]
@[simp] theorem setTrapRegs_laneDone (c : Core) (l : BitVec 2) (t : TrapRegs) : (c.setTrapRegs l t).laneDone = c.laneDone := by
  unfold Core.setTrapRegs; split <;> rfl
@[simp] theorem enterTrap_laneDone (c : Core) (code : BitVec 8) (int vp : Bool) (n : BitVec 10) (v e : Word) :
    (c.enterTrap code int vp n v e).laneDone = c.laneDone := by
  simp [Core.enterTrap]
@[simp] theorem setTrapRegs_dmeta (c : Core) (l : BitVec 2) (t : TrapRegs) : (c.setTrapRegs l t).dmeta = c.dmeta := by
  unfold Core.setTrapRegs; split <;> rfl
@[simp] theorem enterTrap_dmeta (c : Core) (code : BitVec 8) (int vp : Bool) (n : BitVec 10) (v e : Word) :
    (c.enterTrap code int vp n v e).dmeta = c.dmeta := by
  simp [Core.enterTrap]
@[simp] theorem setTrapRegs_saved (c : Core) (l : BitVec 2) (t : TrapRegs) : (c.setTrapRegs l t).saved = c.saved := by
  unfold Core.setTrapRegs; split <;> rfl
@[simp] theorem enterTrap_saved (c : Core) (code : BitVec 8) (int vp : Bool) (n : BitVec 10) (v e : Word) :
    (c.enterTrap code int vp n v e).saved = c.saved := by
  simp [Core.enterTrap]

end Sys2Proof.Machine
end

