-- ==== Sys2Proof/Laws/Queue.lean ====
section
/-!
SUPPORT. The laws of the vector queue (Machine/Queue.lean): what its two updates of a core leave, and when an instruction issues with its
effect.
-/

namespace Sys2Proof.Machine

@[simp] theorem lanesOf_x (c o : Core) : (c.lanesOf o).thr.x = c.thr.x := rfl
@[simp] theorem lanesOf_v (c o : Core) : (c.lanesOf o).thr.v = o.thr.v := rfl
@[simp] theorem lanesOf_m (c o : Core) : (c.lanesOf o).thr.m = o.thr.m := rfl
@[simp] theorem lanesOf_vl (c o : Core) : (c.lanesOf o).thr.vl = c.thr.vl := rfl
@[simp] theorem lanesOf_am (c o : Core) : (c.lanesOf o).am = o.am := rfl
@[simp] theorem lanesOf_late (c o : Core) : (c.lanesOf o).late = c.late := rfl
@[simp] theorem lanesOf_pl (c o : Core) : (c.lanesOf o).pl = c.pl := rfl
@[simp] theorem lanesOf_pc (c o : Core) : (c.lanesOf o).pc = c.pc := rfl
@[simp] theorem scalarsOf_x (c o : Core) : (c.scalarsOf o).thr.x = o.thr.x := rfl
@[simp] theorem scalarsOf_v (c o : Core) : (c.scalarsOf o).thr.v = c.thr.v := rfl
@[simp] theorem scalarsOf_m (c o : Core) : (c.scalarsOf o).thr.m = c.thr.m := rfl
@[simp] theorem scalarsOf_vl (c o : Core) : (c.scalarsOf o).thr.vl = o.thr.vl := rfl
@[simp] theorem scalarsOf_am (c o : Core) : (c.scalarsOf o).am = c.am := rfl
@[simp] theorem scalarsOf_late (c o : Core) : (c.scalarsOf o).late = c.late := rfl
@[simp] theorem scalarsOf_pl (c o : Core) : (c.scalarsOf o).pl = o.pl := rfl
@[simp] theorem scalarsOf_pc (c o : Core) : (c.scalarsOf o).pc = c.pc := rfl

/-- An instruction of a virtual processor issues at once. -/
theorem issue_vp (s : State) (i : Instr) (h : s.ctx.vp.isSome = true) : s.issue i = exec i s := by simp [State.issue, h]
/-- Nothing is owed by an empty queue. -/
theorem owed_empty (s : State) (i : Instr) (h : s.core.late = []) (hs : s.srcCore.late = []) : s.owed i = false := by
  simp [State.owed, h, hs]
/-- Where the queue is empty, an instruction that meets no byte it must wait for has its effect as it issues. -/
theorem issue_plain (s t : State) (i : Instr) (h : s.core.late = []) (hs : s.srcCore.late = []) (he : exec i s = .next t)
    (hb : t.ctx.blocked = false) : s.issue i = .next t := by
  simp [State.issue, owed_empty s i h hs, h, he, andThen, hb]
/-- An empty queue has drained. -/
theorem drainLate_empty (s : State) (h : s.core.late = []) : s.drainLate = s := by simp [State.drainLate, h]

end Sys2Proof.Machine
end

