-- ==== Sys2Proof/Tests/Slice0.lean ====
section
/-!
SUPPORT. Tests: words decoded, ill-formed terms refused, single steps, and a witness for the hypotheses of each statement.
-/

namespace Sys2Proof.Tests
open Sys2Proof Sys2Proof.Machine

/-! ### States for tests -/

/-- The device after reset, with every core as given. -/
def devOf (c : Core) : Device := { cores := Vector.replicate 192 c }

/-- A device with no convoy in it. -/
def onDev (d : Device) : State := { dev := d, base := d }

/-- The state after reset, with every core as given. -/
def onCore (c : Core) : State := onDev (devOf c)

/-- A core after reset that runs, at a level. -/
def coreAt (pl : BitVec 2) : Core := { Core.atReset with mode := .run, pl := pl }

/-- The same, with a thread made from that of a launch. -/
def coreWith (f : Thread → Thread) : Core := { coreAt 2 with thr := f Thread.fresh }

/-- x registers of the level of `coreAt 2`. -/
def coreX (xs : List (XReg × Word)) : Core := xs.foldl (fun c p => c.setX p.1 p.2) (coreAt 2)

set_option Elab.async false

/-! ### Words decoded -/

theorem test_decode_add : decodeWord 0b0_0000000_000001_000010_000011_000_0_0_000000_0_00100_000000000_00000000000_1 = .ok (.full (.add .s32 1 2 3)) := by decide

theorem test_decode_addi : decodeWord 0b0_0001000_000101_000000_000000_000_0_0_1111111111111111_00110_00000000_000_1 = .ok (.full (.addi .s64 5 0 0xFFFF)) := by decide

theorem test_decode_lim : decodeWord 0b0_0001110_000111_000000_000000_000_0_0_0001001000110100_0101011001111000_1 = .ok (.full (.lim 7 0x12345678)) := by decide

theorem test_decode_fadd : decodeWord 0b0_0010000_000001_000010_000011_000_0_0_000000_0_01010_000000000_00000000111_1 = .ok (.full (.fadd .f32 1 2 3 .ctl)) := by decide

theorem test_decode_bltu : decodeWord 0b0_0011000_000000_000001_000010_100_0_0_00000000000000000000000000000010_1 = .ok (.full (.branch .ltu 1 2 2)) := by decide

theorem test_decode_jr : decodeWord 0b0_0011010_111111_111111_000000_000_0_0_000000_0_00000_000000000_00000000000_1 = .ok (.full (.jr 63 63)) := by decide

theorem test_decode_wadd : decodeWord 0b0_0011110_000001_000010_000011_000_0_0_000000_0_00100_000000001_00000000000_1 = .ok (.full (.wadd .s32 1 2 3)) := by decide

theorem test_decode_vadd : decodeWord 0b0_0100000_000001_000010_000011_101_1_1_000000_0_00100_000000000_00000000000_1 = .ok (.full (.vadd .s32 5 1 ⟨2, true⟩ ⟨3, true⟩)) := by decide

theorem test_decode_vaddF : decodeWord 0b0_0110000_000011_000001_000010_000_1_1_000000_0_01010_000000000_00000000111_1 = .ok (.full (.vaddF .f32 0 3 ⟨1, true⟩ ⟨2, true⟩ .ctl)) := by decide

theorem test_decode_vredsum : decodeWord 0b0_0111100_010100_000001_000000_000_1_0_000000_0_00100_000000000_00000000000_1 = .ok (.full (.vredsum .s32 0 20 ⟨1, true⟩ 0)) := by decide

theorem test_decode_mor : decodeWord 0b0_1000000_000001_000010_000011_000_0_0_000000_0_00000_000000001_00000000000_1 = .ok (.full (.mor 1 2 3)) := by decide

theorem test_decode_ld : decodeWord 0b0_1000100_000100_000010_000000_000_0_0_0000000000001000_00111_00000000_000_1 = .ok (.full (.ld .z64 .glob 4 2 8)) := by decide

theorem test_decode_amoadd : decodeWord 0b0_1010000_000001_000010_000011_000_0_0_000000_0_00111_000000000_00001000000_1 = .ok (.full (.amoadd .z64 .relaxed .device 1 2 3)) := by decide

theorem test_decode_fence : decodeWord 0b0_1011000_000000_000000_000000_000_0_0_000000_0_00000_000000000_00000000101_1 = .ok (.full (.fence .system)) := by decide

theorem test_decode_sopenfib : decodeWord 0x6800A2C000002000 = .ok (.full (.sopenFib .s8 .glob .glob .idx16 0 10 11 0)) := by decide

theorem test_decode_cxnext : decodeWord 0x6944414030001000 = .ok (.full (.cxnext 17 4 5 6)) := by decide

theorem test_decode_tret : decodeWord 0b0_1110110_000000_000000_000000_000_0_0_000000_0_00000_000000000_00000000000_1 = .ok (.full .tret) := by decide

theorem test_decode_pair : decodeWord 0xD4200000A8608002 = .ok (.pair (.wfmalR 2 0 0) (.wfmalR 3 1 1)) := by decide

theorem test_decode_movnop : decodeWord 0b1_00001_000001_000010_00000000000000_00000_000000_000000_00000000000000_1 = .ok (.pair (.mov 1 2) .nop) := by decide

theorem test_decode_setvl : decodeWord 0b0_0011011_000001_000010_000000_000_0_0_0000000000000000_00000_00000010_000_1 = .ok (.full (.setvl 1 2)) := by decide

theorem test_decode_hpush : decodeWord 0x5B50A2C000001101 = .ok (.full (.hpush .device 20 10 11)) := by decide

theorem test_decode_cplaunch : decodeWord 0b0_1110000_000001_000000_000000_000_0_0_000000_0_00000_000000010_00001100000_1 = .ok (.full (.cplaunch 1 3)) := by decide

theorem test_decode_dmac : decodeWord 0x64042086000003FF = .ok (.full (.dmacVI .s16 0 ⟨1, true⟩ ⟨2, true⟩ 1 0xFF)) := by decide

/-! ### Ill-formed instructions: one for each check of an operand -/

theorem test_refused_1 : ([
    .add .s8 1 1 1, .sub .s8 1 1 1, .and .s64 1 1 1, .or .s64 1 1 1, .xor .s64 1 1 1, .sll .s8 1 1 1, .srl .s8 1 1 1,
    .sra .s8 1 1 1, .slt .s8 1 1 1, .min .s8 1 1 1, .max .s8 1 1 1, .addsl .s8 1 1 1 0, .mul .s8 1 1 1, .mulh .s8 1 1 1,
    .div .s8 1 1 1, .rem .s8 1 1 1, .clz .s64 1 1, .ctz .s64 1 1, .popc .s64 1 1, .ext .z64 1 1, .addi .s8 1 1 0,
    .andi .s64 1 1 0, .ori .s64 1 1 0, .xori .s64 1 1 0, .slli .s8 1 1 0, .slli .s32 1 1 32, .srli .s8 1 1 0,
    .srli .s32 1 1 32, .srai .s8 1 1 0, .srai .s32 1 1 32] : List Instr).all (fun i => !legal i) = true := by decide

theorem test_refused_2 : ([
    .slti .s8 1 1 0, .muli .s8 1 1 0, .fadd .f16 1 1 1 .rne, .fsub .f16 1 1 1 .rne, .fmul .f16 1 1 1 .rne,
    .fdiv .f16 1 1 1 .rne, .fsqrt .f16 1 1 .rne, .fmin .f16 1 1 1 .rne, .fmax .f16 1 1 1 .rne, .fneg .f16 1 1 .rne,
    .fabs .f16 1 1 .rne, .feq .f16 1 1 1 .rne, .flt .f16 1 1 1 .rne, .fle .f16 1 1 1 .rne, .fma .f16 1 1 1 1 .rne,
    .fli .f16 1 0, .faddi .f16 1 1 0, .fmuli .f16 1 1 0, .wadd .z8 2 2 2, .wsub .z8 2 2 2, .wmul .z8 2 2 2,
    .wmin .z8 2 2 2, .wmax .z8 2 2 2, .wseq .z8 2 2 2, .wslt .z8 2 2 2, .wli .z8 2 0, .waddi .z8 2 2 0, .wseqi .z8 2 2 0,
    .wslti .z8 2 2 0, .wld .z64 2 2 0 .ab] : List Instr).all (fun i => !legal i) = true := by decide

theorem test_refused_3 : ([
    .wld .s16 2 2 0 .glob, .wst .s16 2 2 0, .vadd .z64 1 1 ⟨1, false⟩ ⟨1, false⟩, .vsub .z64 1 1 ⟨1, false⟩ ⟨1, false⟩,
    .vmul .z64 1 1 ⟨1, false⟩ ⟨1, false⟩, .vmulh .z64 1 1 ⟨1, false⟩ ⟨1, false⟩, .vdiv .z64 1 1 ⟨1, false⟩ ⟨1, false⟩,
    .vrem .z64 1 1 ⟨1, false⟩ ⟨1, false⟩, .vmin .z64 1 1 ⟨1, false⟩ ⟨1, false⟩, .vmax .z64 1 1 ⟨1, false⟩ ⟨1, false⟩,
    .vabs .z64 1 1 ⟨1, false⟩, .vneg .z64 1 1 ⟨1, false⟩, .vmadd .z64 1 1 ⟨1, false⟩ ⟨1, false⟩ ⟨1, false⟩,
    .vsll .z64 1 1 ⟨1, false⟩ ⟨1, false⟩, .vsrl .z64 1 1 ⟨1, false⟩ ⟨1, false⟩, .vsra .z64 1 1 ⟨1, false⟩ ⟨1, false⟩,
    .vand .s16 1 1 ⟨1, false⟩ ⟨1, false⟩, .vor .s16 1 1 ⟨1, false⟩ ⟨1, false⟩, .vxor .s16 1 1 ⟨1, false⟩ ⟨1, false⟩,
    .vandn .s16 1 1 ⟨1, false⟩ ⟨1, false⟩, .vnot .s16 1 1 ⟨1, false⟩, .vaddi .z64 1 1 ⟨1, false⟩ 0,
    .vmuli .z64 1 1 ⟨1, false⟩ 0, .vmini .z64 1 1 ⟨1, false⟩ 0, .vmaxi .z64 1 1 ⟨1, false⟩ 0,
    .vandi .s16 1 1 ⟨1, false⟩ 0, .vori .s16 1 1 ⟨1, false⟩ 0, .vxori .s16 1 1 ⟨1, false⟩ 0,
    .vslli .z64 1 1 ⟨1, false⟩ 0, .vslli .s16 1 1 ⟨1, false⟩ 16] : List Instr).all (fun i => !legal i) = true := by decide

theorem test_refused_4 : ([
    .vsrli .z64 1 1 ⟨1, false⟩ 0, .vsrli .s16 1 1 ⟨1, false⟩ 16, .vsrai .z64 1 1 ⟨1, false⟩ 0,
    .vsrai .s16 1 1 ⟨1, false⟩ 16, .vcmpi .lt .z64 1 1 ⟨1, false⟩ 0, .vcmpi .lt .s16 1 0 ⟨1, false⟩ 0,
    .vcmp .lt .z64 1 1 ⟨1, false⟩ ⟨1, false⟩, .vcmp .lt .s16 1 0 ⟨1, false⟩ ⟨1, false⟩,
    .vsel .q4 1 ⟨1, false⟩ ⟨1, false⟩ 1, .vbcast .q4 1 1 1, .vidx .z64 1 1 0 0,
    .vaddF .f64 1 1 ⟨1, false⟩ ⟨1, false⟩ .rne, .vsubF .f64 1 1 ⟨1, false⟩ ⟨1, false⟩ .rne,
    .vmulF .f64 1 1 ⟨1, false⟩ ⟨1, false⟩ .rne, .vdivF .f64 1 1 ⟨1, false⟩ ⟨1, false⟩ .rne,
    .vsqrt .f64 1 1 ⟨1, false⟩ .rne, .vminF .f64 1 1 ⟨1, false⟩ ⟨1, false⟩ .rne,
    .vmaxF .f64 1 1 ⟨1, false⟩ ⟨1, false⟩ .rne, .vnegF .f64 1 1 ⟨1, false⟩ .rne, .vabsF .f64 1 1 ⟨1, false⟩ .rne,
    .vfma .f64 1 1 ⟨1, false⟩ ⟨1, false⟩ ⟨1, false⟩ .rne, .vaddiF .f64 1 1 ⟨1, false⟩ 0, .vmuliF .f64 1 1 ⟨1, false⟩ 0,
    .vminiF .f64 1 1 ⟨1, false⟩ 0, .vmaxiF .f64 1 1 ⟨1, false⟩ 0, .vqnt .f64 .t1 1 ⟨1, false⟩,
    .vdqnt .f64 1 1 ⟨1, false⟩ .rne, .vbfly .f64 1 ⟨1, false⟩ 0 false .rne, .vredsum .z64 1 1 ⟨1, false⟩ 1,
    .vredand .s16 1 1 ⟨1, false⟩ 1] : List Instr).all (fun i => !legal i) = true := by decide

theorem test_refused_5 : ([
    .vredor .s16 1 1 ⟨1, false⟩ 1, .vredxor .s16 1 1 ⟨1, false⟩ 1, .vscansum .z64 1 1 ⟨1, false⟩ 1 false,
    .vscanmin .z64 1 1 ⟨1, false⟩ 1 false, .vscanmax .z64 1 1 ⟨1, false⟩ 1 false, .vsegsum .z64 1 1 ⟨1, false⟩ 1,
    .vsegsum .s16 1 1 ⟨1, false⟩ 0, .vsegmin .z64 1 1 ⟨1, false⟩ 1, .vsegmin .s16 1 1 ⟨1, false⟩ 0,
    .vsegmax .z64 1 1 ⟨1, false⟩ 1, .vsegmax .s16 1 1 ⟨1, false⟩ 0, .vslideup .q4 1 1 ⟨1, false⟩ 1,
    .vslidedn .q4 1 1 ⟨1, false⟩ 1, .vrot .q4 1 1 ⟨1, false⟩ 1, .vperm .q4 1 1 ⟨1, false⟩ ⟨1, false⟩,
    .vcompress .q4 1 ⟨1, false⟩ 1, .vexpand .q4 1 ⟨1, false⟩ 1, .vxch .q4 1 ⟨1, false⟩ 1 1, .mand 0 1 1, .mor 0 1 1,
    .mxor 0 1 1, .mandn 0 1 1, .mnot 0 1, .mset 0, .ld .f32 .ab 1 1 0, .st .f32 .ab 1 1 0, .st .z8 .wb 1 1 0,
    .vlds .s64 .ab 1 1 1 1 0, .vsts .s64 .ab 1 1 1 1 0, .vsts .e5m2 .wb 1 1 1 1 0] : List Instr).all (fun i => !legal i) = true := by decide

theorem test_refused_6 : ([
    .vldx .s64 .ab 1 1 1 ⟨1, false⟩ 0 false, .vstx .s64 .ab 1 1 1 ⟨1, false⟩ 0 false,
    .vstx .e5m2 .wb 1 1 1 ⟨1, false⟩ 0 false, .amoadd .s8 .acq .device 1 1 1, .amoadd .s32 .acq .vp 1 1 1,
    .amomin .s8 .acq .device 1 1 1, .amomin .s32 .acq .vp 1 1 1, .amomax .s8 .acq .device 1 1 1,
    .amomax .s32 .acq .vp 1 1 1, .amoand .s64 .acq .device 1 1 1, .amoand .z64 .acq .vp 1 1 1,
    .amoor .s64 .acq .device 1 1 1, .amoor .z64 .acq .vp 1 1 1, .amoxor .s64 .acq .device 1 1 1,
    .amoxor .z64 .acq .vp 1 1 1, .amoswap .s8 .acq .device 1 1 1, .amoswap .s32 .acq .vp 1 1 1,
    .amocas .s8 .acq .device 1 1 1 1, .amocas .s32 .acq .vp 1 1 1 1, .amofadd .acq .vp 1 1 1, .waitW .wb 1 1 1,
    .hinit .vp 1 1, .hpush .vp 1 1 1, .hpop .vp 1 1, .hstat .vp 1 1, .dlda .glob false 1 1 1, .dldb .glob false 1 1 1,
    .dmeta .wb 1 1 1, .dmacV .z8 1 ⟨1, false⟩ ⟨1, false⟩ 1, .dmacL .s16 1 1] : List Instr).all (fun i => !legal i) = true := by decide

theorem test_refused_7 : ([
    .dmacTriV .z8 1 ⟨1, false⟩ ⟨1, false⟩ 1, .dmacTriL .s16 1 1, .dmacs .s16 1 1, .dsweep .s16 1 false false 1,
    .dmacVI .z8 1 ⟨1, false⟩ ⟨1, false⟩ 0 0, .dmacLI .s16 1 0 0, .dmacsI .s16 1 0 0 0, .sopenAff .s64 .ab 1 1 1 1,
    .sopenInd .s64 .ab .ab false 1 1 1 1, .sopenFib .s64 .ab .ab .bmp 1 1 1 1, .cxclaim .vp 1 1, .cxsave .wb 1,
    .csel .z32 1 1 1 1, .fcvt .s32 .z64 1 1 .rne, .fcvt .f32 .f32 1 1 .rne, .fcvt .f16 .f32 1 1 .rne,
    .fcvt .f32 .s16 1 1 .rne, .branch .al 1 0 0, .branch .al 0 1 0, .wcvt .s32 .z32 1 1 .rne, .wcvt .f32 .f32 1 1 .rne,
    .wcvt .f32 .s16 1 1 .rne, .wli .z16 1 0, .vtag 1 ⟨1, false⟩ .f64 0, .vfmaw .f32 1 1 ⟨1, false⟩ ⟨1, false⟩ .rne,
    .vcvt .s64 .f32 1 1 ⟨1, false⟩ .rne, .vcvt .f32 .q4 1 1 ⟨1, false⟩ .rne, .vcvt .f16 .f16 1 1 ⟨1, false⟩ .rne,
    .vbfly .f32 1 ⟨1, false⟩ 13 false .rne, .vld .q4 .ab 1 1 1 1 16] : List Instr).all (fun i => !legal i) = true := by decide

theorem test_refused_8 : ([
    .vld .q4 .ab 0 1 1 1 8, .vld .s32 .ab 0 1 1 1 0, .vld .z64 .ab 0 1 1 0 0, .vst .q4 .ab 1 1 1 1 16,
    .vst .q4 .ab 0 1 1 1 8, .vst .s32 .ab 0 1 1 1 0, .vst .z64 .ab 0 1 1 0 0, .vst .s32 .wb 0 1 1 0 0,
    .vldseg .s64 .s8 .ab 1 1 1 0 .rne, .vldseg .s32 .q4 .ab 1 1 1 0 .rne, .vldseg .s32 .s8 .ab 1 25 1 7 .rne,
    .vstseg .s64 .s8 .ab 1 1 1 0 .rne, .vstseg .s32 .q4 .ab 1 1 1 0 .rne, .vstseg .s32 .s8 .ab 1 31 1 1 .rne,
    .vstseg .s32 .s8 .wb 1 1 1 0 .rne, .vredm .add .s64 .device 1 1 ⟨1, false⟩ ⟨1, false⟩,
    .vredm .and .s32 .device 1 1 ⟨1, false⟩ ⟨1, false⟩, .vredm .add .s32 .vp 1 1 ⟨1, false⟩ ⟨1, false⟩,
    .hpushVp .device 1 1 1, .hpopVp .device 1 1, .dmovV .z16 1 1 false 0, .dmovV .s32 1 1 false 1,
    .dcvt .s64 true 1 1 false 0, .dcvt .f32 true 1 1 false 0, .dcvt .s32 false 1 1 false 0, .dcvt .s16 true 1 1 false 1,
    .dmovi .z32 1 0 0, .sopenFib .s16 .glob .glob .bmp 1 1 1 0, .sopenFib .s8 .glob .ab .bmp 1 1 1 0,
    .snext 5 (some 5) 1 1] : List Instr).all (fun i => !legal i) = true := by decide

theorem test_refused_9 : ([
    .cxnext 1 5 5 6, .cxnext 1 5 6 5, .cxnext 1 6 5 5, .cpset 1 0 .wb 1, .cpset 1 2 .ab 1, .cpset 1 29 .glob 1,
    .cpget 1 1 29] : List Instr).all (fun i => !legal i) = true := by decide

/-! ### Hypotheses of the statements, met -/

theorem test_hyp_EncodeThenDecode : (Instr.add .z64 63 63 63).WellFormed ∧
    encode (.add .z64 63 63 63) = some 0x00FFFFC000E00001 ∧ (0x00FFFFC000E00001 : Word).getLsbD 63 = false := by
  unfold Instr.WellFormed; decide

theorem test_hyp_PairDecodes : (Instr.addR 1 2).WellFormed ∧ (Instr.subR 1 3).WellFormed ∧ Instr.nop.WellFormed ∧
    (∃ f, fields (.addR 1 2) = some (.slot f)) ∧ (∃ f, fields (.subR 1 3) = some (.slot f)) ∧ (∃ f, fields .nop = some (.slot f)) ∧
    pairOk (.addR 1 2) .nop = true ∧ pairOk (.addR 1 2) (.subR 1 3) = false :=
  ⟨rfl, rfl, rfl, ⟨_, rfl⟩, ⟨_, rfl⟩, ⟨_, rfl⟩, rfl, rfl⟩

theorem test_hyp_DecodeThenEncode : decodeWord 0x7600000000000000 = .ok (.full .tret) ∧
    ∀ w ∈ [0x0300000000000001#64, 0x7F00000000000000#64], w.getLsbD 63 = false ∧ w.extractLsb' 56 7 ∈ [3#7, 0x7F#7] := by
  refine ⟨by decide, ?_⟩; simp

theorem test_hyp_HintDoesNothing : ∀ w ∈ [0x7C00000000000000#64, 0x7DFFFFFFFFFFFFFF#64], w.getLsbD 63 = false ∧
    (w.extractLsb' 56 7 = 0x7C#7 ∨ w.extractLsb' 56 7 = 0x7D#7) := by simp

/-- A convoy of the word of `tret` that runs, its last word still to run or none. -/
def midConvoy (ws : List Word) : State := { onCore (coreAt 2) with ctx := { active := true, words := ws, checked := true } }

theorem test_hyp_StepRunsDecoded : (midConvoy [0x7600000000000001]).ctx.active = true ∧
    (midConvoy [0x7600000000000001]).ctx.words = [0x7600000000000001] ∧ (midConvoy [0x7600000000000001]).ctx.checked = true ∧
    decodeWord 0x7600000000000001 = .ok (.full .tret) ∧
    (∃ t, exec .nop (onCore (coreAt 2)) = .next t ∧ t.ctx.blocked = false) ∧ (onCore (coreAt 2)).core.late = [] ∧
    (onCore (coreAt 2)).srcCore.late = [] := ⟨rfl, rfl, rfl, by decide, ⟨_, rfl, rfl⟩, rfl, rfl⟩

/-- A core at rest at level 2 with the word of `tret` at its pc. -/
def atRest : State :=
  onDev { devOf { coreAt 2 with pc := 0x1000 } with mem := memStore [] 0x1000 0x7600000000000001 8 }

theorem test_hyp_StepFetchesAndRuns : atRest.ctx.active = false ∧ atRest.agenda = [] ∧ atRest.dev.stopped = false ∧
    atRest.core.mode = .run ∧ atRest.core.pl = 2 ∧ atRest.core.wait = none ∧ atRest.core.split.get 2 = none ∧ atRest.core.late = [] ∧
    isMem atRest.core.pc.toNat = true ∧ poisoned 64 atRest.dev.poison atRest.core.pc.toNat 8 = false ∧
    memLoad atRest.dev.mem atRest.core.pc.toNat 8 = (0x7600000000000001 : Word).toNat ∧ lastBit 0x7600000000000001 = true ∧
    decodeWord 0x7600000000000001 = .ok (.full .tret) ∧ convoyFault false [0x7600000000000001] = none := by
  refine ⟨rfl, rfl, rfl, rfl, rfl, rfl, rfl, rfl, rfl, rfl, rfl, rfl, ?_, rfl⟩; decide

/-- The same with interrupts enabled and none pending. -/
def midConvoyIe : State := { onCore { coreAt 2 with ie := true } with ctx := { active := true, checked := true } }

theorem test_hyp_CommitAdvances : (midConvoy []).ctx.active = true ∧ (midConvoy []).ctx.words = [] ∧ (midConvoy []).Committing ∧
    (midConvoy []).Undisturbed ∧ midConvoyIe.ctx.active = true ∧ midConvoyIe.ctx.words = [] ∧ midConvoyIe.Committing ∧
    (midConvoyIe.base.cores.get midConvoyIe.cur).ie = true ∧ midConvoyIe.Undisturbed :=
  ⟨rfl, rfl, ⟨rfl, rfl⟩, .inr (.inr (.inl rfl)), rfl, rfl, ⟨rfl, rfl⟩, rfl, .inr (.inr (.inr ⟨rfl, nofun⟩))⟩

theorem test_hyp_StepKeepsSettled : State.reset.Settled ∧ ∃ t, step State.reset = .next t := by
  refine ⟨⟨rfl, rfl, rfl, by decide, fun _ => ⟨rfl, rfl, rfl, rfl, rfl, rfl, rfl, rfl, rfl, rfl, rfl, rfl, rfl⟩⟩, ?_⟩
  exact ⟨_, rfl⟩

theorem test_hyp_TrapEntry : ∀ pl ∈ [0#2, 1#2, 2#2], (0xFFFFFFFFFFFFFFF8 : Word).toNat % 8 = 0 ∧ (coreAt pl).pl ≤ 2 ∧
    ((coreAt pl).trapRegs (trapLevel (coreAt pl).pl)).tvec.toNat % 8 = 0 := by decide

theorem test_hyp_TrapsArePrecise : State.reset.Control := rfl

/-- A core in the handler of a level, to return to a level and an address. -/
def handler (pl l : BitVec 2) (tepc : Word) : State :=
  onCore { (coreAt pl).setTrapRegs pl { tcause := 0#42 ++ l ++ 0#20, tepc := tepc } with pl := pl }

theorem test_hyp_TrapReturn :
    (∀ x ∈ [(1#2, 0#2), (1#2, 1#2), (2#2, 0#2), (2#2, 2#2)], let s := handler x.1 x.2 0x1008
      s.ctx.vp = none ∧ s.ctx.stop = none ∧ (s.base.cores.get s.cur).ie = false ∧ 1 ≤ s.core.pl.toNat ∧
        ((s.core.trapRegs s.core.pl).tcause.extractLsb' 20 2).toNat ≤ s.core.pl.toNat ∧
        (s.core.trapRegs s.core.pl).tepc.toNat % 8 = 0 ∧ s.core.ended = false ∧ s.core.idleBelow = false) ∧
    (let s := handler 1 2 0
     s.core.pl.toNat < ((s.core.trapRegs s.core.pl).tcause.extractLsb' 20 2).toNat) ∧
    (let s := handler 1 1 0x1001
     ((s.core.trapRegs s.core.pl).tcause.extractLsb' 20 2).toNat ≤ s.core.pl.toNat ∧ (s.core.trapRegs s.core.pl).tepc.toNat % 8 ≠ 0) := by
  decide

/-- A core in the RESUME handler of a context that was in thread mode. -/
def dueState : State :=
  onCore { coreAt 1 with t1 := { tcause := 0, tepc := 0x1008 }, thr := { Thread.fresh with modeDue := true, vps := [{ runnable := true }] } }

theorem test_hyp_TrapReturn_mode : dueState.Committing ∧ (dueState.base.cores.get dueState.cur).ie = false ∧ 1 ≤ dueState.core.pl.toNat ∧
    (let r := dueState.core.trapRegs dueState.core.pl
     r.tcause.extractLsb' 20 2 = 0 ∧ r.tepc.toNat % 8 = 0 ∧ dueState.core.ended = false ∧ dueState.core.idleBelow = false) ∧
    dueState.thr.modeDue = true ∧ ∃ p ∈ dueState.thr.vps, p.runnable = true :=
  ⟨⟨rfl, rfl⟩, rfl, by decide, ⟨by decide, by decide, rfl, rfl⟩, rfl, _, List.mem_cons_self .., rfl⟩

/-- An AIB that runs on VP 0. -/
def run0 : VpRun := { vp := 0, st := {}, pc := 0 }

/-- A state whose convoy is that AIB's. -/
def inAib (r : VpRun) : State := { onCore (coreAt 2) with ctx := { active := true, vp := some r } }

/-- A queue entry, and a launch of one thread from it on core 0. -/
def ent0 : QEntry :=
  { ring := 0x2000, comp := 0x3000, size := 16, cls := 1, en := true, pid := 0, asid := 0, root := 0, head := 0, tail := 1, ok := true }
def job : Launch :=
  { id := 1, queue := 0, pos := 0, ent := ent0, pid := 0, entry := 0x1000, param := 5, nthr := 1, groups := [], preloads := [], links := []
    dropLate := false, deadline := 0xFFFFFFFF, wbtag := 0, arrival := 1, st := .resident, cores := [0] }

/-- A device whose cores run a thread of launch 1, with the launches given. -/
def devJobs (ls : List Launch) (c : Core) : Device := { devOf { c with launch := some 1 } with dstate := 0, launches := ls }

/-- The RESUME handler of thread 0 of a launch of two that is being restored. -/
def restoring : State :=
  onDev (devJobs [{ job with nthr := 2, resuming := [0, 1] }] { coreAt 1 with t1 := { tcause := 0, tepc := 0x1008 } })

theorem test_hyp_TrapReturn_restored : restoring.Committing ∧ (restoring.base.cores.get restoring.cur).ie = false ∧
    restoring.core.ended = false ∧ restoring.core.idleBelow = false ∧
    (let r := restoring.core.trapRegs restoring.core.pl
     r.tcause.extractLsb' 20 2 = 0 ∧ r.tepc.toNat % 8 = 0) ∧
    ∃ q, restoring.dev.launchOn restoring.cur = some q ∧ restoring.dev.launchNo q.arrival = some q ∧ restoring.thr.tid.toNat ∈ q.resuming ∧
      1 ∈ q.resuming ∧ 1 ≠ restoring.thr.tid.toNat :=
  ⟨⟨rfl, rfl⟩, rfl, rfl, rfl, by decide, _, rfl, rfl, by decide, by decide, by decide⟩

theorem test_hyp_InstructionTraps : (onCore (coreAt 0)).Control ∧ (onCore (coreAt 0)).core.pl = 0 ∧
    (onCore (coreAt 1)).core.pl.toNat < 2 ∧ 0x100 ≤ (0x100 : BitVec 12).toNat ∧ (onCore (coreAt 0)).Committing ∧
    (info .tstop).place = .vp ∧ (info .tret).place = .thread ∧ (inAib run0).ctx.vp = some run0 :=
  ⟨rfl, rfl, by decide, by decide, ⟨rfl, rfl⟩, rfl, rfl, rfl⟩

theorem test_hyp_X0ReadsZero : (63 : XReg) ≠ 0 := by decide

theorem test_hyp_ScalarArithmetic : State.reset.Control ∧ Ty.isXInt .s32 = true ∧ Ty.isXInt .z64 = true ∧
    (narrow .s64 (State.reset.rx 1)).toInt = 0 ∧ (narrow .s64 ((onCore (coreX [(1, BitVec.allOnes 64)])).rx 1)).toInt = -1 := by
  refine ⟨rfl, rfl, rfl, ?_, ?_⟩ <;> decide

theorem test_hyp_ScalarLogicAndCompares : State.reset.Control ∧ Ty.isXUns .z32 = true ∧ Ty.isXInt .s64 = true ∧
    (63 : BitVec 6).toNat < Ty.bits .s64 ∧ (31 : BitVec 6).toNat < Ty.bits .z32 ∧ Ty.isVInt .s8 = true := by
  refine ⟨rfl, rfl, rfl, ?_, ?_, rfl⟩ <;> decide

theorem test_hyp_ScalarImmediates : State.reset.Control ∧ Ty.isXInt .z32 = true := ⟨rfl, rfl⟩

theorem test_hyp_ScalarFloating : State.reset.Control ∧ Ty.isXFloat .f32 = true ∧ Ty.isXFloat .f64 = true := ⟨rfl, rfl, rfl⟩

theorem test_hyp_ScalarConversion : State.reset.Control ∧ fcvtTypes .f32 .s64 = true ∧ fcvtTypes .f64 .f32 = true ∧
    fcvtTypes .z32 .f64 = true := ⟨rfl, rfl, rfl, rfl⟩

theorem test_hyp_RoundIsExact : ∀ x ∈ [(Ty.f16, 0x7C00), (.bf16, 0x8001), (.f32, 0xFF7FFFFF), (.e4m3, 0x7E), (.e5m2, 0x7C), (.f64, 1)],
    x.2 < 2 ^ x.1.bits ∧ fpOf x.1 x.2 ≠ .nan := by decide

theorem test_hyp_ScalarFrame : State.reset.Control ∧ scalarDest (.addi .s64 63 0 7) = some 63 ∧
    ∃ t, exec (.addi .s64 63 0 7) State.reset = .next t := ⟨rfl, rfl, _, rfl⟩

theorem test_hyp_ControlTransfers : State.reset.Control ∧ (State.reset.rx 1).toNat % 8 = 0 ∧
    ((onCore (coreX [(1, 7)])).rx 1).toNat % 8 ≠ 0 := by refine ⟨rfl, ?_, ?_⟩ <;> decide

theorem test_hyp_LengthSetters : (onCore (coreX [(1, 8)])).Control ∧ (onCore (coreX [(1, 8)])).rx 1 = BitVec.ofNat 64 Ew.w8.bits ∧
    (∃ t, exec (.setew .w8) (onCore (coreX [(1, 8)])) = .next t) ∧ ∃ t, exec (.csrw 0x001 1) (onCore (coreX [(1, 8)])) = .next t :=
  ⟨rfl, by decide, ⟨_, rfl⟩, ⟨_, rfl⟩⟩

theorem test_hyp_CsrReads : State.reset.Control ∧ (∀ pl ∈ [0#2, 1#2, 2#2], (onCore (coreAt pl)).core.pl = pl) ∧
    (∀ m ∈ [none, some DForm.elem, some .pack], (onCore (coreWith fun t => { t with dmode := m })).thr.dmode = m) ∧
    (∀ q : Fin 4, let s := onCore { coreAt 2 with part := { qmask := 1#4 <<< q.val } }
      s.core.part.qmask.getLsbD q.val = true ∧ ∀ p : Fin 4, p < q → s.core.part.qmask.getLsbD p.val = false) ∧
    ∀ n ∈ [0x00E#12, 0x03F#12, 0x058#12, 0x0FF#12, 0x109#12, 0x17F#12, 0x181#12, 0xFFF#12],
      0x00E ≤ n.toNat ∧ n.toNat < 0x040 ∨ 0x058 ≤ n.toNat ∧ n.toNat < 0x100 ∨ 0x109 ≤ n.toNat ∧ n.toNat < 0x180 ∨ 0x181 ≤ n.toNat := by
  refine ⟨rfl, by decide, by decide, by decide, ?_⟩; simp

theorem test_hyp_CsrWrites : State.reset.Control ∧ (∀ pl ∈ [0#2, 1#2, 2#2], (onCore (coreAt pl)).core.pl = pl) ∧
    (∀ n ∈ [0x002#12, 0x00D#12, 0x040#12, 0x057#12], n.toNat ∈ [0x002, 0x004, 0x005, 0x006, 0x00A, 0x00B, 0x00C, 0x00D] ∨
      0x040 ≤ n.toNat ∧ n.toNat < 0x058) ∧ ((onCore (coreX [(1, 0x48)])).rx 1).toNat % 64 = Ew.w8.bits ∧
    (∀ w : Ew, ((onCore (coreX [(1, 9)])).rx 1).toNat % 64 ≠ w.bits) ∧
    (let x := (onCore (coreX [(1, 0x205)])).rx 1; x.extractLsb' 8 2 ≠ 3 ∧ (x.extractLsb' 0 3).toNat ≤ 5) ∧
    ((onCore (coreX [(1, 0x300)])).rx 1).extractLsb' 8 2 = 3 ∧ 6 ≤ (((onCore (coreX [(1, 6)])).rx 1).extractLsb' 0 3).toNat := by
  refine ⟨rfl, by decide, by simp, by decide, ?_, by decide⟩
  intro w; cases w <;> decide

/-- A core in a SPILL handler of level 1 entered from level 0. -/
def spillCore : Core := { coreAt 1 with t1 := { tcause := 0x103 } }

theorem test_hyp_ThreadControl_halt : ∀ pl ∈ [0#2, 1#2], let s := onDev (devJobs [job] (coreAt pl))
    s.ctx.vp = none ∧ s.ctx.stop = none ∧ (s.base.cores.get s.cur).ie = false ∧ s.dev.launchOn s.cur = some job ∧
      s.dev.launchNo job.arrival = some job ∧ s.core.ended = false ∧ s.core.late = [] ∧ s.thr.threadMode = false ∧
      s.dev.duty.getLsbD 3 = false := by decide

/-- A core of level 0 in thread mode. -/
def coreMode (on : Bool) : Core := { coreAt 0 with thr := { Thread.fresh with vps := [{ runnable := true }], threadMode := on } }

/-- An instruction of the queue of a core: a vector load, or a scalar one. -/
def lateOf (i : Instr) (c : Core) : Late :=
  { no := 0, instr := i, word := 0, wordAddr := 0, wordIdx := 0, high := false, src := c.thr, bank := c.bank, pl := c.pl, ptbr := c.ptbr
    asid := c.asid, pin := [] }
def queued (i : Instr) (c : Core) : Core := { c with late := [lateOf i c], lateNo := 1 }
def vload : Instr := .vld .z32 .glob 0 1 1 0 0
def sload : Instr := .ld .z32 .glob 1 2 0

theorem test_hyp_ThreadControl_queue : (let s := onDev (devJobs [job] (queued vload (coreAt 0)))
      s.ctx.vp = none ∧ s.ctx.stop = none ∧ (s.base.cores.get s.cur).ie = false ∧ s.dev.launchOn s.cur = some job ∧
      s.dev.launchNo job.arrival = some job ∧ s.core.ended = false ∧ s.core.pl = 0 ∧ s.core.late ≠ [] ∧ s.thr.threadMode = false) ∧
    (onCore (queued vload (coreAt 0))).core.late.any Late.vec = true ∧ (onCore (queued sload (coreAt 0))).core.late.any Late.vec = false := by
  decide

theorem test_hyp_ThreadControl_again : let s : State := { onCore (coreMode true) with ctx := {
      active := true, stop := some { why := .mode, dev := devOf (coreMode true), rest := { words := [], idx := 0 } } } }
    s.Control ∧ s.thr.threadMode = true ∧ (s.base.cores.get s.cur).thr.threadMode = true ∧ s.ctx.stop.isSome = true ∧ s.core.pl = 0 ∧
      s.ctx.words = [] ∧ s.ctx.active = true ∧ s.Undisturbed := ⟨rfl, rfl, rfl, rfl, rfl, rfl, rfl, .inr (.inr (.inl rfl))⟩

theorem test_hyp_ThreadControl_yield0 : (onCore (coreAt 0)).Committing ∧ (onCore (coreAt 0)).core.pl = 0 ∧
    (onCore (coreAt 0)).dev.launchOn 0 = none ∧
    (let d := devJobs [job] (coreAt 0)
     d.launchOn 0 = some job ∧ d.readyList job.pid = [] ∧ d.yieldGranted job = false) ∧
    (let w : Launch := { job with id := 0, arrival := 2, st := .ready, cores := [] }
     let d := devJobs [job, w] (coreAt 0)
     d.launchOn 0 = some job ∧ d.launchNo job.arrival = some job ∧ d.readyList job.pid = [w] ∧ w.dropLate = false ∧
       d.yieldGranted job = true) := ⟨⟨rfl, rfl⟩, rfl, rfl, by decide, by decide⟩

theorem test_hyp_ThreadControl_yield : (let s := onDev (devJobs [job] { coreAt 1 with saved := some 0x4000 })
      s.ctx.vp = none ∧ s.ctx.stop = none ∧ (s.base.cores.get s.cur).ie = false ∧ s.core.pl ≠ 0 ∧
      (s.core.trapRegs s.core.pl).tcause.getLsbD 8 = false ∧ s.core.irq.kill = false ∧ s.dev.launchOn s.cur = some job ∧
      s.dev.launchNo job.arrival = some job ∧ s.core.saved = some 0x4000) ∧
    (let l : Launch := { job with moving := [(0, 0)], images := [(0, 0)], cores := [7] }
     let s := onDev (devJobs [l] spillCore)
     let r := s.core.trapRegs s.core.pl
     s.core.pl ≠ 0 ∧ r.tcause.getLsbD 8 = true ∧ r.tcause.extractLsb' 0 8 = 3 ∧ s.core.launch.isSome = true ∧
       (r.tcause.extractLsb' 20 2).toNat ≤ s.core.pl.toNat ∧ r.tepc.toNat % 8 = 0 ∧ s.core.ended = false ∧ s.core.idleBelow = false ∧
       s.dev.launches = [l] ∧ l.resuming = [] ∧ l.moving = [(0, s.cur)] ∧ l.images = [(0, r.tval)] ∧ l.cores[0]? = some 7) := by decide

theorem test_hyp_ThreadControl_vps : (onCore (coreAt 0)).VectorReady ∧
    ((onCore (coreX [(1, 1024)])).rx 1).toNat ≤ 1024 ∧ 1024 < ((onCore (coreX [(1, 1025)])).rx 1).toNat ∧
    0 < (onCore (coreWith fun t => { t with vps := [{}] })).thr.vps.length := by
  refine ⟨⟨rfl, rfl⟩, ?_, ?_, ?_⟩ <;> decide

theorem test_hyp_ThreadControl_mode : ∀ b ∈ [true, false],
    let s : State := { dev := devOf (coreMode true), base := devOf (coreMode b), ctx := { active := true } }
    s.ctx.vp = none ∧ s.ctx.stop = none ∧ s.thr.threadMode = true ∧ (s.base.cores.get s.cur).thr.threadMode = b ∧ s.core.pl = 0 ∧
      s.core.late = [] ∧ (s.rx 0).toNat ≤ 1024 := by decide

/-- The queue of a core whose only instruction has a word still to write. -/
def queuedStore (c : Core) : Core :=
  { c with late := [{ lateOf vload c with touches := [{ spot := .glob ⟨0x1000, none⟩, addr := 0x1000, n := 4, read := false, write := true }] }] }

theorem test_hyp_ThreadControl_kill : (∀ f ∈ [id, queuedStore, queued vload], let s := onDev (devJobs [job] (f (coreAt 1)))
      s.ctx.vp = none ∧ s.ctx.stop = none ∧ (s.base.cores.get s.cur).ie = false ∧ s.dev.launchOn s.cur = some job ∧
      s.dev.launchNo job.arrival = some job ∧ s.core.ended = false ∧ s.core.pl ≠ 0 ∧ s.dev.duty.getLsbD 3 = false) ∧
    (∀ f ∈ [id, queued vload], ∀ e ∈ (f (coreAt 1)).late, ∀ u ∈ e.touches, u.write = false) ∧
    (∃ e, (queuedStore (coreAt 1)).late = [] ++ [e] ∧ ∃ u ∈ e.touches, u.write = true) ∧
    (let s := onDev (devJobs [job] { coreAt 0 with wait := some (.dying 0x0030) })
     s.core.wait = some (.dying 0x0030) ∧ s.core.late = [] ∧ s.dev.duty.getLsbD 3 = false ∧ s.dev.launchOn s.cur = some job ∧
      s.dev.launchNo job.arrival = some job ∧ s.core.ended = false) ∧
    (let s := onCore (coreAt 1)
     s.Committing ∧ (s.base.cores.get s.cur).ie = false ∧ 1 ≤ s.core.pl.toNat ∧ s.dev.launchOn s.cur = none ∧ s.thr.threadMode = false ∧
      s.core.late = []) := by
  refine ⟨by decide, by decide, ⟨_, rfl, _, List.mem_cons_self .., rfl⟩, by decide, ⟨rfl, rfl⟩, ?_⟩; decide

theorem test_hyp_ThreadControl_vfetch : (onCore (queued vload (coreAt 0))).VectorReady ∧ (onCore (queued vload (coreAt 0))).core.late ≠ [] ∧
    (onCore (coreAt 0)).core.late = [] ∧ (onCore (queued sload (coreAt 0))).core.late.any Late.vec = false := ⟨⟨rfl, rfl⟩, nofun, rfl, by decide⟩

theorem test_hyp_VpInteger : (inAib run0).ctx.vp = some run0 ∧ Ty.isWInt .s32 = true := ⟨rfl, rfl⟩

theorem test_hyp_VpFloating : (inAib run0).ctx.vp = some run0 ∧ Ty.isWInt .z32 = true := ⟨rfl, rfl⟩

/-- The AIB of `run0`, its latch 0 held. -/
def runHeld : VpRun := { run0 with st := { hold := #v[true, false] } }

theorem test_hyp_VpLatchesAndMemory : (inAib runHeld).ctx.vp = some runHeld ∧
    ((inAib runHeld).ctx.vpSrc.getD runHeld.st).hold.get (0 : LatchNo) = true ∧
    ((inAib runHeld).ctx.vpSrc.getD runHeld.st).hold.get (1 : LatchNo) = false ∧ vpTagOk ((inAib run0).rv 31).ty = true ∧
    run0.puts = [] ∧ { run0 with puts := [(31, 5)] }.puts = ((31 : VReg), (5 : Half)) :: [] ∧
    vpPlace (inAib run0) .wb (vpAddr (inAib run0) run0 0 0x7FFE) 2 = some ⟨0, true, 0x7FFE⟩ ∧
    vpPlace (inAib run0) .ab (vpAddr (inAib run0) run0 0 0x7FFE) 2 = some ⟨0, false, 0x7FFE⟩ ∧
    (inAib run0).dev.localPoisoned ⟨0, true, 0x7FFE⟩ 2 = false ∧ run0.stores = [] := by
  refine ⟨rfl, ?_, ?_, ?_, ?_, ?_, ?_, ?_, ?_, ?_⟩ <;> decide

theorem test_hyp_VpLatchesAndMemory_settle : (∃ s1, (inAib run0).settle false ⟨200, 0x7FFE, 0x8000⟩ = .ok () s1) ∧
    ∃ s1, (inAib run0).settle true ⟨1, 0x7FFE, 0x8000⟩ = .ok () s1 := ⟨⟨_, rfl⟩, ⟨_, rfl⟩⟩

/-- A core in thread mode with an AIB on lane 0 that has run its terminator. -/
def terminated (k : VpTerm) : State :=
  onCore (coreWith fun t => { t with
    vps := [{}], threadMode := true, aib := t.aib.set 0 (some { run0 with term := some k }) })

theorem test_hyp_VpTerminators : (inAib run0).ctx.vp = some run0 ∧ (inAib run0).rw run0 47 = 0 ∧
    (inAib { run0 with st := { w := Vector.replicate 48 1 } }).rw { run0 with st := { w := Vector.replicate 48 1 } } 47 ≠ 0 ∧
    (∀ k, (terminated k).thr.aib.get (0 : LaneNo) = some { run0 with term := some k }) ∧ run0.hop = none ∧
    run0.vp < (terminated .stop).thr.vps.length := by
  refine ⟨rfl, ?_, ?_, fun k => rfl, rfl, ?_⟩ <;> decide

theorem test_hyp_VpFrame : (inAib run0).ctx.vp = some run0 ∧ vpDest (.wmov 47 0) = some 47 ∧
    ∃ t, exec (.wmov 47 0) (inAib run0) = .next t := ⟨rfl, rfl, _, rfl⟩

/-- A state in which every vector register has a tag and the data given. -/
def vecState (ty : Ty) (ew : Ew) (vl : Nat) (data : BitVec 65536) : State :=
  onCore (coreWith fun t => { t with ew := ew, vl := vl, v := Vector.replicate 32 { ty := ty, data := data } })

theorem vecState_ready (ty : Ty) (ew : Ew) (vl : Nat) (data : BitVec 65536) : (vecState ty ew vl data).VectorReady := ⟨rfl, rfl⟩

theorem vecState_rv (ty : Ty) (ew : Ew) (vl : Nat) (data : BitVec 65536) (r : VReg) :
    (vecState ty ew vl data).rv r = ({ ty := ty, data := data } : VecReg) := by
  show Vector.get (Vector.replicate 32 ({ ty := ty, data := data } : VecReg)) r = _
  simp [Vector.get]

theorem vecState_ty (ty : Ty) (ew : Ew) (vl : Nat) (data : BitVec 65536) (r : VReg) : ((vecState ty ew vl data).rv r).ty = ty := by
  rw [vecState_rv]

theorem test_hyp_VectorInteger : (vecState .z32 .w32 1 1).VectorReady ∧ Ty.isVInt .z32 = true ∧
    (vecState .z32 .w32 1 1).srcCore.thr.ew.bits = Ty.bits .z32 ∧ ((vecState .z32 .w32 1 1).rv 31).ty = .z32 ∧
    intOf .z32 (((vecState .z32 .w32 1 1).rv 31).elem .z32 0) ≠ 0 ∧
    intOf .z32 (((vecState .z32 .w32 1 1).rv 31).elem .z32 1) = 0 :=
  ⟨vecState_ready .., rfl, rfl, vecState_ty .., by rw [vecState_rv]; decide +kernel, by rw [vecState_rv]; decide +kernel⟩

theorem test_hyp_VectorFloating : (vecState .f32 .w32 1 0).VectorReady ∧
    (vecState .f32 .w32 1 0).srcCore.thr.ew.bits = Ty.bits .f32 ∧ Ty.isInt .f32 = false ∧ ((vecState .f32 .w32 1 0).rv 31).ty = .f32 ∧
    nbvOf (vecState .f32 .w32 1 0).thr.nctl = 0 ∧ (vecState .bf16 .w32 1 0).srcCore.thr.ew.bits = 32 ∧
    (∀ x ∈ [(Ty.z32, Ty.s8), (.z32, .f16), (.f32, .s32), (.f16, .f32), (.e4m3, .f32)],
      (vecState x.1 .w32 1 0).srcCore.thr.ew.bits = max x.2.bits x.1.bits ∧ x.2 ≠ x.1) ∧
    ((vecState .q4 .w32 1 0).rv 31).ty = .q4 :=
  ⟨vecState_ready .., rfl, rfl, vecState_ty .., rfl, rfl, by decide, vecState_ty ..⟩

theorem test_hyp_VectorMovesAndBlocks : (vecState .s8 .w8 8192 0).VectorReady ∧ Ty.isVInt ((vecState .s8 .w8 8192 0).rv 31).ty = true ∧
    (vecState .s8 .w8 8192 0).srcCore.thr.ew.bits = ((vecState .s8 .w8 8192 0).rv 31).ty.bits ∧
    ((vecState .s8 .w8 8192 0).rv 31).ty ≠ .q4 ∧ ((vecState .q4 .w8 8192 0).rv 31).ty = .q4 ∧
    (vecState .f16 .w16 4096 0).srcCore.thr.ew.bits = Ty.bits .f16 ∧ (vecState .f16 .w16 4096 0).vl % 32 = 0 ∧
    (vecState .f16 .w16 4096 0).ctx.stage = none ∧ 32 * 127 < (vecState .f16 .w16 4096 0).vl ∧
    (vecState .f16 .w16 4096 0).vl % (2 * 2 ^ (11 : BitVec 4).toNat) = 0 ∧ 4095 < (vecState .f16 .w16 4096 0).vl := by
  rw [vecState_ty, vecState_ty]
  exact ⟨vecState_ready .., rfl, rfl, by decide, rfl, rfl, rfl, rfl, by decide, rfl, by decide⟩

/-- A quantisation that takes the result of a butterfly. -/
theorem test_hyp_VectorMovesAndBlocks_stage : let s : State := { vecState .f16 .w16 4096 0 with ctx := { stage := some 1 } }
    s.VectorReady ∧ s.ctx.stage = some 1 ∧ s.srcCore.thr.ew.bits = Ty.bits .f16 ∧ s.vl % 32 = 0 := ⟨⟨rfl, rfl⟩, rfl, rfl, rfl⟩

theorem test_hyp_MasksAndCompares : (vecState .f32 .w32 2048 0).VectorReady ∧
    (vecState .f32 .w32 2048 0).srcCore.thr.ew.bits = Ty.bits .f32 ∧ ((vecState .f32 .w32 2048 0).rv 31).ty = .f32 ∧
    (∀ e, e < (vecState .f32 .w32 0 0).vl → (vecState .f32 .w32 0 0).srcCore.thr.maskBit 1 e = false) ∧
    0 < (vecState .f32 .w32 2048 0).vl ∧ (vecState .f32 .w32 2048 0).srcCore.thr.maskBit 0 0 = true :=
  ⟨vecState_ready .., rfl, vecState_ty .., fun e h => absurd h (Nat.not_lt_zero e), by decide, by decide⟩

theorem test_hyp_ReductionsAndScans : (∀ x ∈ [(Ty.s8, Ew.w8), (.z16, .w16), (.z32, .w32), (.f32, .w32), (.f16, .w16), (.bf16, .w16)],
      (vecState x.1 x.2 1 0).VectorReady ∧ (vecState x.1 x.2 1 0).srcCore.thr.ew.bits = x.1.bits ∧
      ((vecState x.1 x.2 1 0).rv 31).ty = x.1) ∧ Ty.isVInt .z16 = true ∧ Ty.signed .z16 = false ∧ Ty.isInt .f32 = false ∧
    ((List.range (vecState .f32 .w32 0 0).vl).filter ((vecState .f32 .w32 0 0).thr.maskBit 0)) = [] ∧
    ((List.range (vecState .f32 .w32 1 0).vl).filter ((vecState .f32 .w32 1 0).thr.maskBit 0)) = [0] := by
  refine ⟨?_, rfl, rfl, rfl, rfl, rfl⟩
  intro x h
  refine ⟨vecState_ready .., ?_, vecState_ty ..⟩
  fin_cases h <;> rfl

theorem test_hyp_Permutations : (vecState .z32 .w32 2048 0).VectorReady ∧ ((vecState .z32 .w32 2048 0).rv 31).ty = .z32 ∧
    (vecState .z32 .w32 2048 0).srcCore.thr.ew.bits = Ty.bits .z32 ∧ ((vecState .z16 .w16 4096 0).rv 31).ty = .z16 ∧
    (vecState .z16 .w16 4096 0).srcCore.thr.ew.bits = Ty.bits .z16 ∧
    (decide (2047 < (vecState .z32 .w32 2048 0).vl) && (vecState .z32 .w32 2048 0).srcCore.thr.maskBit 0 2047) = true :=
  ⟨vecState_ready .., vecState_ty .., rfl, vecState_ty .., rfl, by decide⟩

/-- Threads 0 and 1 of one launch, whose group 0 has both. -/
def duo : Launch := { job with nthr := 2, cores := [0, 1], groups := [{ num := 0, members := 3, count := 2 }] }

/-- A thread of that launch whose exchange names thread `x1`. -/
def exCore (p : Word) (x : Option Exchange) : Core :=
  let c := coreX [(1, p)]
  { c with thr := { c.thr with vl := 1, xchg := x, nthr := 2, v := Vector.replicate 32 { ty := .z32 } } }
def exState (l : Launch) (p : Word) (x : Option Exchange) : State := onDev (devJobs [l] (exCore p x))

/-- An exchange with thread 1. -/
def exch : Exchange := { peer := 1, group := 0, ord := 0, ty := .z32, vl := 1, vd := 1, va := 2, data := 0, pc := 0, pl := 2 }

theorem test_hyp_Exchanges : ∀ p ∈ [0#64, 1#64], (exState duo p none).VectorReady ∧ ((exState duo p none).rv 31).ty = .z32 ∧
    (exState duo p none).srcCore.thr.ew.bits = Ty.bits .z32 ∧ (exState duo p none).dev.launchOn 0 = some duo ∧
    ((exState duo p none).rx 1).toNat < 192 ∧ ((exState duo p none).rx 1).toNat = p.toNat ∧ (exState duo p none).thr.tid.toNat = 0 ∧
    (∃ g ∈ duo.groups, g.num = ((exState duo p none).rx 2).toNat % 256 ∧ g.members ≠ 0 ∧
      g.members.getLsbD (exState duo p none).thr.tid.toNat = true ∧ g.members.getLsbD ((exState duo p none).rx 1).toNat = true) ∧
    (exState duo p none).thr.xchg = none ∧ duo.endedThreads.contains 1 = false ∧ ((exState duo p none).dev.sibling 0 1).isSome = true ∧
    (exState duo p none).ctx.stop = none := by
  have h : ∀ p : Word, p.toNat < 2 → (exState duo p none).VectorReady ∧ ((exState duo p none).rv 31).ty = .z32 ∧
      (exState duo p none).srcCore.thr.ew.bits = Ty.bits .z32 ∧ (exState duo p none).dev.launchOn 0 = some duo ∧
      (exState duo p none).rx 1 = p ∧ (exState duo p none).thr.tid.toNat = 0 ∧ (exState duo p none).thr.xchg = none :=
    fun _ _ => ⟨⟨rfl, rfl⟩, rfl, rfl, rfl, rfl, rfl, rfl⟩
  intro p hp
  have hp2 : p.toNat < 2 := by fin_cases hp <;> decide
  obtain ⟨h1, h4, h5, h6, h7, h8, h9⟩ := h p hp2
  refine ⟨h1, h4, h5, h6, by rw [h7]; omega, by rw [h7], h8, ⟨_, List.mem_singleton_self _, ?_, by decide, ?_, ?_⟩, h9, by decide, ?_, rfl⟩
  · exact congrArg (fun w : Word => w.toNat % 256) (rfl : (0 : Word) = (exState duo p none).rx 2)
  · rw [h8]; decide
  · rw [h7]; fin_cases hp <;> decide
  · rfl

theorem test_hyp_Exchanges_ends : (let l : Launch := { duo with endedThreads := [1] }
      (exState l 1 none).dev.launchOn 0 = some l ∧ (exState l 1 none).thr.xchg = none ∧ l.endedThreads.contains 1 = true) ∧
    (∀ x ∈ [exch, { exch with got := some 5 }, { exch with failed := true }],
      (exState duo 1 (some x)).thr.xchg = some x ∧ x.pl = (exState duo 1 (some x)).core.pl ∧ x.pc = (exState duo 1 (some x)).core.pc ∧
        x.peer = ((exState duo 1 (some x)).rx 1).toNat ∧ x.group = ((exState duo 1 (some x)).rx 2).toNat % 256) ∧
    (∀ x ∈ [{ exch with pl := 0 }, { exch with pc := 8 }], (exState duo 1 (some x)).thr.xchg = some x ∧
      (x.pl = 0 ↔ x.pl ≠ (exState duo 1 (some x)).core.pl) ∧ (x.pl = 2 ↔ x.pc ≠ (exState duo 1 (some x)).core.pc)) := by
  refine ⟨⟨by decide, rfl, by decide⟩, ?_, ?_⟩
  · intro x h
    refine ⟨rfl, ?_⟩
    fin_cases h <;> exact ⟨rfl, rfl, rfl, rfl⟩
  · intro x h
    refine ⟨rfl, ?_⟩
    fin_cases h <;> decide

/-- A convoy of a core whose words have run, stopped as given. -/
def stopped (c : Core) (w : StopWhy) : State :=
  { onCore c with ctx := { active := true, checked := true, stop := some { why := w, dev := devOf c, rest := { words := [], idx := 0 } } } }

theorem test_hyp_Exchanges_offer : let s := stopped (exCore 1 none) (.wait (.exchange (some exch)))
    s.ctx.active = true ∧ s.ctx.words = [] ∧ s.ctx.vp = none ∧ s.Undisturbed ∧
    s.ctx.stop = some { why := .wait (.exchange (some exch)), dev := devOf (exCore 1 none), rest := { words := [], idx := 0 } } :=
  ⟨rfl, rfl, rfl, .inr (.inr (.inl rfl)), rfl⟩

theorem test_hyp_Exchanges_pair : (exState duo 1 none).dev.sibling 0 1 = some 1 ∧ exch.failed = false ∧ exch.got = none ∧
    ((exState duo 1 none).dev.cores.get 1).thr.xchg = none ∧
    (∀ y ∈ [{ exch with peer := 0 }, { exch with peer := 0, ty := .s32 }, { exch with peer := 0, vl := 2 }],
      ((exState duo 1 (some y)).dev.cores.get 1).thr.xchg = some y ∧ y.peer = (exState duo 1 (some y)).thr.tid.toNat ∧
      y.group = exch.group ∧ y.ord = exch.ord ∧ y.failed = false ∧ y.got = none) ∧
    exchangeNo (exState duo 1 none).thr exch.peer exch.group = exch.ord ∧
    exch.ty = ({ exch with peer := 0 } : Exchange).ty ∧ exch.ty ≠ ({ exch with ty := .s32 } : Exchange).ty ∧
    exch.vl ≠ ({ exch with vl := 2 } : Exchange).vl := by
  refine ⟨by decide, rfl, rfl, rfl, ?_, rfl, rfl, nofun, nofun⟩
  intro y h
  fin_cases h <;> exact ⟨rfl, rfl, rfl, rfl, rfl, rfl⟩

/-- An instruction that goes on within its convoy, its outcome looked at. -/
theorem next_of {o : Host.Outcome State Fault Refusal} (h : (match o with | .next t => t.ctx.active | _ => false) = true) :
    ∃ t, o = .next t ∧ t.ctx.active = true := by
  cases o with
  | next t => exact ⟨t, rfl, h⟩
  | _ => cases h

theorem test_hyp_VectorFrame : (vecState .z32 .w32 1 1).VectorReady ∧ (vecState .z32 .w32 1 1).ctx.trapped = false ∧
    vectorDest (.vbcast .z32 0 31 0) = some 31 ∧ maskDest (.mset 7) = some 7 ∧
    (∃ t, exec (.vbcast .z32 0 31 0) (vecState .z32 .w32 1 1) = .next t ∧ t.ctx.trapped = false) ∧
    (∃ t, exec (.mset 7) (vecState .z32 .w32 1 1) = .next t ∧ t.ctx.trapped = false) ∧
    vectorsTo (.dmovV .z32 31 511 false 0) = some [31] ∧
    ∃ t, exec (.dmovV .z32 31 511 false 0) { vecState .z32 .w32 1 1 with ctx := { active := true } } = .next t ∧ t.ctx.active = true :=
  ⟨vecState_ready .., rfl, rfl, rfl, ⟨_, rfl, rfl⟩, ⟨_, rfl, rfl⟩, rfl, next_of (by decide +kernel)⟩

theorem test_hyp_Swizzle : (7 : Nat) ≤ 7 ∧ (15 : Nat) < 16 := by decide

/-! #### Memory -/

theorem get_rep {α : Type} {n : Nat} (a : α) (i : Fin n) : (Vector.replicate n a).get i = a := by simp [Vector.get]

theorem canonical_devOf (c : Core) (h : c.ab.wf = true ∧ c.wb.wf = true ∧ c.md.wf = true) (m : Memory) (hm : m.wf = true) :
    (onDev { devOf c with mem := m }).Canonical := by
  have hd : ({ devOf c with mem := m } : Device).Canonical := by
    refine ⟨hm, rfl, rfl, fun i => ?_⟩
    have hc : ({ devOf c with mem := m } : Device).cores.get i = c := get_rep c i
    rw [hc]; exact h
  refine ⟨hd, hd, fun x hx => ?_⟩
  have hn : (onDev { devOf c with mem := m }).ctx.stop = none := rfl
  rw [hn] at hx
  cases hx

theorem plainAt_of {s : State} {acc : AccKind} {a : Word} {n pa : Nat} {leaf : Option Leaf}
    (h : s.ctx.vp = none ∧ a.toNat % n = 0 ∧ pa % n = 0 ∧ isMem pa = true ∧ poisoned 64 s.dev.poison pa n = false ∧ s.core.late = [] ∧
      s.ctx.queued = none ∧ ∀ k, s.thr.transfers.get k = none)
    (hl : lookup s.dev s.viewer s.core.pl acc a = .ok pa leaf) (hk : ∀ l, leaf = some l → l.kind = 0 ∨ l.kind = 4) :
    s.PlainAt acc a n pa leaf :=
  ⟨h.1, h.2.1, h.2.2.1, hl, h.2.2.2.1, hk, h.2.2.2.2.1, h.2.2.2.2.2⟩

theorem isMem_lt {n : Nat} (h : isMem n = true) : ¬ 2 ^ 56 ≤ n := by
  rcases (Bool.or_eq_true _ _).mp h with h | h
  · have := of_decide_eq_true h; unfold devRegBase at this; omega
  · have := of_decide_eq_true ((Bool.and_eq_true _ _).mp h).2; unfold memEnd at this; omega

theorem plainAt_level2 {s : State} {a : Word} {n : Nat} (acc : AccKind) (hp : s.core.pl = 2)
    (h : s.ctx.vp = none ∧ a.toNat % n = 0 ∧ a.toNat % n = 0 ∧ isMem a.toNat = true ∧ poisoned 64 s.dev.poison a.toNat n = false ∧
      s.core.late = [] ∧ s.ctx.queued = none ∧ ∀ k, s.thr.transfers.get k = none) : s.PlainAt acc a n a.toNat none := by
  refine plainAt_of h ?_ nofun
  have hm := h.2.2.2.1
  have hlt : ¬ 2 ^ 56 ≤ a.toNat := isMem_lt hm
  rw [lookup, if_pos hp, lookupPhys, if_neg hlt, if_pos hm]

theorem plainElem_level2 {s : State} {a : Word} {n : Nat} (acc : AccKind) (hp : s.core.pl = 2)
    (h : s.ctx.vp = none ∧ a.toNat % n = 0 ∧ a.toNat % n = 0 ∧ isMem a.toNat = true ∧ poisoned 64 s.dev.poison a.toNat n = false ∧
      s.core.late = [] ∧ s.ctx.queued = none ∧ ∀ k, s.thr.transfers.get k = none) : s.PlainElem acc a n a.toNat :=
  ⟨none, plainAt_level2 acc hp h, by unfold State.filled; split; exacts [rfl, setCore_self s], by simp [hp]⟩

/-- A page of user memory, and a core of level 0 whose TLB holds it. -/
def leaf0 : Leaf := { va := 0x10000, lvl := 0, pa := 0x40000, w := true, x := true, u := true, g := false, kind := 0 }
def core0 : Core :=
  ({ coreAt 0 with tlb := [{ asid := 0, leaf := leaf0 }], thr := { Thread.fresh with v := Vector.replicate 32 { ty := .z32 } } }).setX 1 0x10FF8

theorem test_hyp_ScalarMemory : (onCore core0).Control ∧ 8 * Ty.size .z64 = Ty.bits .z64 ∧ 8 * Ty.size .s8 = Ty.bits .s8 ∧
    (0x10FF9 : Word).toNat % 2 ≠ 0 ∧ (onCore core0).rx 1 = 0x10FF8 ∧
    (∀ acc ∈ [AccKind.load, .store, .rmw], (onCore core0).PlainAt acc 0x10FF8 8 0x40FF8 (some leaf0)) ∧
    (onCore core0).Canonical ∧ (onCore (coreAt 2)).Canonical ∧
    ∀ acc ∈ [AccKind.load, .store, .rmw], (onCore (coreAt 2)).PlainAt acc 0xFFFFF8 8 0xFFFFF8 none := by
  refine ⟨rfl, rfl, rfl, by decide, by decide, ?_, canonical_devOf _ ⟨rfl, rfl, rfl⟩ [] rfl,
    canonical_devOf _ ⟨rfl, rfl, rfl⟩ [] rfl, ?_⟩
  · intro acc h
    refine plainAt_of (by decide) ?_ (by rintro l ⟨⟩; exact .inl rfl)
    fin_cases h <;> rfl
  · exact fun acc _ => plainAt_level2 acc rfl (by decide)

theorem test_hyp_ScalarMemory_local : (∀ x ∈ [(Space.ab, false), (.wb, true)],
      (onCore (coreAt 0)).PlainLocal x.1 0x7FFF8 8 ⟨0, x.2, 0x7FFF8⟩) ∧ Ty.isXInt .z32 = true := by
  refine ⟨?_, rfl⟩
  intro x h
  fin_cases h <;> exact ⟨rfl, by decide, nofun, by decide +kernel, by decide +kernel, rfl, rfl, by decide⟩

/-- Vector states with one element: the index 8 × e, and types that agree; at level 2, and at level 0 with the page in the TLB. -/
def vmem2 (ty : Ty) (ew : Ew) (vl : Nat) : State :=
  onCore ((coreWith fun t => { t with ew := ew, vl := vl, v := Vector.replicate 32 { ty := ty } }).setX 1 0x1000)
def vmem0 : State := onCore { core0 with thr := { core0.thr with vl := 1 } }

theorem plainByte (ty : Ty) (ew : Ew) (vl : Nat) (acc : AccKind) (a : Word) (i : Nat) (h : a.toNat + i < 0x2000) :
    (vmem2 ty ew vl).PlainElem acc (a + BitVec.ofNat 64 i) 1 (a.toNat + i) := by
  have ha : (a + BitVec.ofNat 64 i).toNat = a.toNat + i := by
    rw [BitVec.toNat_add, BitVec.toNat_ofNat]; omega
  rw [← ha]
  refine plainElem_level2 acc rfl ⟨rfl, Nat.mod_one _, Nat.mod_one _, ?_, ?_, rfl, rfl, fun k => get_rep (none : Option Transfer) k⟩
  · have hb : a.toNat + i < devRegBase := by unfold devRegBase; omega
    rw [ha, isMem, decide_eq_true hb, Bool.true_or]
  · have hp : (vmem2 ty ew vl).dev.poison = [] := rfl
    rw [hp, poisoned]; simp

theorem test_hyp_VectorMemory : (vmem2 .z32 .w32 1).VectorReady ∧ (vmem2 .z32 .w32 1).Canonical ∧ 8 * Ty.size .z32 = Ty.bits .z32 ∧
    (vmem2 .z32 .w32 1).srcCore.thr.ew.bits = 32 ∧ ((vmem2 .z32 .w32 1).rv 31).ty = .z32 ∧
    (∀ acc e, e < (vmem2 .z32 .w32 1).vl → (vmem2 .z32 .w32 1).PlainElem acc 0x1000 4 0x1000) ∧
    (24 : VReg).val + (7 : BitVec 3).toNat < 32 :=
  ⟨⟨rfl, rfl⟩, canonical_devOf _ ⟨rfl, rfl, rfl⟩ [] rfl, rfl, rfl, rfl, fun acc _ _ => plainElem_level2 acc rfl (by decide), by decide⟩

/-- The codes of 32 q4 elements at 0x1000 and their scale at 0. -/
theorem test_hyp_VectorMemory_q4 : (let s := vmem2 .q4 .w8 32
      s.vl % 32 = 0 ∧ s.vl ≤ 8192 ∧ (s.rv 31).ty = .q4 ∧
      (∀ acc i, 2 * i < s.vl → s.PlainElem acc (0x1000 + BitVec.ofNat 64 i) 1 (0x1000 + i)) ∧
      ∀ acc i, 32 * i < s.vl → s.PlainElem acc (0 + BitVec.ofNat 64 i) 1 (0 + i)) ∧
    (∀ i j, 2 * i < 32 → 32 * j < 32 → 0x1000 + i ≠ j) ∧
    (∀ x ∈ [(Space.ab, false), (.wb, true)], (∀ i, 2 * i < 32 →
        (vmem2 .q4 .w8 32).PlainLocal x.1 (0x1000 + BitVec.ofNat 64 i) 1 ⟨0, x.2, 0x1000 + i⟩) ∧
      ∀ i, 32 * i < 32 → (vmem2 .q4 .w8 32).PlainLocal x.1 (0 + BitVec.ofNat 64 i) 1 ⟨0, x.2, i⟩) := by
  refine ⟨⟨rfl, by decide, rfl, ?_, ?_⟩, by omega, ?_⟩
  · exact fun acc i h => plainByte .q4 .w8 32 acc 0x1000 i (by
      have : 2 * i < 32 := h
      rw [show (0x1000 : Word).toNat = 4096 from rfl]; omega)
  · exact fun acc i h => plainByte .q4 .w8 32 acc 0 i (by
      have : 32 * i < 32 := h
      rw [show (0 : Word).toNat = 0 from rfl]; omega)
  · intro x h
    fin_cases h <;> refine ⟨fun i hi => ?_, fun i hi => ?_⟩ <;> have hb : i < 16 := by omega
    all_goals
      interval_cases i <;>
      exact ⟨rfl, by decide, nofun, by decide +kernel, by decide +kernel, rfl, rfl, by decide⟩

/-- Two fields of one segment at 0x1000. -/
theorem test_hyp_VectorMemory_segment : (∀ f, f ≤ 1 →
      (∀ acc, (vmem2 .z32 .w32 1).PlainElem acc (0x1000 + BitVec.ofNat 64 (f * 4)) 4 (0x1000 + 4 * f)) ∧
      ∀ x ∈ [(Space.ab, false), (.wb, true)],
        (vmem2 .z32 .w32 1).PlainLocal x.1 (0x1000 + BitVec.ofNat 64 (f * 4)) 4 ⟨0, x.2, 0x1000 + 4 * f⟩) ∧
    (∀ e f, (vmem2 .z32 .w32 1).vl = 1 ∧ (e < 1 → (e * ((1 : BitVec 3).toNat + 1) + f) * Ty.size .z32 = f * 4)) := by
  refine ⟨fun f h => ?_, fun e f => ⟨rfl, fun h => ?_⟩⟩
  · interval_cases f <;> refine ⟨fun acc => plainElem_level2 acc rfl (by decide), fun x hx => ?_⟩ <;> fin_cases hx <;>
      exact ⟨rfl, by decide, nofun, by decide +kernel, by decide +kernel, rfl, rfl, by decide⟩
  · rw [show e = 0 by omega, show Ty.size .z32 = 4 from rfl]; omega

theorem test_hyp_VectorMemory_low : vmem0.VectorReady ∧ vmem0.core.pl = 0 ∧ vmem0.vl = 1 ∧
    (∀ acc ∈ [AccKind.vecRead, .vecStore, .rmw], vmem0.PlainElem acc 0x10FF8 8 0x40FF8) ∧
    ∀ x ∈ [(Space.ab, false), (.wb, true)], vmem0.PlainLocal x.1 0x7FFF8 8 ⟨0, x.2, 0x7FFF8⟩ := by
  refine ⟨⟨rfl, rfl⟩, rfl, rfl, ?_, ?_⟩
  · intro acc h
    refine ⟨some leaf0, plainAt_of (by decide) ?_ (by rintro l ⟨⟩; exact .inl rfl), rfl, fun _ => by decide⟩
    fin_cases h <;> rfl
  · intro x h
    fin_cases h <;> exact ⟨rfl, by decide, nofun, by decide +kernel, by decide +kernel, rfl, rfl, by decide⟩

/-! #### Waits and hampers -/

/-- A core of level 2 with watches. -/
def watching (ws : List Watch) : State := onCore (coreWith fun t => { t with watches := ws })

theorem noReg_zero : (onCore (coreX [(2, 1)])).dev.regRead false 2 0x1FFF000 8 = List.replicate 8 0 := by decide +kernel

theorem test_hyp_Waits_data : (onCore (coreX [(2, 1)])).Control ∧ (onCore (coreX [(2, 1)])).core.late = [] ∧
    (onCore (queued sload (coreAt 2))).core.late.any (fun e => !e.vec) = true ∧
    (∃ s1, (onCore (coreX [(2, 1)])).readBytes .ab .load 0 16 none = .ok (List.replicate 16 0) s1) ∧
    (∃ s1, (onCore (coreX [(2, 1)])).readBytes .ab .waitLoad 0 8 none = .ok (List.replicate 8 0) s1) ∧
    (∃ s1, (onCore (coreX [(2, 1)])).readBytes .glob .waitLoad 0x1000 8 none = .ok (List.replicate 8 0) s1 ∧
      lookup s1.dev s1.viewer s1.core.pl .waitLoad 0x1000 = .ok 0x1000 none ∧ isDevReg 0x1000 = false) ∧
    (∃ s1, (onCore (coreX [(2, 1)])).readBytes .glob .waitLoad 0x1FFF000 8 none = .ok (List.replicate 8 0) s1 ∧
      lookup s1.dev s1.viewer s1.core.pl .waitLoad 0x1FFF000 = .ok 0x1FFF000 none ∧ isDevReg 0x1FFF000 = true) ∧
    (onCore (coreX [(2, 1)])).core.wait = none ∧
    BitVec.ofNat 64 (bytesVal (List.replicate 8 0)) = (onCore (coreX [(2, 1)])).rx 0 ∧
    BitVec.ofNat 64 (bytesVal (List.replicate 8 0)) ≠ (onCore (coreX [(2, 1)])).rx 2 := by
  refine ⟨rfl, rfl, by decide, ⟨_, rfl⟩, ⟨_, rfl⟩, ⟨_, rfl, rfl, rfl⟩, ⟨onCore (coreX [(2, 1)]), ?_, rfl, rfl⟩, rfl, by decide, by decide⟩
  rw [← noReg_zero]; rfl

theorem test_hyp_Waits_watches : (watching []).thr.watches = [] ∧
    (let w : Watch := { no := 63, addr := 0x1000 }
     (watching [w]).thr.watches ≠ [] ∧ ∀ x ∈ (watching [w]).thr.watches, x.fired = false) ∧
    (let w : Watch := { no := 63, addr := 0x1000, fired := true }
     ∃ x ∈ (watching [w]).thr.watches, x.fired = true) := by decide

theorem watchesOf_devOf (c : Core) (h : c.thr.watches = []) (o : CoreNo) : (devOf c).watchesOf o = 0 := by
  have hf : ∀ (l : List CoreNo) (n : Nat), l.foldl (fun n o => n + ((devOf c).cores.get o).thr.watches.length) n = n := by
    intro l
    induction l with
    | nil => exact fun _ => rfl
    | cons a t ih =>
      intro n
      have hc : (devOf c).cores.get a = c := get_rep c a
      rw [List.foldl_cons, ih, hc, h]; rfl
  exact hf _ 0

theorem test_hyp_Waits_vwatch : (vmem2 .z32 .w32 1).thr.threadMode = false ∧ (vmem2 .z32 .w32 1).core.late = [] ∧
    (vmem2 .z32 .w32 1).srcCore.thr.ew.bits = 32 ∧ ((vmem2 .z32 .w32 1).rv 31).ty = .z32 ∧
    ((vmem2 .z32 .w32 1).active 0).take (min 64 (1024 - (vmem2 .z32 .w32 1).dev.watchesOf 0)) = [0] ∧
    (vmem2 .z32 .w32 1).PlainElem .watch 0x1000 8 0x1000 :=
  ⟨rfl, rfl, rfl, rfl, by rw [show (vmem2 .z32 .w32 1).dev.watchesOf 0 = 0 from watchesOf_devOf _ rfl 0]; decide, plainElem_level2 _ rfl (by decide)⟩

theorem test_hyp_Waits_gsync : (let s := exState duo 0 none
      s.dev.launchOn s.cur = some duo ∧ (duo.groups.find? fun e => e.num == (s.rx 1).toNat % 256) = duo.groups.head? ∧ s.core.wait = none ∧
      (s.rx 1).toNat % 256 ≠ 255 ∧ ∀ g ∈ duo.groups, g.members ≠ 0 ∧ g.members.getLsbD s.thr.tid.toNat = true) ∧
    (∀ w ∈ [Wait.waiting (.gsync 0 5 (some 1)), .waiting (.gsyncW 0x1000 5 (some 1))],
      (onCore { coreAt 2 with wait := some w }).core.wait = some w) ∧
    (onCore (coreX [(1, 0x1000)])).core.wait = none ∧ (onCore (coreX [(1, 0x1000)])).PlainAt .rmw 0x1000 16 0x1000 none ∧
    ((onCore (coreAt 2)).thr.lw.get 7).role ≠ 1 := by
  refine ⟨by decide, ?_, rfl, plainAt_level2 _ rfl (by decide), by decide⟩
  intro w h
  fin_cases h <;> rfl

/-- A consumer whose link watermark stands at the first byte of its range, at address 0. -/
def linked : State :=
  let l : LinkReg := { en := true, role := 2, start := 0x10000, len := 0x1000, mark := 0xFFB }
  { onCore { core0 with thr := { core0.thr with vl := 1, lw := Vector.replicate 8 l } } with ctx := { active := true } }

theorem test_hyp_Waits_queue : linked.VectorReady ∧ linked.core.pl = 0 ∧ linked.core.late = [] ∧ linked.ctx.active = true ∧ linked.ctx.src = none ∧
    linked.ctx.blocked = false ∧ linked.thr.ew.bits = Ty.bits .z32 ∧ linked.vl = 1 ∧ linked.rx 1 = 0x10FF8 ∧
    (linked.PlainAt .vecRead 0x10FF8 4 0x40FF8 (some leaf0) ∧ linked.filled 0x10FF8 (some leaf0) = linked) ∧
    linkStalls linked.thr 0x10FF8 4 = true ∧
    (let s := onCore (queued sload (coreAt 2))
     s.ctx.vp = none ∧ s.srcCore.late = [lateOf sload (coreAt 2)] ∧ (lateOf sload (coreAt 2)).pl = s.core.pl ∧ 1 ∈ laneX sload ∧
       1 ∈ (info (.add .z64 3 1 2)).rx) := by
  refine ⟨⟨rfl, rfl⟩, rfl, rfl, rfl, rfl, rfl, rfl, rfl, rfl, ⟨plainAt_of (by decide) rfl (by rintro l ⟨⟩; exact .inl rfl), ?_⟩, by decide,
    rfl, rfl, rfl, by decide, by decide⟩
  rfl

/-- A scalar load of the queue that has its bytes, and one over poison. -/
theorem test_hyp_Waits_drain : let s := onCore (queued sload (coreAt 2))
    s.core.late = [lateOf sload (coreAt 2)] ∧ ∃ t, exec sload (s.asLate (lateOf sload (coreAt 2)) .turn) = .next t ∧ t.ctx.active = true ∧
      t.ctx.blocked = false := ⟨rfl, _, rfl, rfl, rfl⟩

theorem test_hyp_Waits_aarm : (onCore (coreAt 2)).PlainLocal .ab 0x7FFF0 16 ⟨0, false, 0x7FFF0⟩ ∧ (onCore (coreAt 2)).Canonical :=
  ⟨⟨rfl, by decide, nofun, by decide +kernel, by decide +kernel, rfl, rfl, by decide⟩, canonical_devOf _ ⟨rfl, rfl, rfl⟩ [] rfl⟩

theorem test_hyp_Waits_arrival : ∀ n ∈ [1, 2], let m := memStore [] 0x1000 n 4
    let d : Device := { devOf (coreAt 2) with mem := m }
    let s : State := { onDev d with ctx := { active := true, stop := some { why := .wait (.gsyncW 0x1000 0 none), dev := d, rest := { words := [], idx := 0 } } } }
    s.ctx.words = [] ∧ s.ctx.vp = none ∧ s.Undisturbed ∧ (s.base.cores.get s.cur).wait = none ∧ s.base.Canonical ∧
      memLoad s.base.mem 0x1000 4 = n ∧ memLoad s.base.mem 0x1004 4 = 0 := by
  intro n h m d s
  have hm : m.wf = true := wf_memStore _ _ _ rfl
  refine ⟨rfl, rfl, .inr (.inr (.inl rfl)), rfl, (canonical_devOf (coreAt 2) ⟨rfl, rfl, rfl⟩ m hm).1, ?_, ?_⟩ <;> fin_cases h <;> decide

/-- Threads 0 and 1 of one launch with a group, the first at the arrival that its `gsync` is. -/
def meeting (g : Group) : State :=
  let d := devJobs [{ duo with groups := [g] }] { coreAt 0 with ie := false }
  { onDev d with ctx := { active := true, stop := some { why := .wait (.gsync 0 0 none), dev := d, rest := { words := [], idx := 0 } } } }

theorem test_hyp_Waits_group : (∀ x ∈ [(0, 3, 0), (1, 2, 0), (0, 2, 1)], let g : Group := { num := 0, members := 3, arrived := x.1, count := x.2.1, departed := x.2.2 }
      let s := meeting g
      let l : Launch := { duo with groups := [g] }
      s.ctx.words = [] ∧ s.ctx.vp = none ∧ s.Undisturbed ∧ (∃ d r, s.ctx.stop = some { why := .wait (.gsync g.num g.gen none), dev := d, rest := r }) ∧
        (s.base.cores.get s.cur).wait = none ∧ s.base.launchOn s.cur = some l ∧ s.base.launchNo l.arrival = some l ∧
        l.groups.filter (fun h => h.num == g.num) = [g] ∧ s.cur ∈ l.cores ∧
        (x = (0, 3, 0) ↔ g.arrived + 1 + g.departed < g.count) ∧ (x = (1, 2, 0) ↔ g.count ≤ g.arrived + 1)) ∧
    ∀ n ∈ [0, 1], let g : Group := { num := 0, members := 3, arrived := n, count := 2 }
      let s := onDev (devJobs [{ duo with groups := [g] }] (coreAt 0))
      s.Committing ∧ (s.base.cores.get s.cur).ie = false ∧ s.core.pl = 0 ∧ s.core.late = [] ∧ s.thr.threadMode = false ∧ s.core.ended = false ∧
        s.thr.tid.toNat = 0 ∧ g.members.getLsbD 0 = true ∧ g.arrived < g.count ∧ (n = 1 ↔ 1 ≤ g.arrived ∧ g.count ≤ g.arrived + g.departed + 1) := by
  refine ⟨fun x h => ?_, fun n h => ?_⟩
  · fin_cases h <;> refine ⟨rfl, rfl, .inr (.inr (.inl rfl)), ⟨_, _, rfl⟩, rfl, rfl, rfl, rfl, ?_, ?_, ?_⟩ <;> decide
  · fin_cases h <;> refine ⟨⟨rfl, rfl⟩, rfl, rfl, rfl, rfl, rfl, rfl, ?_, ?_, ?_⟩ <;> decide

theorem test_hyp_Waits_wmpub : (onCore (queued vload (coreAt 2))).core.late.any (fun e => !e.vec || e.touches.any fun t => t.write) = false ∧
    (onCore (queuedStore (coreAt 2))).core.late.any (fun e => !e.vec || e.touches.any fun t => t.write) = true := by decide

/-- The same consumer, over a line that is poisoned; and a load of its queue that reads it. -/
theorem test_hyp_Waits_poison : (let s : State := { linked with dev := { linked.dev with poison := [0x40FF8 / 64] } }
      s.VectorReady ∧ s.core.pl = 0 ∧ s.ctx.src = none ∧ s.thr.ew.bits = Ty.bits .z32 ∧ s.vl = 1 ∧
      (∀ k, s.thr.transfers.get k = none ∧ (s.base.cores.get s.cur).thr.transfers.get k = none) ∧
      poisoned 64 s.dev.poison 0x40FF8 4 = true ∧ s.PlacedAt .vecRead 0x10FF8 4 0x40FF8 (some leaf0) ∧ s.filled 0x10FF8 (some leaf0) = s ∧
      linkStalls s.thr 0x10FF8 4 = true) ∧
    let u : Touch := { spot := .glob ⟨0x1000, none⟩, addr := 0x1000, n := 4, read := true, write := false }
    let e : Late := { lateOf vload (coreAt 2) with touches := [u] }
    let s := onCore { coreAt 2 with late := [e] }
    e ∈ s.core.late ∧ u ∈ e.touches ∧ poisoned 64 [0x1000 / 64] 0x1000 u.n = true ∧ s.dev.strikesLate = false := by
  refine ⟨⟨⟨rfl, rfl⟩, rfl, rfl, rfl, rfl, fun k => ⟨get_rep (none : Option Transfer) k, get_rep (none : Option Transfer) k⟩, by decide,
    ⟨rfl, by decide, by decide, rfl, rfl, ?_, rfl, rfl⟩, rfl, by decide⟩, List.mem_cons_self .., List.mem_cons_self .., by decide,
    by decide +kernel⟩
  rintro l ⟨⟩; exact .inl rfl

/-- A hamper descriptor at 0x1000 of capacity 2, with its storage at 0x2000. -/
def hamperMem (count flags : Byte) : Memory :=
  memPut [] 0x1000 (valBytes 0x2000 8 ++ valBytes 2 4 ++ [count, 0, 0, 0] ++ valBytes 7 8 ++ [flags, 3])
def hamperState (m : Memory) : State := onDev { devOf (coreX [(1, 0x1000)]) with mem := m }

theorem hamper_plain (m : Memory) : (hamperState m).Plain 0x1000 64 := ⟨rfl, fun acc => plainAt_level2 acc rfl
  ⟨rfl, by decide, by decide, by decide, rfl, rfl, rfl, fun k => get_rep (none : Option Transfer) k⟩⟩

theorem test_hyp_Hampers : (hamperState []).Plain 0x1000 64 ∧ (hamperState []).ctx.stop = none ∧ (hamperState []).Canonical ∧
    (hamperState []).rx 1 = 0x1000 ∧ (hamperState []).dev.mayPair 0x1000 (hamperState []).core.part.pid = false ∧
    hInvalid (hamperState []).dev.mem 0x1000 = true ∧
    (∀ x ∈ [(0, 0), (1, 1), (2, 0), (2, 3)], (hamperState (hamperMem x.1 x.2)).Plain 0x1000 64 ∧ (hamperState (hamperMem x.1 x.2)).Canonical ∧
      hInvalid (hamperState (hamperMem x.1 x.2)).dev.mem 0x1000 = false ∧
      memLoad (hamperState (hamperMem x.1 x.2)).dev.mem 0x1008 4 = 2 ∧
      memLoad (hamperState (hamperMem x.1 x.2)).dev.mem 0x100C 4 = x.1.toNat ∧
      memLoad (hamperState (hamperMem x.1 x.2)).dev.mem 0x1018 1 = x.2.toNat ∧
      memLoad (hamperState (hamperMem x.1 x.2)).dev.mem 0x1000 8 = 0x2000) ∧
    (∀ i, i < 2 → isMem (0x2000 + 8 * i) = true ∧ 0x2000 + 8 * i < 2 ^ 56 ∧ poisoned 64 [] (0x2000 + 8 * i) 8 = false ∧
      0x1000 + 64 ≤ 0x2000 + 8 * i) := by
  refine ⟨hamper_plain _, rfl, canonical_devOf _ ⟨rfl, rfl, rfl⟩ [] rfl, rfl, by decide, by decide, ?_, by decide⟩
  intro x h
  refine ⟨hamper_plain _, canonical_devOf _ ⟨rfl, rfl, rfl⟩ _ (wf_memPut _ _ rfl), ?_⟩
  fin_cases h <;> decide

theorem test_hyp_Hampers_storage : ∀ i, i < 2 → ∀ pop,
    (hamperState (hamperMem 1 0)).dev.hStorage (hamperState (hamperMem 1 0)).hspace (0x2000 + 8 * i) pop = some (0x2000 + 8 * i) := by
  intro i h pop
  interval_cases i <;> cases pop <;> rfl

theorem test_hyp_Hampers_pair : (let s := onDev { devOf (coreX [(1, 0x1000)]) with
        pairTab := Vector.replicate 4 [{ addr := 0x1000, pid := 0, holders := [1] }] }
      s.dev.mayPair 0x1000 s.core.part.pid = true ∧ s.cur.val / 48 = 0x1000 / 4096 % 128 / 32) ∧
    (let q : State := { onCore (coreWith fun t => { t with vpLevel := 2 }) with ctx := { active := true, vp := some run0 } }
     q.ctx.vp = some run0 ∧ run0.hop = none ∧ q.thr.vpLevel = 2 ∧ (∀ k, q.thr.transfers.get k = none) ∧
       (vpDesc q run0 46).toNat % 64 = 0 ∧ isMem (vpDesc q run0 46).toNat = true ∧
       poisoned 64 q.dev.poison (vpDesc q run0 46).toNat 64 = false) := by decide

/-! #### The multiply engine and streams -/

/-- A thread at level 2 whose engine is set up with MN = DL = 1, one element of a type, and x registers as given. -/
def dmeCore (mode : DForm) (ty : Ty) (ew : Ew) (xs : List (XReg × Word)) : Core :=
  let c := coreX xs
  { c with
    thr := { c.thr with
      ew := ew, vl := 1, dmode := some mode, dl := 1, mn := 1, v := Vector.replicate 32 { ty := ty }
      latchA := { valid := true, ty := ty }, latchB := { valid := true, hold := true, ty := ty }, budget := Vector.replicate 128 0 } }
def dmeState (mode : DForm) (ty : Ty) (ew : Ew) (xs : List (XReg × Word)) : State := onCore (dmeCore mode ty ew xs)

theorem dme_mine (mode : DForm) (ty : Ty) (ew : Ew) (xs : List (XReg × Word)) (k : Nat)
    (h : ∀ k : Slot, ((dmeCore mode ty ew xs).am.get k).owner = none) : (dmeState mode ty ew xs).Mine k := .inl (h _)

theorem dme_free (mode : DForm) (ty : Ty) (ew : Ew) (k : Slot) : ((dmeCore mode ty ew []).am.get k).owner = none := by
  have h : (dmeCore mode ty ew []).am.get k = {} := get_rep _ k
  rw [h]

theorem test_hyp_DmeState : (dmeState .elem .f32 .w32 []).VectorReady ∧
    (∀ n ∈ [1, 2048], 1 ≤ ((onCore (coreX [(1, BitVec.ofNat 64 n)])).rx 1).toNat ∧
      ((onCore (coreX [(1, BitVec.ofNat 64 n)])).rx 1).toNat ≤ 65536 / (onCore (coreX [])).thr.ew.bits) ∧
    1 ≤ ((onCore (coreX [(1, 128)])).rx 1).toNat ∧ ((onCore (coreX [(1, 128)])).rx 1).toNat ≤ 128 ∧
    (dmeState .elem .f32 .w32 []).thr.latchA.reload = false ∧ (dmeState .elem .f32 .w32 []).thr.latchB.reload = false ∧
    (dmeState .elem .f32 .w32 []).thr.dmode ≠ none ∧ 1 ≤ ((dmeState .elem .f32 .w32 []).thr.dl + 127) / 128 ∧
    (511 : Slot).val + ((dmeState .elem .f32 .w32 []).thr.dl + 127) / 128 ≤ 512 ∧ (511 : Slot).val + (0 : BitVec 7).toNat + 1 ≤ 512 ∧
    (dmeState .elem .f32 .w32 []).Mine 511 ∧ ((onCore (coreX [(3, 512)])).rx 3).toNat = 512 ∧
    (dmeState .elem .f32 .w32 []).srcCore.thr.ew.bits = Ty.bits .f32 ∧
    (511 : Slot).val + ((dmeState .elem .f32 .w32 []).vl + 127) / 128 ≤ 512 ∧
    ((dmeState .elem .f32 .w32 []).rx 0).toNat < (dmeState .elem .f32 .w32 []).thr.mn.toNat ∧
    (dmeState .elem .f32 .w32 []).vl ≤ (dmeState .elem .f32 .w32 []).thr.mn.toNat ∧ ((dmeState .elem .f32 .w32 []).rv 31).ty = .f32 :=
  ⟨⟨rfl, rfl⟩, by decide, by decide, by decide, rfl, rfl, nofun, by decide, by decide, by decide,
    dme_mine _ _ _ _ _ (dme_free _ _ _), by decide, rfl, by decide, by decide, by decide, rfl⟩

theorem test_hyp_DmeState_latch : layOk 0 = true ∧ layTy 0 ≠ .q4 ∧ layPositions 0 = 1 ∧
    (onCore (coreAt 2)).PlainLocal .ab (chunkAddr 0x7FF80 0 0) 128 ⟨0, false, 0x7FF80⟩ ∧
    (onCore (coreAt 2)).PlainLocal .wb (chunkAddr 0xFFF80 0 0) 128 ⟨0, true, 0xFFF80⟩ ∧
    ((onCore (coreAt 2)).dev.cores.get 0).abPoison = [] ∧ ((onCore (coreAt 2)).dev.cores.get 0).wbPoison = [] ∧
    ∀ u, u < 8 → ((onCore (coreAt 2)).dev.cores.get 0).stamp false (swz (0x7FF80 + 16 * u) (laySpan 0).toNat) = laySpan 0 :=
  ⟨rfl, nofun, rfl, ⟨rfl, by decide, nofun, by decide, by decide, rfl, rfl, by decide⟩, ⟨rfl, by decide, nofun, by decide, by decide, rfl, rfl, by decide⟩,
    rfl, rfl, by decide +kernel⟩

theorem test_hyp_DmeState_tables : (let s := onCore { coreAt 2 with ab := memPut [] 0 (1 :: List.replicate 127 16) }
      s.PlainLocal .ab 0 128 ⟨0, false, 0⟩ ∧ ∀ i, i < 128 → 1 ≤ (memRead (s.dev.cores.get 0).ab (0 + i)).toNat ∧
        (memRead (s.dev.cores.get 0).ab (0 + i)).toNat ≤ 16) ∧
    (let s := onCore (coreX [(1, 0x7FF80), (2, 128), (3, 65408)])
     (s.rx 2).toNat % 128 = 0 ∧ 128 ≤ (s.rx 2).toNat ∧ (s.rx 3).toNat % 128 = 0 ∧ (s.rx 3).toNat + (s.rx 2).toNat ≤ 65536 ∧
       s.PlainLocal .ab 0x7FF80 128 ⟨0, false, 0x7FF80⟩) :=
  ⟨⟨⟨rfl, by decide, nofun, by decide, by decide, rfl, rfl, by decide⟩, by decide +kernel⟩, by decide, by decide, by decide, by decide,
    rfl, by decide, nofun, by decide, by decide, rfl, rfl, by decide⟩

theorem dme_ready (mode : DForm) (ty : Ty) (m : Mac) (hk : m.k ≤ 511) (hp : m.p = 0 ∧ m.q = 0)
    (hs : m.sparse = true → m.off % 8 = 0 ∧ ∀ e ∈ m.positions 1, metaOk (dmeState mode ty .w32 []).thr [] ty m.off e = true) :
    (dmeState mode ty .w32 []).MacReady m mode := by
  have hn : (dmeState mode ty .w32 []).thr.mn.toNat = 1 := rfl
  have hd : (dmeState mode ty .w32 []).thr.dl = 1 := rfl
  have he : (dmeState mode ty .w32 []).thr.ew.bits = 32 := rfl
  have hspan : m.span (dmeState mode ty .w32 []) = 1 := by unfold Mac.span; rw [hn, hd]; split <;> rfl
  refine ⟨⟨rfl, rfl⟩, rfl, hn ▸ Nat.le_refl 1, by rw [hn, hd], .inr (by rw [hd, he]; decide), ?_, .inr ⟨?_, ?_⟩, hs, ?_⟩
  · rw [hspan]; omega
  · rw [hp.1, hn]; decide
  · rw [hp.2, hn]; decide
  · exact fun k _ _ => dme_mine _ _ _ _ _ (dme_free _ _ _)

theorem test_hyp_DmeProducts_elem : (∀ tri : Bool, (dmeState .elem .f32 .w32 []).MacReady { k := 511, p := 0, q := 0, tri := tri } .elem) ∧
    (dmeState .elem .f32 .w32 []).srcCore.thr.ew.bits = Ty.bits .f32 ∧ ((dmeState .elem .f32 .w32 []).rv 31).ty = .f32 ∧
    ((dmeState .elem .f32 .w32 []).rv 31).span = 0 ∧ (dmeState .elem .f32 .w32 []).rx 0 = 0 :=
  ⟨fun tri => dme_ready .elem .f32 _ (by show (511 : Nat) ≤ 511; omega) ⟨rfl, rfl⟩ nofun, rfl, rfl, rfl, rfl⟩

theorem test_hyp_DmeProducts_pack : (∀ tri sp sweep : Bool, ∀ off ∈ [0, 8], (dmeState .pack .f16 .w32 []).MacReady
      { k := 511, p := 0, q := 0, off := off, sparse := sp, tri := tri, sweep := sweep } .pack) ∧
    (dmeState .pack .f16 .w32 []).thr.latchA.valid = true ∧ (dmeState .pack .f16 .w32 []).thr.latchB.valid = true ∧
    (dmeState .pack .f16 .w32 []).thr.latchA.reload = false ∧ (dmeState .pack .f16 .w32 []).thr.latchB.reload = false ∧
    (dmeState .pack .f16 .w32 []).thr.latchA.ty = .f16 ∧ (dmeState .pack .f16 .w32 []).thr.latchB.ty = .f16 ∧
    (dmeState .pack .f16 .w32 []).thr.latchA.hold = false ∧ (dmeState .pack .f16 .w32 []).thr.latchB.hold = true ∧
    (dmeState .pack .f16 .w32 []).core.dmeta = [] := by
  refine ⟨fun tri sp sweep off h => dme_ready .pack .f16 _ (by show (511 : Nat) ≤ 511; omega) ⟨rfl, rfl⟩ fun _ => ?_, rfl, rfl, rfl, rfl, rfl, rfl, rfl,
    rfl, rfl⟩
  fin_cases h <;> cases tri <;> cases sp <;> cases sweep <;> decide

/-- Stream 1 and stream 2 of a thread, its coordinate engine and x registers as given. -/
def streamCore (a b : Stream) (e : Cde) (xs : List (XReg × Word)) : Core :=
  let c := coreX xs
  { c with thr := { (c.thr.setStream 1 a).setStream 2 b with cde := e, vl := 1, v := Vector.replicate 32 { ty := .z32 } } }
def streamState (a b : Stream) (e : Cde) (xs : List (XReg × Word)) : State := onCore (streamCore a b e xs)

theorem test_hyp_Streams_open : (streamState {} {} {} [(1, 0x1000), (2, 0xFFFFFFFF)]).VectorReady ∧
    ((streamState {} {} {} [(1, 0x1000), (2, 0xFFFFFFFF)]).thr.stream 1).bnd = false ∧
    ((streamState {} {} {} [(1, 0x1000), (2, 0xFFFFFFFF)]).rx 2).toNat < 2 ^ 32 ∧
    (∀ ty ∈ [Ty.s8, .f32, .z64], ((streamState {} {} {} [(1, 0x1000), (2, 0xFFFFFFFF)]).rx 1).toNat % ty.size = 0) ∧
    ((streamState {} {} {} [(1, 0x1000), (2, 0xFFFFFFFF)]).rx 1).toNat % 4 = 0 := ⟨⟨rfl, rfl⟩, rfl, by decide, by decide, by decide⟩

/-- An affine stream of one 32-bit element. -/
def affine : Stream := { kind := 1, opa := 0x1000, opb := 1, opc := 4, ty := .z32 }

theorem test_hyp_Streams_next : (streamState affine {} {} []).VectorReady ∧ ((streamState affine {} {} []).thr.stream 1) = affine ∧
    (streamState affine {} {} []).srcCore.thr.ew.bits = affine.ty.bits ∧ 8 * affine.ty.size = affine.ty.bits ∧
    min (streamState affine {} {} []).vl (affine.count - affine.pos.toNat) = 1 ∧
    (streamState affine {} {} []).Reads .glob (affine.opa + BitVec.ofNat 64 (affine.pos.toNat + 0) * affine.opc) 4 0 :=
  ⟨⟨rfl, rfl⟩, rfl, rfl, rfl, rfl, .inl ⟨rfl, 0x1000, plainElem_level2 _ rfl (by decide), by decide⟩⟩

/-- A state whose stream 1 is as given, with an AB of given bytes. -/
def abState (ab : List Byte) (st : Stream) (xs : List (XReg × Word)) : State := onCore { streamCore st {} {} xs with ab := memPut [] 0 ab }

theorem ab_reads (ab : List Byte) (st : Stream) (xs : List (XReg × Word)) (x : Word) (a n v : Nat)
    (h : x = BitVec.ofNat 64 a ∧ a % n = 0 ∧ a < 0x80000) (hs : (abState ab st xs).core.late = [] ∧ (abState ab st xs).thr.transfers = Vector.replicate 16 none ∧ (abState ab st xs).core.abPoison = [])
    (hl : (abState ab st xs).dev.locate 0 .ab x n = some ⟨0, false, a⟩) (hv : memLoad (memPut [] 0 ab) a n = v) :
    (abState ab st xs).Reads .ab x n v := by
  refine .inr ⟨⟨0, false, a⟩, ⟨rfl, ?_, nofun, hl, ?_, hs.1, rfl, fun k => ?_⟩, hv.symm⟩
  · rw [h.1, BitVec.toNat_ofNat, Nat.mod_eq_of_lt (show a < 2 ^ 64 by omega)]; exact h.2.1
  · show poisoned 128 (abState ab st xs).core.abPoison a n = false
    rw [hs.2.2, poisoned]; simp
  · rw [hs.2.1, get_rep]

/-- An indirect stream of one element. -/
def indirect : Stream := { kind := 2, opa := 0, opb := 8, opc := 1, ty := .z32, spa := .ab, spb := .ab, iw16 := true }

theorem test_hyp_Streams_indirect : (abState [] indirect []).thr.stream 1 = indirect ∧ indirect.bnd = false ∧
    (abState [] indirect []).srcCore.thr.ew.bits = indirect.ty.bits ∧ min (abState [] indirect []).vl (indirect.count - indirect.pos.toNat) = 1 ∧
    (abState [] indirect []).Reads .ab (indirect.opb + BitVec.ofNat 64 (2 * (indirect.pos.toNat + 0))) 2 0 ∧
    (abState [] indirect []).Reads .ab (indirect.opa + BitVec.ofNat 64 (indirect.ty.size * 0)) indirect.ty.size 0 :=
  ⟨rfl, rfl, rfl, rfl, ab_reads [] _ _ _ 8 2 0 ⟨rfl, by decide⟩ ⟨rfl, rfl, rfl⟩ rfl rfl, ab_reads [] _ _ _ 0 4 0 ⟨rfl, by decide⟩ ⟨rfl, rfl, rfl⟩ rfl rfl⟩

/-- A fibre of one 16-bit coordinate at an address, bound or not. -/
def fibre (a : Word) (bnd : Bool) : Stream := { kind := 3, opa := a, opb := 1, bnd := bnd }
def joined : Cde := { bound := true, sa := 1, sb := 2 }

/-- A fibre of one coordinate 0 in the AB, where it stands, and past it. -/
def one (bnd : Bool) : Stream := { kind := 3, opb := 1, spa := .ab, bnd := bnd }
def zero : Next := ⟨0, 1, 0⟩

theorem test_hyp_Streams_peek : (∀ enc ∈ [FibEnc.idx16, .idx32, .bmp, .run], ({ one false with unit := 1, enc := enc } : Stream).opb.toNat ≤ 1) ∧
    (abState [] {} []).Reads .ab (BitVec.ofNat 64 (2 * 0)) 2 0 ∧ (abState [] {} []).Reads .ab (BitVec.ofNat 64 (4 * 0)) 4 0 ∧
    (abState [254] {} []).Reads .ab (BitVec.ofNat 64 0) 1 254 ∧ (abState [255, 1, 2, 3, 4] {} []).Reads .ab (BitVec.ofNat 64 0) 1 255 ∧
    (∀ i, i < 4 → (abState [255, 1, 2, 3, 4] {} []).Reads .ab (0 + BitVec.ofNat 64 0 + 1 + BitVec.ofNat 64 i) 1 (1 + i)) ∧
    (let ab : List Byte := [0, 0, 0, 0, 0, 0, 0, 128]
     (abState ab {} []).Reads .ab (BitVec.ofNat 64 (68 * 0)) 4 0 ∧
     (∀ i, i < 16 → (abState ab {} []).Reads .ab (BitVec.ofNat 64 (68 * 0) + BitVec.ofNat 64 (4 + 4 * i)) 4 (if i = 0 then 2 ^ 31 else 0)) ∧
     (2 ^ 31 / 2 ^ (31 % 32) % 2 = 1 ∧ ∀ i, i < 31 → 2 ^ 31 / 2 ^ (i % 32) % 2 ≠ 1)) ∧
    (∀ k, 32 ≤ k → (if k / 32 = 0 then 2 ^ 31 else 0) / 2 ^ (k % 32) % 2 ≠ 1) ∧
    (abState [0, 0, 0, 0, 1] {} []).Reads .ab (BitVec.ofNat 64 (8 * 0)) 4 0 ∧ (abState [0, 0, 0, 0, 1] {} []).Reads .ab (BitVec.ofNat 64 (8 * 0) + 4) 4 1 ∧
    (abState [] (one false) []).Peeks { one false with enc := .run, unit := 1 } none ∧
    (abState [] (one false) []).Peeks { one false with enc := .bmp, unit := 1 } none := by
  refine ⟨by decide, ab_reads _ _ _ _ 0 2 0 ⟨rfl, by decide⟩ ⟨rfl, rfl, rfl⟩ rfl rfl, ab_reads _ _ _ _ 0 4 0 ⟨rfl, by decide⟩ ⟨rfl, rfl, rfl⟩ rfl rfl,
    ab_reads _ _ _ _ 0 1 254 ⟨rfl, by decide⟩ ⟨rfl, rfl, rfl⟩ rfl rfl, ab_reads _ _ _ _ 0 1 255 ⟨rfl, by decide⟩ ⟨rfl, rfl, rfl⟩ rfl rfl, fun i h => ?_,
    ⟨ab_reads _ _ _ _ 0 4 0 ⟨rfl, by decide⟩ ⟨rfl, rfl, rfl⟩ rfl rfl, fun i h => ?_, by decide, by decide⟩, fun k h => by rw [if_neg (by omega)]; simp,
    ab_reads _ _ _ _ 0 4 0 ⟨rfl, by decide⟩ ⟨rfl, rfl, rfl⟩ rfl rfl, ab_reads _ _ _ _ 4 4 1 ⟨rfl, by decide⟩ ⟨rfl, rfl, rfl⟩ rfl rfl, fun e => rfl, fun e => rfl⟩
  · interval_cases i
    exacts [ab_reads _ _ _ _ 1 1 1 ⟨rfl, by decide⟩ ⟨rfl, rfl, rfl⟩ rfl rfl, ab_reads _ _ _ _ 2 1 2 ⟨rfl, by decide⟩ ⟨rfl, rfl, rfl⟩ rfl rfl, ab_reads _ _ _ _ 3 1 3 ⟨rfl, by decide⟩ ⟨rfl, rfl, rfl⟩ rfl rfl,
      ab_reads _ _ _ _ 4 1 4 ⟨rfl, by decide⟩ ⟨rfl, rfl, rfl⟩ rfl rfl]
  · refine ab_reads _ _ _ _ (4 + 4 * i) 4 _ ⟨?_, by omega, by omega⟩ ⟨rfl, rfl, rfl⟩ ?_ ?_
    · rw [show BitVec.ofNat 64 (68 * 0) = 0#64 from rfl, BitVec.zero_add]
    · interval_cases i <;> rfl
    · interval_cases i <;> rfl

/-- The fibre of one coordinate at rest in stream 1: a walk over it, to its end. -/
theorem test_hyp_Streams_walk : let s := abState [] (one false) [(1, 1)]
    let w (i : Nat) : Stream := if i = 0 then one false else (one false).consume zero
    s.VectorReady ∧ s.thr.stream 1 = one false ∧ (one false).rewind = one false ∧ s.Walk 1 w (fun _ => zero) ∧ s.vl = 1 ∧
      (one false).offending zero = none ∧ s.Peeks (one false) (some zero) ∧ s.Peeks (w 1) none ∧ s.srcCore.thr.ew.bits = 32 ∧
      (s.rx 1).toNat = 1 ∧ zero.c < ((1 : Nat) : Int) :=
  ⟨⟨rfl, rfl⟩, rfl, rfl, fun i h => by rw [Nat.lt_one_iff.mp h]; exact ⟨fun e => rfl, rfl⟩, rfl, rfl, fun e => rfl, fun e => rfl, rfl, by decide,
    by decide⟩

/-- One with a value array; and one whose next coordinate repeats its last. -/
theorem test_hyp_Streams_values : (let f : Stream := { one false with vb := true, spb := .ab, opc := 8, ty := .z32 }
      let s := abState [] f []
      s.thr.stream 1 = f ∧ s.srcCore.thr.ew.bits = max 32 f.ty.bits ∧ 8 * f.ty.size = f.ty.bits ∧ s.Peeks f (some zero) ∧
        s.Reads .ab (f.opc + BitVec.ofNat 64 (f.ty.size * f.pos.toNat)) f.ty.size 0) ∧
    (let f : Stream := { one false with lv := true }
     let s := abState [] f []
     s.thr.stream 1 = f ∧ s.srcCore.thr.ew.bits = 32 ∧ 0 < s.vl ∧ s.Peeks f (some zero) ∧ f.offending zero = some cDuplicate) ∧
    (let s := abState [] (one false) [(1, 1)]
     min (s.rx 1).toNat (one false).opb.toNat = 1 ∧ s.Reads .ab ((one false).opa + BitVec.ofNat 64 (2 * (1 - 1))) 2 0) ∧
    min ((abState [] (one false) []).rx 1).toNat (one false).opb.toNat = 0 :=
  ⟨⟨rfl, rfl, rfl, fun e => rfl, ab_reads _ _ _ _ 8 4 0 ⟨rfl, by decide⟩ ⟨rfl, rfl, rfl⟩ rfl rfl⟩, ⟨rfl, rfl, by decide, fun e => rfl, rfl⟩,
    ⟨by decide, ab_reads _ _ _ _ 0 2 0 ⟨rfl, by decide⟩ ⟨rfl, rfl, rfl⟩ rfl rfl⟩, by decide⟩

theorem test_hyp_Streams_engine : ((streamState (fibre 0x1000 false) (fibre 0x1002 false) {} []).thr.stream 1).kind = 3 ∧
    ((streamState (fibre 0x1000 false) (fibre 0x1002 false) {} []).thr.stream 2).kind = 3 ∧ (1 : SReg) ≠ 2 ∧
    (streamState (fibre 0x1000 false) (fibre 0x1002 false) {} []).thr.cde.bound = false ∧
    ∀ x ∈ [(0, 0), (1, 1)], let b : Stream := { one true with opa := BitVec.ofNat 64 (2 * x.1) }
      let s := onCore { streamCore (one true) b joined [(1, 0xFFFFFFFF)] with ab := memPut [] 2 [1] }
      let n : Next := ⟨x.2, 1, 0⟩
      s.VectorReady ∧ s.thr.cde = joined ∧ s.srcCore.thr.ew.bits = 32 ∧ s.thr.ew = .w32 ∧ 0 < s.vl ∧ (s.rx 1).toNat < 2 ^ 32 ∧
        s.thr.pair.a = one true ∧ s.thr.pair.b = b ∧ (one true).lv = false ∧ s.Peeks (one true) (some zero) ∧
        s.Peeks ((one true).consume zero) none ∧ s.Peeks b (some n) ∧ s.Peeks (b.consume n) none ∧ (zero.c = n.c ↔ x.1 = 0) := by
  refine ⟨rfl, rfl, by decide, rfl, fun x h => ?_⟩
  fin_cases h <;> exact ⟨⟨rfl, rfl⟩, rfl, rfl, rfl, by decide, by decide, rfl, rfl, rfl, fun e => rfl, fun e => rfl, fun e => rfl, fun e => rfl, by decide⟩

theorem test_hyp_Streams_claim : let d := memPut [] 0x2000 (valBytes 4 4 ++ valBytes 3 4 ++ valBytes 7 4 ++ valBytes 0 4)
    let s := onDev { devOf (streamCore (fibre 0x1000 true) (fibre 0x1002 true) { joined with t := 7 } [(1, 0x2000)]) with mem := d }
    s.thr.cde.bound = true ∧ s.thr.cde.t = 7 ∧ s.PlainAt .rmw 0x2000 16 0x2000 none ∧ s.Canonical ∧ memLoad s.dev.mem 0x2000 4 = 4 ∧
      memLoad s.dev.mem 0x2004 4 = 3 ∧ memLoad s.dev.mem 0x2008 4 = 7 ∧ memLoad s.dev.mem 0x200C 4 = 0 :=
  ⟨rfl, rfl, plainAt_level2 .rmw rfl (by decide), canonical_devOf _ ⟨rfl, rfl, rfl⟩ _ (wf_memPut _ _ rfl), by decide,
    by decide, by decide, by decide⟩

theorem test_hyp_Streams_image : (let s := streamState (fibre 0x1000 true) (fibre 0x1002 true) joined [(1, 0x2000)]
      (∀ acc, s.PlainElem acc 0x2000 64 0x2000 ∧ s.PlainElem acc (0x2000 + 64) 64 0x2040) ∧ s.Canonical ∧ s.thr.cde.bound = true) ∧
    (let d := memPut [] 0x2000 ((fibre 0x1000 true).image ++ (fibre 0x1002 true).image ++ joined.image)
     let s := onDev { devOf (streamCore {} {} {} [(1, 0x2000)]) with mem := d }
     (∀ acc, s.PlainElem acc 0x2000 64 0x2000 ∧ s.PlainElem acc (0x2000 + 64) 64 0x2040) ∧ s.Canonical ∧ engineImageOk (memBytes s.dev.mem 0x2000 128) = true ∧
       s.thr.cde.bound = false) :=
  ⟨⟨fun acc => ⟨plainElem_level2 acc rfl (by decide), plainElem_level2 acc rfl (by decide)⟩,
      canonical_devOf _ ⟨rfl, rfl, rfl⟩ [] rfl, rfl⟩,
    fun acc => ⟨plainElem_level2 acc rfl (by decide), plainElem_level2 acc rfl (by decide)⟩,
    canonical_devOf _ ⟨rfl, rfl, rfl⟩ _ (wf_memPut _ _ rfl), by decide +kernel, rfl⟩

/-! #### The copy engine, system instructions, context switches -/

/-- A core at level 2 whose channel 1 has given shadow registers and transfer. -/
def chanCore (regs : Vector Word 29) (f : Option Transfer) (xs : List (XReg × Word)) : Core :=
  let c := coreX xs
  { c with thr := { c.thr with shadow := Vector.replicate 16 regs, transfers := c.thr.transfers.set 1 f } }

/-- Registers of one byte from the AB to the WB, of `n` elements; and of one byte to global memory. -/
def abToWb (n : Word) : Vector Word 29 := ((shadowAtLaunch.set 0 (1#64 <<< 57)).set 1 (2#64 <<< 57)).set 2 n
def abToMem : Vector Word 29 := ((shadowAtLaunch.set 0 (1#64 <<< 57)).set 1 0x1000).set 2 1
/-- A transfer of such registers that stands as given. -/
def xfer (regs : Vector Word 29) (cursor : Nat) (unacked : List (Nat × Bool)) : Transfer :=
  { regs := regs, q := 1, nctl := 0, seed := 0, ctr := 0, srcH := [], dstH := [], total := totalOf regs, cursor := cursor
    unacked := unacked, pl := 2 }

theorem test_hyp_CopyEngine_registers : (onCore (coreX [(1, 0x1000000000000000)])).Control ∧ (2 : BitVec 5).toNat ≥ 2 ∧ (28 : BitVec 5).toNat ≤ 28 ∧
    (1 : BitVec 5).toNat < 2 ∧ ((onCore (coreX [(1, 0x01FFFFFFFFFFFFFF)])).rx 1).extractLsb' 57 7 = 0 ∧
    ((onCore (coreX [(1, 0x1000000000000000)])).rx 1).extractLsb' 57 7 ≠ 0 ∧
    ((onCore (coreX [(1, 0x1FFFFFFF)])).rx 1).extractLsb' 28 36 ≠ 0 ∧ ((onCore (coreX [(1, 0xF000000)])).rx 1).extractLsb' 0 24 = 0 ∧
    ((onCore (coreX [(1, 0xFFFFFFF)])).rx 1).extractLsb' 28 36 = 0 ∧ ((onCore (coreX [(1, 0xFFFFFFF)])).rx 1).extractLsb' 0 24 ≠ 0 ∧
    (onCore (coreX [])).thr.transfers.get 15 = none ∧ (onCore (coreX [])).PlainLocal .ab 0x7FFF0 16 ⟨0, false, 0x7FFF0⟩ ∧
    (onCore (coreX [])).Canonical :=
  ⟨rfl, by decide, by decide, by decide, by decide, by decide, by decide, by decide, by decide, by decide, rfl,
    ⟨rfl, by decide, nofun, by decide, by decide, rfl, rfl, by decide⟩, canonical_devOf _ ⟨rfl, rfl, rfl⟩ [] rfl⟩

theorem test_hyp_CopyEngine_launch :
    (let s := onCore (chanCore (shadowAtLaunch.set 26 0x10) none [])
     launchRefusal s.dev s.cur s.thr 1 = some 4) ∧
    (∀ n ∈ [0, 1], let s := onCore (chanCore (abToWb (BitVec.ofNat 64 n)) none [])
      launchRefusal s.dev s.cur s.thr 1 = none ∧ s.dev.duty.getLsbD 4 = false ∧ s.core.late = [] ∧ totalOf (s.thr.shadow.get 1) = n) ∧
    (let f := xfer (abToWb 2) 0 []
     ((onCore (chanCore (abToWb 2) (some f) [])).thr.transfers.get 1).isSome = true) := by decide +kernel

/-- Leaves of a page that is plain, and of one that is compressed with its metadata at 0x60000, in the TLB of a core of level 1. -/
def leafC : Leaf := { leaf0 with va := 0x20000, pa := 0x50000, kind := 1, vbase := 0x20000, d2 := 0x60000, w := false, x := false }
def exportCore : Core := { coreAt 1 with tlb := [{ asid := 0, leaf := leaf0 }, { asid := 0, leaf := leafC }] }

theorem test_hyp_Waits_below : let f := xfer (abToWb 2) 1 []
    let c := chanCore f.regs (some f) []
    let s := onCore { c with thr := { c.thr with wm := c.thr.wm.set 1 8 } }
    s.ctx.vp = none ∧ s.core.late = [] ∧ s.ctx.queued = none ∧ s.thr.transfers.get 1 = some f ∧ (∀ j, j ≠ 1 → s.thr.transfers.get j = none) ∧
      swzSpan f.regs = 0 ∧ (0 : Word).toNat % Ty.size .z64 = 0 ∧ s.dev.locate s.cur .wb 0 8 = some ⟨0, true, 0⟩ ∧
      s.dev.localPoisoned ⟨0, true, 0⟩ 8 = false ∧ 0 + Ty.size .z64 ≤ (s.thr.wm.get 1).toNat := by decide +kernel

theorem test_hyp_CopyEngine_export : (onCore (coreAt 2)).core.pl = 2 ∧ (onCore (coreAt 2)).dev.dstate ≠ 0 ∧
    isMem 0x1000 = true ∧ isDevReg 0x1000000 = true ∧ isRemote 0x80000000000000 = true ∧
    (let s := onCore exportCore
     s.core.pl = 1 ∧ s.dev.dstate ≠ 0 ∧ (∃ s1, s.translate (exportAcc s 0x10000) 0x10000 none = .ok ⟨0x40000, some leaf0⟩ s1) ∧ leaf0.kind ≠ 1 ∧
     ∃ s1 s2, s.translate .cpeSrc 0x20000 none = .ok ⟨0x50000, some leafC⟩ s1 ∧ leafC.kind = 1 ∧
       poisoned 64 s1.dev.poison 0x60000 16 = false ∧ s1.writeBytes .glob .vecStore 0x10000 (memBytes s1.dev.mem 0x60000 16) none = .ok () s2) :=
  ⟨rfl, by decide, by decide, by decide, by decide, rfl, by decide, ⟨_, rfl⟩, nofun, _, _, rfl, rfl, rfl, rfl⟩

theorem test_hyp_CopyEngine_element : ∀ n ∈ [1, 2], let f := xfer (abToWb (BitVec.ofNat 64 n)) 0 []
    let s := onCore (chanCore f.regs (some f) [])
    s.thr.transfers.get 1 = some f ∧ (∀ j, j ≠ 1 → s.thr.transfers.get j = none) ∧ f.waits = false ∧ f.failing = false ∧ s.core.late = [] ∧ f.paused = false ∧ f.spilled = [] ∧
      f.held = [] ∧ f.unacked = [] ∧ f.cursor < f.total ∧ xfCvt f.regs = false ∧ senOf f.regs = false ∧ denOf f.regs = false ∧
      syncOn f.regs = false ∧ swzSpan f.regs = 0 ∧ srcSpace f.regs ≠ .glob ∧ dstSpace f.regs ≠ .glob ∧
      s.dev.locate s.cur (srcSpace f.regs) (srcAt f.regs f.cursor) (esOf f.regs) = some ⟨0, false, 0⟩ ∧
      s.dev.locate s.cur (dstSpace f.regs) (dstAt f.regs f.cursor) (esOf f.regs) = some ⟨0, true, 0⟩ ∧
      s.dev.localPoisoned ⟨0, false, 0⟩ (esOf f.regs) = false ∧ f.cursor + 1 + (if n = 1 then 0 else 1) = f.total := by decide +kernel

theorem test_hyp_CopyEngine_ends : (let f : Transfer := { xfer abToMem 1 [] with served := true, spilled := [(0, ⟨0x1000, [7]⟩)] }
      let d := (onCore (chanCore f.regs (some f) [])).dev
      f.served = true ∧ f.waits = false ∧ f.failing = false ∧ d.duty.getLsbD 2 = false ∧ d.duty.getLsbD 4 = false ∧ f.held = [] ∧ f.unacked = [] ∧ f.total ≤ f.cursor ∧
      syncOn f.regs = false ∧ dstSpace f.regs = .glob ∧
      f.look d 0 .glob .cpeDst (dstAt f.regs 0) (edOf f.regs) = .ok (.glob ⟨0x1000, none⟩ 0x1000)) ∧
    (xfer abToMem 1 []).pending = [] ∧ (∀ b, (xfer abToMem 1 [(0, b)]).unacked = [(0, b)] ∧ (xfer abToMem 1 [(0, b)]).total ≤ (xfer abToMem 1 [(0, b)]).cursor ∧
      (xfer abToMem 1 [(0, b)]).failing = false) ∧
    plainMem 0xFDFFF8 8 = true ∧ plainMem 0x6FBFFFFFF8 8 = true ∧ ({ devOf (coreAt 2) with portUp := 1 } : Device).portUp ≠ 0 := by
  refine ⟨⟨rfl, rfl, rfl, rfl, rfl, rfl, rfl, by decide +kernel, by decide +kernel, by decide +kernel, ?_⟩, by decide +kernel, by decide +kernel, by decide,
    by decide, by decide⟩
  rfl

/-- Page tables that map 2 MiB at 0x200000 to itself, for all levels; a partition that may use slice memory. -/
def pageMem : Memory :=
  memStore (memStore (memStore (memStore [] 0x100000 0x110001 8) 0x110000 0x111001 8) 0x111000 0x112001 8) 0x112008 0x20001F 8
theorem pageMem_wf : pageMem.wf = true := wf_memStore _ _ _ (wf_memStore _ _ _ (wf_memStore _ _ _ (wf_memStore _ _ _ rfl)))
def part0 : PartInForce := { valid := true, qmask := 15, ranges := [(0, 0xFE0000)] }
/-- The entry of queue 0 in the queue table: 16 slots at 0x200000, records at 0x201000, enabled or not. -/
def qtab (en : Byte) (head tail : Nat) : List Byte :=
  valBytes 0x200000 8 ++ valBytes 0x201000 8 ++ valBytes 16 2 ++ [1, en] ++ List.replicate 12 0 ++ valBytes 0x100000 8 ++ valBytes head 4 ++
    valBytes tail 4
def qMem (en : Byte) (head tail : Nat) : Memory := memPut pageMem 0xFF0000 (qtab en head tail)
/-- A device with these, on cores as given. -/
def qDev (en : Byte) (head tail : Nat) (c : Core) : Device :=
  { devOf c with mem := qMem en head tail, parts := Vector.replicate 4 part0, dstate := 0 }

theorem test_hyp_System_tlb : (onCore (coreX [(1, 0xFFFF)])).Control ∧ 1 ≤ (onCore (coreX [(1, 0xFFFF)])).core.pl.toNat ∧
    ((onCore (coreX [(1, 0xFFFF)])).rx 1).extractLsb' 16 48 = 0 := ⟨rfl, by decide, by decide⟩

theorem test_hyp_System_slots : let s := onDev { devOf (coreX [(1, 0x1000)]) with mem := memStore (memStore [] 0x1200 1 4) 0x1204 1 1 }
    s.thr.threadMode = false ∧ s.Canonical ∧
      (∀ acc i, i < 65 → s.PlainElem acc (0x1000 + BitVec.ofNat 64 (8 * i)) 8 (0x1000 + 8 * i)) ∧ s.rx 1 = 0x1000 ∧
      (∀ i j, i < j → j < 65 → 0x1000 + 8 * i ≠ 0x1000 + 8 * j) ∧ (s.core.slot 511).owner = none ∧
      memLoad s.dev.mem (0x1000 + 8 * 64) 4 = 1 ∧ memLoad s.dev.mem (0x1000 + 8 * 64 + 4) 1 % 2 = 1 ∧
      memLoad s.dev.mem (0x1000 + 8 * 64 + 5) 3 = 0 := by
  refine ⟨rfl, canonical_devOf _ ⟨rfl, rfl, rfl⟩ _ (wf_memStore _ _ _ (wf_memStore _ _ _ rfl)), fun acc i hi => ?_, rfl, by omega,
    by decide +kernel, by decide, by decide, by decide⟩
  have hx : ((0x1000 : Word) + BitVec.ofNat 64 (8 * i)).toNat = 0x1000 + 8 * i := by
    rw [BitVec.toNat_add, BitVec.toNat_ofNat, show (0x1000 : Word).toNat = 4096 from rfl]; omega
  rw [← hx]
  refine plainElem_level2 acc rfl ⟨rfl, by rw [hx]; omega, by rw [hx]; omega, ?_, ?_, rfl, rfl, fun k => get_rep (none : Option Transfer) k⟩
  · have hb : 0x1000 + 8 * i < devRegBase := by unfold devRegBase; omega
    rw [hx, isMem, decide_eq_true hb, Bool.true_or]
  · show poisoned 64 [] _ 8 = false
    rw [poisoned]; simp

theorem test_hyp_System_states : (onCore { coreAt 1 with irq := { mailbox := true } }).core.irq.any = true ∧
    (onCore (coreAt 1)).core.irq.any = false ∧ (onCore (coreX [(1, 3)])).core.pl = 2 ∧ ((onCore (coreX [(1, 3)])).rx 1).toNat < 4 ∧
    (onCore (coreX [(1, 3)])).dev.anyResident = false ∧ ((onCore (coreX [(1, 0)])).rx 1 = 0 ∧ (onCore (coreX [(1, 0)])).dev.dstate ≠ 0) ∧
    (let d : Device := { devOf (coreX []) with mem := memStore (memStore [] 0xFE0000 1 1) 0xFE0001 15 1 }
     arrangementOk (((List.finRange 4).map d.mapEntry).filter (·.valid) |>.map PartInForce.qmask) = true) ∧
    ((onCore (coreX [(1, 0xFFFF)])).rx 1).extractLsb' 16 48 = 0 ∧ (onCore (coreX [])).dev.duty.getLsbD 3 = false ∧
    ((onCore (coreX [(1, 63)])).rx 1).toNat < 64 ∧
    (onCore (coreX [(1, 63)])).dev.dutyBusy 0 (((onCore (coreX [(1, 63)])).rx 1).setWidth 6 ^^^ (onCore (coreX [(1, 63)])).dev.duty) = false := by
  decide +kernel

theorem test_hyp_System_log : (let d := devOf (coreX [])
      (memLoad d.mem errLogBase 4 + 2 ^ 32 - memLoad d.mem (errLogBase + 4) 4) % 2 ^ 32 ≠ 32768) ∧
    (let d : Device := { devOf (coreX []) with mem := memStore [] errLogBase 32768 4 }
     (memLoad d.mem errLogBase 4 + 2 ^ 32 - memLoad d.mem (errLogBase + 4) 4) % 2 ^ 32 = 32768) := by decide +kernel

theorem test_hyp_System_qpost : (let s := onCore (coreX [(1, 0xFFFFFFFFFFFFFFC0), (2, 1023)])
      (s.rx 1).toNat % 64 = 0 ∧ (s.rx 2).toNat < 1024 ∧ (s.dev.queue 1023).en = false) ∧
    (let s := onDev { qDev 1 0 1 (coreX [(1, 64)]) with parts := Vector.replicate 4 {} }
     (s.dev.queue 0).en = true ∧ (s.dev.queue 0).ok = true ∧ s.dev.validPart (s.dev.queue 0) = false) ∧
    (∀ tail ∈ [1, 16], let s := onDev (qDev 1 0 tail (coreX [(1, 64)]))
      (s.dev.queue 0).en = true ∧ (s.dev.queue 0).ok = true ∧ s.dev.validPart (s.dev.queue 0) = true ∧
      (s.dev.queue 0).pid = s.core.part.pid.toNat ∧ (s.dev.queue 0).count = tail ∧ (s.dev.queue 0).size = 16) ∧
    (let d := qDev 1 0 1 (coreX [(1, 64)])
     (∀ i, i < 32 → d.qplace (d.queue 0) .vecStore ((d.queue 0).ring + 32 * ((d.queue 0).tail % (d.queue 0).size) + i) = some (0x200020 + i)) ∧
     queueTabBase + 64 ≤ 0x200020 + 0xFF0000) := by decide +kernel

theorem qDev_canonical (en : Byte) (head tail : Nat) (c : Core) (h : c.ab.wf = true ∧ c.wb.wf = true ∧ c.md.wf = true) :
    (onDev (qDev en head tail c)).Canonical := by
  have hm : (qMem en head tail).wf = true := wf_memPut _ _ pageMem_wf
  have hd := (canonical_devOf c h _ hm).1
  have hq : (qDev en head tail c).Canonical := ⟨hd.1, hd.2.1, hd.2.2.1, hd.2.2.2⟩
  refine ⟨hq, hq, fun x hx => ?_⟩
  have hn : (onDev (qDev en head tail c)).ctx.stop = none := rfl
  rw [hn] at hx
  cases hx

/-- The length of the image of a thread, section by section (Table 22.3). -/
def ctxLength (c : Core) : Nat :=
  let h := c.thr
  let latch (l : Latch) : Nat := if l.valid = true ∧ l.hold = true then (if l.ty = .q4 then 17408 else 16384) else 0
  8064 + ((h.v.toList.filter (·.dirty)).map fun v => (v.hwm + 63) / 64 * 64).sum + 256 * (h.v.toList.filter (·.sdirty)).length + 192 + 4096 +
    448 + 256 + latch h.latchA + latch h.latchB + (if h.xchg.isSome = true then 64 else 0) + 256 * h.vps.length + 0x80000 + 512 + 0x10000 +
    (520 * (c.am.toList.filter fun r => r.owner == some h.lnch).length + 63) / 64 * 64

/-- Row `i` of a context whose address in x1 lies at or above 2 MiB or 1 MiB. -/
theorem row_toNat (s : State) (x b : Word) (h : s.rx 1 = x) (hx : x = b) (i : Nat) (hb : b.toNat + 64 * i < 2 ^ 64) :
    (s.rx 1 + BitVec.ofNat 64 (64 * i)).toNat = b.toNat + 64 * i := by
  rw [h, hx, BitVec.toNat_add, BitVec.toNat_ofNat]; omega

/-- A core at level 2 with a transfer of level 0 in flight, and nothing else of a context but its registers. -/
def saveState : State := onCore (chanCore abToMem (some { xfer abToMem 0 [] with pl := 0 }) [(1, 0x100000), (2, 0x100000)])

theorem save_place (i : Nat) (h : 64 * i < 0x100000) : saveState.PlacedAt .vecStore (saveState.rx 1 + BitVec.ofNat 64 (64 * i)) 64
    (0x100000 + 64 * i) none ∧ saveState.filled (saveState.rx 1 + BitVec.ofNat 64 (64 * i)) none = saveState := by
  have ha : (saveState.rx 1 + BitVec.ofNat 64 (64 * i)).toNat = 0x100000 + 64 * i :=
    row_toNat _ _ 0x100000 rfl rfl i (by rw [show (0x100000 : Word).toNat = 0x100000 from rfl]; omega)
  have hm : isMem (0x100000 + 64 * i) = true := by
    have hb : 0x100000 + 64 * i < devRegBase := by unfold devRegBase; omega
    rw [isMem, decide_eq_true hb, Bool.true_or]
  refine ⟨⟨rfl, by rw [ha]; omega, by omega, ?_, hm, nofun, rfl, rfl⟩, ?_⟩
  · rw [lookup, if_pos (show saveState.core.pl = 2 from rfl), lookupPhys, ha, if_neg (isMem_lt hm), if_pos hm]
  · unfold State.filled
    split
    exacts [rfl, setCore_self _]

theorem test_hyp_ContextSwitch_save : saveState.Control ∧ saveState.core.pl = 2 ∧ (saveState.rx 1).toNat % 4096 = 0 ∧
    saveState.ctx.queued = none ∧ saveState.dev.isRetired saveState.cur = false ∧ saveState.core.late = [] ∧
    (∀ l, saveState.thr.aib.get l = none) ∧ saveState.core.dmeta = [] ∧ saveState.Canonical ∧
    (∀ k f, saveState.thr.transfers.get k = some f → f.owes = false ∧ f.pl.toNat < saveState.core.pl.toNat) ∧
    saveState.core.abPoison = [] ∧ ctxLength saveState.core + 256 ≤ (saveState.rx 2).toNat ∧ (saveState.rx 2).toNat = 0x100000 ∧
    (∀ i j, i < j → 0x100000 + 64 * i ≠ 0x100000 + 64 * j) :=
  ⟨rfl, rfl, by decide, rfl, by decide +kernel, rfl, fun l => get_rep (none : Option VpRun) l, rfl,
    canonical_devOf _ ⟨rfl, rfl, rfl⟩ [] rfl, by decide +kernel, rfl, by decide +kernel, by decide, fun i j h => by omega⟩

theorem test_hyp_ContextSwitch_waits : (let s := onCore (queued sload (coreX [(1, 0x100000)]))
      s.ctx.vp = none ∧ s.core.pl = 2 ∧ (s.rx 1).toNat % 4096 = 0 ∧ s.dev.isRetired s.cur = false ∧ s.core.late ≠ [] ∧ s.ctx.stop = none ∧
        (s.base.cores.get s.cur).wait = none ∧ ∀ k, s.thr.transfers.get k = none ∧ (s.base.cores.get s.cur).thr.transfers.get k = none) ∧
    (onDev { devOf (coreX [(1, 0x100000)]) with parts := Vector.replicate 4 { part0 with retired := 1 } }).dev.isRetired 0 = true := by
  decide +kernel

/-- The length and the bytes that are not zero of the image of a thread as a launch begins it, with EW 32. -/
def imgLen0 : Nat := 8064 + 4992 + 0x80000 + 512 + 0x10000
def imgMem : Memory :=
  memPut (memPut (memPut (memPut [] 0x100000 (valBytes 0xD4A0 4 ++ valBytes imgLen0 4)) (0x100000 + 648) [32]) (0x100000 + 656) (valBytes 2048 8))
    (0x100000 + 8064 + 4744) (List.replicate 128 16)
def imgState : State := onDev { devOf (coreX [(1, 0x100000)]) with mem := imgMem }

theorem memRead_gap (m : Memory) (a : Nat) (h : ∀ c ∈ m, a ≠ c.1) : memRead m a = 0 := by
  induction m with
  | nil => rfl
  | cons c t ih =>
    rw [memRead, if_neg (h c (List.mem_cons_self ..)), ih fun x hx => h x (List.mem_cons_of_mem _ hx)]
    split <;> rfl

theorem memBytes_gap (m : Memory) (a n : Nat) (h : ∀ c ∈ m, c.1 < a ∨ a + n ≤ c.1) : memBytes m a n = List.replicate n 0 := by
  induction n generalizing a with
  | zero => rfl
  | succ n ih =>
    rw [memBytes, memRead_gap m a (fun c hc => by have := h c hc; omega), ih (a + 1) (fun c hc => by have := h c hc; omega),
      List.replicate_succ]

theorem memBytes_app (m : Memory) (a n k : Nat) : memBytes m a (n + k) = memBytes m a n ++ memBytes m (a + n) k := by
  induction n generalizing a with
  | zero => rw [Nat.zero_add]; rfl
  | succ n ih => rw [Nat.succ_add, memBytes, memBytes, ih, List.cons_append, Nat.add_right_comm, Nat.add_assoc]

/-- The first two parts of the image. -/
def img0 : List Byte :=
  (valBytes 0xD4A0 4 ++ valBytes imgLen0 4) ++ (List.replicate 640 0 ++ ([32] ++ (List.replicate 7 0 ++ (valBytes 2048 8 ++ List.replicate 7400 0))))
def dme0 : List Byte := List.replicate 8 0 ++ (List.replicate 128 16 ++ List.replicate 120 0)
def rest0 : List Byte := List.replicate 192 0 ++ (List.replicate 4096 0 ++ (List.replicate 448 0 ++ dme0))

theorem test_img0_read : memBytes imgMem 0x100000 8064 = img0 := by
  rw [show 8064 = 8 + (640 + (1 + (7 + (8 + 7400)))) from rfl]
  simp only [memBytes_app]
  rw [memBytes_gap imgMem (0x100000 + 8) 640 (by decide +kernel), memBytes_gap imgMem (0x100000 + 8 + 640 + 1) 7 (by decide +kernel),
    memBytes_gap imgMem (0x100000 + 8 + 640 + 1 + 7 + 8) 7400 (by decide +kernel), show memBytes imgMem 0x100000 8 = valBytes 0xD4A0 4 ++ valBytes imgLen0 4 by decide +kernel,
    show memBytes imgMem (0x100000 + 8 + 640) 1 = [32] by decide +kernel,
    show memBytes imgMem (0x100000 + 8 + 640 + 1 + 7) 8 = valBytes 2048 8 by decide +kernel]
  rfl

theorem test_rest0_read : memBytes imgMem (0x100000 + 8064) 4992 = rest0 := by
  rw [show 4992 = 192 + (4096 + (448 + (8 + (128 + 120)))) from rfl]
  simp only [memBytes_app]
  rw [memBytes_gap imgMem (0x100000 + 8064) 192 (by decide +kernel), memBytes_gap imgMem (0x100000 + 8064 + 192) 4096 (by decide +kernel),
    memBytes_gap imgMem (0x100000 + 8064 + 192 + 4096) 448 (by decide +kernel),
    memBytes_gap imgMem (0x100000 + 8064 + 192 + 4096 + 448) 8 (by decide +kernel),
    memBytes_gap imgMem (0x100000 + 8064 + 192 + 4096 + 448 + 8 + 128) 120 (by decide +kernel),
    show memBytes imgMem (0x100000 + 8064 + 192 + 4096 + 448 + 8) 128 = List.replicate 128 16 by decide +kernel]
  rfl

theorem bytesVal_zeros (n : Nat) : bytesVal (List.replicate n 0) = 0 := by
  induction n with
  | zero => rfl
  | succ n ih => rw [List.replicate_succ, bytesVal, ih]; rfl

theorem fieldAt_zeros (n o k : Nat) : fieldAt (List.replicate n 0) o k = 0 := by
  rw [fieldAt, List.drop_replicate, List.take_replicate, bytesVal_zeros]

theorem zeroAt_zeros (n o k : Nat) : zeroAt (List.replicate n 0) o k = true := by
  rw [zeroAt, List.drop_replicate, List.take_replicate]; simp

theorem fieldAt_past (l : List Byte) (n o k : Nat) (h : l.length ≤ o) : fieldAt (l ++ List.replicate n 0) o k = 0 := by
  rw [fieldAt, List.drop_append, List.drop_eq_nil_of_le h, List.nil_append, ← fieldAt, fieldAt_zeros]

theorem zeroAt_past (l : List Byte) (n o k : Nat) (h : l.length ≤ o) : zeroAt (l ++ List.replicate n 0) o k = true := by
  rw [zeroAt, List.drop_append, List.drop_eq_nil_of_le h, List.nil_append, ← zeroAt, zeroAt_zeros]

def head0 : List Byte := valBytes 0xD4A0 4 ++ valBytes imgLen0 4 ++ List.replicate 640 0 ++ [32] ++ List.replicate 7 0 ++ valBytes 2048 8
theorem img0_head : img0 = head0 ++ List.replicate 7400 0 := by simp only [img0, head0, List.append_assoc]
theorem head0_length : head0.length = 664 := by decide +kernel

theorem img0_field (o k : Nat) (h : 664 ≤ o) : fieldAt img0 o k = 0 := by
  rw [img0_head, fieldAt_past]; rw [head0_length]; exact h
theorem img0_zero (o k : Nat) (h : 664 ≤ o) : zeroAt img0 o k = true := by
  rw [img0_head, zeroAt_past]; rw [head0_length]; exact h

theorem test_img0_fixed : fixedOk img0 = true := by
  have hc : (fieldAt img0 0 4 == 0xD4A0 && zeroAt img0 14 2 && decide (fieldAt img0 28 4 < 2 ^ 21) && zeroAt img0 36 28 && zeroAt img0 128 8 &&
    ctlOk img0) = true := by decide +kernel
  rw [fixedOk, hc, img0_zero 8032 32 (by decide), Bool.true_and, Bool.and_true, List.all_eq_true]
  intro i _
  rw [imgHwm, img0_field _ _ (by omega), img0_field _ _ (by omega)]
  rfl

/-- The sections of the second part. -/
def mid0 : ImgMid :=
  { vecs := [], sides := [], marks := List.replicate 192 0, chans := List.replicate 4096 0, xfers := [], strs := List.replicate 448 0, dme := dme0 }

theorem test_img0_sizes : imgVecOff img0 32 = 0 ∧ 256 * setBelow (imgSdirty img0) 32 = 0 ∧ 256 * setBelow (imgFlag img0) 16 = 0 ∧
    midSize img0 = 4992 ∧ carriedSize (imgFlag img0 18) (wordAt mid0.dme 144) = 0 ∧ carriedSize (imgFlag img0 19) (wordAt mid0.dme 176) = 0 ∧
    imgFlag img0 17 = false ∧ (imgCtl img0 4).toNat = 0 ∧ fieldAt img0 24 4 = 0 ∧ fieldAt img0 4 4 = imgLen0 ∧ fieldAt img0 64 64 = 0 := by
  have h24 : fieldAt img0 24 4 = 0 := by decide +kernel
  have h28 : fieldAt img0 28 4 = 0 := by decide +kernel
  have h32 : fieldAt img0 32 4 = 0 := by decide +kernel
  have hd : imgDirty img0 = fun i => decide (0 / 2 ^ i % 2 = 1) := funext fun i => by rw [imgDirty, h24]
  have hs : imgSdirty img0 = fun i => decide (0 / 2 ^ i % 2 = 1) := funext fun i => by rw [imgSdirty, h32]
  have hf : imgFlag img0 = fun i => decide (0 / 2 ^ i % 2 = 1) := funext fun i => by rw [imgFlag, h28]
  have hv : imgVecOff img0 32 = 0 := by simp [imgVecOff, hd]
  have h1 : setBelow (imgSdirty img0) 32 = 0 := by simp [setBelow, hs]
  have h2 : setBelow (imgFlag img0) 16 = 0 := by simp [setBelow, hf]
  refine ⟨hv, by rw [h1], by rw [h2], by rw [midSize, hv, h1, h2], ?_, ?_, ?_, ?_, h24, ?_, ?_⟩
  · rw [carriedSize, hf]; rfl
  · rw [carriedSize, hf]; rfl
  · rw [hf]; rfl
  all_goals decide +kernel

theorem test_mid0 : splitMid img0 rest0 = mid0 := by
  obtain ⟨h1, h2, h3, -⟩ := test_img0_sizes
  have ht : ∀ (l k : List Byte) (n : Nat), l.length = n → (l ++ k).take n = l := fun _ _ _ h => List.take_left' h
  have hd : ∀ (l k : List Byte) (n : Nat), l.length = n → (l ++ k).drop n = k := fun _ _ _ h => List.drop_left' h
  have e1 : rest0.drop 192 = List.replicate 4096 0 ++ (List.replicate 448 0 ++ dme0) := hd _ _ _ List.length_replicate
  have e2 : rest0.drop 4288 = List.replicate 448 0 ++ dme0 := by
    rw [show 4288 = 192 + 4096 from rfl, ← List.drop_drop, e1]; exact hd _ _ _ List.length_replicate
  have e3 : rest0.drop 4736 = dme0 := by
    rw [show 4736 = 4288 + 448 from rfl, ← List.drop_drop, e2]; exact hd _ _ _ List.length_replicate
  simp only [splitMid, h1, h2, h3, mid0, Nat.add_zero, List.drop_zero, List.take_zero, e1, e2, e3]
  rw [ht _ _ 4096 List.length_replicate, ht _ _ 448 List.length_replicate, rest0, ht _ _ 192 List.length_replicate,
    List.take_of_length_le (show dme0.length ≤ 256 by decide +kernel)]

theorem test_img0_mid : midOk img0 mid0 = true := by
  have hd : ∀ i, imgDirty img0 i = false := fun i => by rw [imgDirty, test_img0_sizes.2.2.2.2.2.2.2.2.1]; simp
  have hr : ∀ o, regsOk (regsAt (List.replicate 4096 0) o) = true := fun o => by
    have he : regsAt (List.replicate 4096 0) o = Vector.ofFn fun _ => (0 : Word) := by
      rw [regsAt]; congr 1; funext i; rw [wordAt, fieldAt_zeros]; rfl
    rw [he]; decide
  have hw : streamsOk (imgFlag img0 20) mid0.strs = true := by decide +kernel
  have hm : (zeroAt mid0.dme 4 4 && (upFrom 8 128).all (fun i => decide (1 ≤ fieldAt mid0.dme i 1 ∧ fieldAt mid0.dme i 1 ≤ 16))
    && latchRecordOk (imgFlag img0 18) (mid0.dme.drop 136) && latchRecordOk (imgFlag img0 19) (mid0.dme.drop 168) && zeroAt mid0.dme 200 56) = true := by
    decide +kernel
  simp only [Bool.and_eq_true] at hm
  simp only [midOk, Bool.and_eq_true, List.all_eq_true, hw, hm.1.1.1.1, hm.1.1.2, hm.1.2, hm.2, hd, and_true]
  refine ⟨⟨⟨fun i _ => rfl, fun k _ => ?_⟩, fun i hi => ?_⟩, fun i hi => ?_⟩
  · simp only [mid0, hr, fieldAt_zeros, zeroAt_zeros]; simp
  · cases hi
  · have := hm.1.1.1.2; rw [List.all_eq_true] at this; exact this i hi

theorem test_img0_end : endSize img0 mid0 = 0x80000 + 512 + 0x10000 ∧
    endOk (splitEnd img0 mid0 (memBytes imgMem (0x100000 + 13056) (0x80000 + 512 + 0x10000))) = true := by
  obtain ⟨-, -, -, -, h5, h6, h7, h8, -⟩ := test_img0_sizes
  refine ⟨by rw [endSize, h5, h6, h7, h8]; rfl, ?_⟩
  have hn : (if imgFlag img0 17 = true then 64 else 0) = 0 := by rw [h7]; rfl
  rw [memBytes_gap imgMem (0x100000 + 13056) _ (by decide +kernel), endOk]
  simp only [splitEnd, h5, h6, hn, h8, Nat.add_zero, Nat.mul_zero, List.drop_replicate, List.take_replicate, Nat.zero_min, List.replicate_zero,
    List.isEmpty_nil, Bool.true_or, Bool.true_and, List.length_nil, Nat.zero_div, upFrom, List.all_nil, List.all_eq_true]
  intro x hx
  rw [(List.mem_replicate.mp hx).2]
  rfl

theorem memBytes_map (m : Memory) (a n : Nat) : memBytes m a n = (List.range n).map fun i => memRead m (a + i) := by
  induction n generalizing a with
  | zero => rfl
  | succ n ih =>
    rw [memBytes, ih, List.range_succ_eq_map, List.map_cons, List.map_map]
    refine congrArg _ (List.map_congr_left fun i _ => ?_)
    exact congrArg (memRead m) (by show a + 1 + i = a + (i + 1); omega)

theorem img_bytes (o n : Nat) : ((List.range n).map fun i => memRead imgState.dev.mem (0x100000 + 64 * ((o + i) / 64) + (o + i) % 64)) =
    memBytes imgMem (0x100000 + o) n := by
  rw [memBytes_map, show imgState.dev.mem = imgMem by simp only [imgState, onDev]]
  exact List.map_congr_left fun i _ => congrArg _ (by omega)

theorem img_place (i : Nat) (h : 64 * i < 0x100000) : imgState.PlainAt .block (imgState.rx 1 + BitVec.ofNat 64 (64 * i)) 64
    (0x100000 + 64 * i) none ∧ imgState.filled (imgState.rx 1 + BitVec.ofNat 64 (64 * i)) none = imgState := by
  have ha : (imgState.rx 1 + BitVec.ofNat 64 (64 * i)).toNat = 0x100000 + 64 * i :=
    row_toNat _ _ 0x100000 rfl rfl i (by rw [show (0x100000 : Word).toNat = 0x100000 from rfl]; omega)
  have hm : isMem (0x100000 + 64 * i) = true := by
    have hb : 0x100000 + 64 * i < devRegBase := by unfold devRegBase; omega
    rw [isMem, decide_eq_true hb, Bool.true_or]
  refine ⟨?_, ?_⟩
  · rw [← ha]
    refine plainAt_level2 .block rfl ⟨rfl, by rw [ha]; omega, by rw [ha]; omega, by rw [ha]; exact hm, ?_, rfl, rfl,
      fun k => get_rep (none : Option Transfer) k⟩
    rw [show imgState.dev.poison = [] by simp only [imgState, onDev, devOf], poisoned]; simp
  · unfold State.filled
    split
    exacts [rfl, setCore_self _]

theorem test_hyp_ContextSwitch_load : imgState.Control ∧ imgState.core.pl = 2 ∧ (imgState.rx 1).toNat % 4096 = 0 ∧
    imgState.core.late = [] ∧ imgState.ctx.queued = none ∧ imgState.dev.isRetired imgState.cur = false ∧
    (let bytes (o n : Nat) : List Byte := (List.range n).map fun i => memRead imgState.dev.mem (0x100000 + 64 * ((o + i) / 64) + (o + i) % 64)
     let img := bytes 0 8064
     let m := splitMid img (bytes 8064 (midSize img))
     let n := 8064 + midSize img + endSize img m
     let e := splitEnd img m (bytes (8064 + midSize img) (endSize img m))
     (∀ i, 64 * i < n → 64 * i < 0x100000) ∧ fixedOk img = true ∧ midOk img m = true ∧
       fieldAt img 4 4 = n + slotAreaSize (fieldAt img 64 64) ∧ endOk e = true) ∧
    memLoad (onCore (coreX [(1, 0x100000)])).dev.mem 0x100000 4 ≠ 0xD4A0 := by
  obtain ⟨-, -, -, h4, -, -, -, -, -, h10, h11⟩ := test_img0_sizes
  refine ⟨rfl, rfl, by decide, rfl, rfl, by decide +kernel, ?_, by decide⟩
  simp only [img_bytes, Nat.add_zero, test_img0_read, h4, test_rest0_read, test_mid0, test_img0_end.1]
  refine ⟨fun i hi => by omega, test_img0_fixed, test_img0_mid, by rw [h10, h11]; decide +kernel, test_img0_end.2⟩

/-! #### Events of a core, of the home slices and of translation -/

/-- A core of level 0 that takes interrupts, with one pending of each kind; a VP 1 that has trapped. -/
def irqCore (f : Core → Core) : Core :=
  let c := coreWith fun t => { t with vps := [{}, { trap := some (2, 5) }] }
  f { c with ie := true, pl := 0, irq := { preempt := some 1, resume := some 2, spill := some 3, kill := true, mailbox := true } }

theorem test_hyp_CoreEvents_traps : (let c := (onCore (coreAt 0)).core
      c.mode = .run ∧ c.wait = none ∧ syncCause 2 = true) ∧
    (let s := onCore (irqCore id)
     s.core.ie = true ∧ s.core.wait = none ∧ s.core.mode = .run ∧ s.thr.vps[1]? = some { trap := some (2, 5) } ∧
      (∀ u, u < 1 → (s.thr.vps.getD u {}).trap = none) ∧ s.core.irq.preempt = some 1 ∧ s.core.irq.resume = some 2 ∧
      s.core.irq.spill = some 3 ∧ s.core.irq.mailbox = true ∧ s.core.irq.kill = true ∧ s.dev.duty.getLsbD 3 = false ∧ s.core.late = [] ∧
      s.dev.unready s.cur = false) ∧
    (let s := onCore (irqCore fun c => { c with mode := .free, ended := true })
     s.core.ie = true ∧ s.core.wait = none ∧ s.core.mode = .free ∧ s.core.ended = true) := by decide

theorem test_hyp_CoreEvents_kill : (onDev (devJobs [job] (irqCore id))).core.ended = false ∧
    (onDev (devJobs [job] (irqCore id))).dev.launchOn (onDev (devJobs [job] (irqCore id))).cur = some job := ⟨rfl, rfl⟩

/-- A core whose next operation has slip 1; lane 0 is `n` operations ahead of the others. -/
def slipCore (n : Nat) : Core :=
  { coreAt 2 with opSlips := List.replicate (n + 1) 1, laneDone := (Vector.replicate 64 0).set 0 n }

theorem test_hyp_CoreEvents_slip : (let c := slipCore 1
      c.opBase ≤ c.laneDone.get 0 ∧ c.opSlips[c.laneDone.get 0 - c.opBase]? = some 1 ∧ ∀ j, c.laneDone.get 0 ≤ c.laneDone.get j + 1) ∧
    (let c := slipCore 2
     c.opBase ≤ c.laneDone.get 0 ∧ c.opSlips[c.laneDone.get 0 - c.opBase]? = some 1 ∧ ∃ j, c.laneDone.get j + 1 < c.laneDone.get 0) := by decide

/-- A core in thread mode at level 2 whose VP 0 stands at 0x1000. -/
def aibCore : Core := coreWith fun t => { t with threadMode := true, vpLevel := 2, vps := [{ next := 0x1000, runnable := true }] }
def aibState : State := onDev { devOf aibCore with mem := memStore [] 0x1000 1 8 }

theorem test_hyp_CoreEvents_aib : aibState.dev.stopped = false ∧ aibState.core.mode = .run ∧ aibState.thr.threadMode = true ∧
    aibState.core.vpsStopped = false ∧ aibState.thr.aib.get 0 = none ∧ aibState.thr.nextVp 0 = some 0 ∧ aibState.thr.vpLevel = 2 ∧
    (let a := (aibState.thr.vps.getD 0 {}).next
     a.toNat % 8 = 0 ∧ isMem a.toNat = true ∧ poisoned 64 aibState.dev.poison a.toNat 8 = false ∧
      (1 : Word) = BitVec.ofNat 64 (memLoad aibState.dev.mem a.toNat 8) ∧ lastBit (1 : Word) = true) := by decide +kernel

/-- A core that waits for a dword; with the rest of its convoy held, and with nothing held. -/
def waitCore : Core := { coreAt 2 with pc := 0x1000, wait := some (.waiting (.polled 0x1FFF000 1 2)) }
def heldDev (h : Option Held) : Device :=
  { devOf waitCore with mem := memStore [] 0x1000 1 8, held := Vector.replicate 192 h }
def held0 : Held := { rest := { words := [1], idx := 0 }, before := waitCore, ahead := waitCore }

theorem test_hyp_CoreEvents_wait : (let s := onDev (heldDev (some held0))
      s.dev.stopped = false ∧ s.core.wait = some (.waiting (.polled 0x1FFF000 1 2)) ∧ s.dev.held.get s.cur = some held0 ∧ held0.rest.words ≠ []) ∧
    (let s := onDev (heldDev none)
     s.dev.stopped = false ∧ s.core.wait = some (.waiting (.polled 0x1FFF000 1 2)) ∧ s.dev.held.get s.cur = none ∧ s.core.split.get 2 = none ∧
      s.core.pl = 2 ∧ s.core.pc.toNat % 8 = 0 ∧ isMem s.core.pc.toNat = true ∧ poisoned 64 s.dev.poison s.core.pc.toNat 8 = false ∧
      lastBit (BitVec.ofNat 64 (memLoad s.dev.mem s.core.pc.toNat 8)) = true) :=
  ⟨⟨by decide, rfl, rfl, nofun⟩, by decide, rfl, rfl, rfl, rfl, by decide, by decide, by decide, by decide⟩

/-- A core of level 1 that translates by the tables of `pageMem`; a pending map that maps 0x400000 to itself, with one entry or none. -/
def pageCore : Core := { coreAt 1 with ptbr := 0x100000 }
def pageDev (n : Nat) : Device :=
  { devOf pageCore with parts := Vector.replicate 4 part0, dstate := 0
                        mem := memStore (memStore (memStore (memStore pageMem 0x103000 0x104000 8) 0x103008 n 4) 0x104000 0x400000 8) 0x104008 0x40001F 8 }
def leaf1 : Leaf := { va := 0x200000, lvl := 1, pa := 0x200000, w := true, x := true, u := true, g := false, kind := 0 }

/-- A supervisor whose context image lies in that page, which its TLB holds. -/
def saveState1 : State := onDev { pageDev 0 with cores := Vector.replicate 192 ({ pageCore with tlb := [{ asid := 0, leaf := leaf1 }] }.setX 1 0x200000) }

theorem test_hyp_ContextSwitch_page (acc : AccKind) (hacc : acc = .vecStore ∨ acc = .block) : saveState1.core.pl = 1 ∧
    (saveState1.rx 1).toNat % 4096 = 0 ∧ ∀ i, 64 * i < 0x100000 →
      saveState1.PlainAt acc (saveState1.rx 1 + BitVec.ofNat 64 (64 * i)) 64 (0x200000 + 64 * i) (some leaf1) ∧
      saveState1.filled (saveState1.rx 1 + BitVec.ofNat 64 (64 * i)) (some leaf1) = saveState1 := by
  refine ⟨rfl, by decide, fun i h => ?_⟩
  have ha : (saveState1.rx 1 + BitVec.ofNat 64 (64 * i)).toNat = 0x200000 + 64 * i :=
    row_toNat _ _ 0x200000 rfl rfl i (by rw [show (0x200000 : Word).toNat = 0x200000 from rfl]; omega)
  have hm : isMem (0x200000 + 64 * i) = true := by
    have hb : 0x200000 + 64 * i < devRegBase := by unfold devRegBase; omega
    rw [isMem, decide_eq_true hb, Bool.true_or]
  have ht : ∀ c : Core, tlbMatch c (0x200000 + 64 * i) { asid := c.asid, leaf := leaf1 } = true := fun c => by
    rw [tlbMatch, beq_self_eq_true, Bool.or_true, Bool.and_true, decide_eq_true]
    show (0x200000 + 64 * i) / 2 ^ 21 * 2 ^ 21 = 0x200000; omega
  have hf : saveState1.viewer.tlb.find? (tlbMatch saveState1.viewer (0x200000 + 64 * i)) = some { asid := 0, leaf := leaf1 } := by
    show [({ asid := 0, leaf := leaf1 } : TlbEntry)].find? _ = _
    exact List.find?_cons_of_pos (ht saveState1.viewer)
  have hk : accessFault 1 acc leaf1 = none := by rcases hacc with h | h <;> subst h <;> rfl
  have hp : leafPa leaf1 (0x200000 + 64 * i) = 0x200000 + 64 * i := by
    show 0x200000 + (0x200000 + 64 * i) % 2 ^ 21 = _; omega
  refine ⟨⟨rfl, by rw [ha]; omega, by omega, ?_, hm, by rintro l ⟨⟩; exact .inl rfl, ?_, rfl, rfl, fun k => get_rep (none : Option Transfer) k⟩, ?_⟩
  · rw [lookup, if_neg (show ¬ saveState1.core.pl = 2 by decide), ha, lookupVirt, hf, show saveState1.core.pl = 1 from rfl]
    simp only [hk, hp]
  · rw [show saveState1.dev.poison = [] from rfl, poisoned]; simp
  · have hc : saveState1.core.fill (0x200000 + 64 * i) (some leaf1) = saveState1.core := by
      rw [Core.fill, show saveState1.core.tlb = saveState1.viewer.tlb from rfl,
        show tlbMatch saveState1.core = tlbMatch saveState1.viewer from rfl, hf]; rfl
    unfold State.filled
    rw [ha, hc]; split
    exacts [rfl, setCore_self _]

/-- A hamper descriptor with its storage in that page, at levels 0 and 1. -/
def pageHamper (pl : BitVec 2) : State :=
  let m := memPut pageMem 0x2F0000 (valBytes 0x2F0100 8 ++ valBytes 2 4 ++ [1, 0, 0, 0] ++ valBytes 7 8 ++ [0, 3])
  onDev { devOf ({ pageCore with pl := pl }.setX 1 0x2F0000) with parts := Vector.replicate 4 part0, mem := m }

theorem test_hyp_Hampers_page : ∀ pl ∈ [0#2, 1#2], (pageHamper pl).PlainAt .rmw 0x2F0000 64 0x2F0000 (some leaf1) ∧
    (pageHamper pl).rx 1 = 0x2F0000 ∧ hInvalid (pageHamper pl).dev.mem 0x2F0000 = false ∧
    memLoad (pageHamper pl).dev.mem 0x2F0000 8 = 0x2F0100 ∧
    ∀ i, i < 2 → ∀ pop, (pageHamper pl).dev.hStorage (pageHamper pl).hspace (0x2F0100 + 8 * i) pop = some (0x2F0100 + 8 * i) := by
  intro pl h
  fin_cases h <;>
    refine ⟨plainAt_of (by decide) rfl (by rintro l ⟨⟩; exact .inl rfl), by decide, by decide, by decide, fun i hi pop => ?_⟩ <;>
    interval_cases i <;> cases pop <;> rfl

theorem pageDev_canonical (n : Nat) : (onDev (pageDev n)).Canonical :=
  have hm := wf_memStore _ _ _ (wf_memStore _ _ _ (wf_memStore _ _ _ (wf_memStore _ _ _ pageMem_wf)))
  have hd := (canonical_devOf pageCore ⟨rfl, rfl, rfl⟩ _ hm).1
  have hq : (pageDev n).Canonical := ⟨hd.1, hd.2.1, hd.2.2.1, hd.2.2.2⟩
  ⟨hq, hq, fun x hx => by cases (show none = some x from hx)⟩

theorem test_hyp_SliceEvents_walk : let s := onDev (pageDev 0)
    s.core.pl ≠ 2 ∧ lookupVirt s.dev s.core s.core.pl .load 0x2F0000 = .ok 0x2F0000 (some leaf1) :=
  ⟨nofun, rfl⟩

theorem test_hyp_SliceEvents_server : (let s := onDev (pageDev 1)
      s.core.pl ≠ 2 ∧ hwXlt s.dev = true ∧ s.core.discardable = true ∧ lookupVirt s.dev s.core s.core.pl .load 0x400000 = .fault kNomap 1 0x112010 ∧
      ∃ e, s.dev.serve s.core 0x400000 1 0x112010 = some e) ∧
    (let s := onDev (pageDev 0)
     s.core.pl ≠ 2 ∧ hwXlt s.dev = true ∧ s.core.discardable = true ∧ s.core.wait = none ∧
      lookupVirt s.dev s.core s.core.pl .load 0x400000 = .fault kNomap 1 0x112010 ∧ s.dev.serve s.core 0x400000 1 0x112010 = none) := by
  refine ⟨⟨nofun, rfl, rfl, rfl, Option.isSome_iff_exists.mp ?_⟩, nofun, rfl, rfl, rfl, rfl, Option.isNone_iff_eq_none.mp ?_⟩
  all_goals decide +kernel

theorem test_hyp_SliceEvents_queues : (onCore { coreAt 2 with dmeta := [{ src := [1], off := 0 }] }).core.dmeta = { src := [1], off := 0 } :: [] ∧
    isMem 0 = true ∧ isMem 0x6FFFFFFFFF = true := by decide

/-- Cores that wait for the value of a hamper operation; operations of cores 0 and 1 on one descriptor, in a stage. -/
def hopCore (tag : Nat) : Core := { coreAt 2 with wait := some (.value tag 3 none) }
def hop0 (stage : Nat) : Hop :=
  { tag := 0, core := 0, lane := none, pid := 0, asid := 0, root := 0, pl := 2, desc := 0x1000, push := some 7, stage := stage, seq := 0, input := 0 }
def hop1 (stage : Nat) : Hop := { hop0 stage with tag := 1, core := 1, push := none, seq := 1 }
def hopDev (l : List Hop) (bad : List Nat) : Device :=
  { cores := (Vector.replicate 192 (hopCore 0)).set 1 (hopCore 1), hops := l, poison := bad }

theorem test_hyp_SliceEvents_hops : (let h : Hop := { hop0 2 with firm := true }
      (hopDev [h] [64]).hopNo 0 = some h ∧ 2 ≤ h.stage ∧ h.firm = true ∧ poisoned 64 (hopDev [h] [64]).poison h.desc 64 = true) ∧ (hop0 2).firm = false ∧
    (∀ bad ∈ [[], [64]], let d := hopDev [hop0 2] bad
      d.hopNo 0 = some (hop0 2) ∧ (hop0 2).lane = none ∧ (∀ k, (d.cores.get 0).thr.transfers.get k = none) ∧ (d.cores.get 0).late = [] ∧
      (d.cores.get 0).wait = some (.value 0 3 none)) ∧
    poisoned 64 (hopDev [hop0 2] []).poison 0x1000 64 = false ∧ poisoned 64 (hopDev [hop0 2] [64]).poison 0x1000 64 = true ∧
    (∀ n ∈ [0, 1], let d := hopDev [hop0 n] []
      d.hopNo 0 = some (hop0 n) ∧ (hop0 n).stage < 2 ∧ firstPair (d.heldWith (hop0 n)) = none) ∧
    (let d := hopDev [hop0 1, hop1 1] []
     d.hopNo 0 = some (hop0 1) ∧ firstPair (d.heldWith (hop0 1)) = some (hop0 1, hop1 1) ∧ (hop0 1).push = some 7 ∧ (hop1 1).push = none ∧
      (hop0 1).core ≠ (hop1 1).core ∧ (d.cores.get 0).wait = some (.value 0 3 none) ∧ (d.cores.get 1).wait = some (.value 1 3 none)) := by
  decide +kernel

/-- The same of a VP 0 that sent it from lane 0. -/
theorem test_hyp_SliceEvents_hopVp : let o : VpHop := { tag := some 0, va := 0x1000, desc := 0x1000, push := some 7, d := 1, pre := 0, st := {}, puts := [], rest := { words := [], idx := 0 } }
    let x : VpRun := { run0 with hop := some o }
    let c := coreWith fun t => { t with vps := [{}], aib := t.aib.set 0 (some x) }
    let d : Device := { devOf c with hops := [{ hop0 2 with lane := some 0 }], poison := [64] }
    d.hopNo 0 = some { hop0 2 with lane := some 0 } ∧ (d.cores.get 0).thr.aib.get 0 = some x ∧ x.hop = some o ∧ o.tag = some 0 ∧
      poisoned 64 d.poison 0x1000 64 = true ∧ x.vp < (d.cores.get 0).thr.vps.length ∧
      (∀ k, (d.cores.get 0).thr.transfers.get k = none) ∧ (d.cores.get 0).late = [] := by
  refine ⟨rfl, rfl, rfl, rfl, by decide, by decide, fun k => get_rep (none : Option Transfer) k, rfl⟩

theorem get_set_rep {α : Type} {n : Nat} (a b : α) (k i : Fin n) :
    ((Vector.replicate n a).set k.val b k.isLt).get i = if i = k then b else a := by
  rw [show ((Vector.replicate n a).set k.val b k.isLt).get i = ((Vector.replicate n a).set k.val b k.isLt)[i.val] from rfl, Vector.getElem_set]
  by_cases h : i = k
  · subst h; simp
  · rw [if_neg h, if_neg (fun e => h (Fin.ext e.symm))]; simp

theorem canonical_hopDev (l : List Hop) (bad : List Nat) : (onDev (hopDev l bad)).Canonical := by
  have hk : ∀ i : CoreNo, ((hopDev l bad).cores.get i).ab.wf = true ∧ ((hopDev l bad).cores.get i).wb.wf = true ∧
      ((hopDev l bad).cores.get i).md.wf = true := fun i => by
    have hc : (hopDev l bad).cores.get i = if i = 1 then hopCore 1 else hopCore 0 := get_set_rep _ _ 1 i
    rw [hc]; split <;> exact ⟨rfl, rfl, rfl⟩
  have hd : (hopDev l bad).Canonical := ⟨rfl, rfl, rfl, hk⟩
  exact ⟨hd, hd, fun x hx => by cases (show none = some x from hx)⟩

/-! #### Queues and launches -/

theorem ok_of {ε α : Type} {x : Except ε α} (h : x.isOk = true) : ∃ a, x = .ok a := by
  cases x with
  | ok a => exact ⟨a, rfl⟩
  | error e => cases h

theorem err_of {α : Type} {x : Except Nat α} {n : Nat} (h : (match x with | .error e => e == n | .ok _ => false) = true) : x = .error n := by
  cases x with
  | ok a => cases h
  | error e => rw [eq_of_beq h]

/-- A slot of a descriptor or a graph, with a generation byte. -/
def slotOf (w : Nat) (g : Byte) : List Byte := valBytes w 8 ++ List.replicate 15 0 ++ [g] ++ List.replicate 8 0
/-- Queue 0 with one such slot; a launch descriptor at 0x202000, zeros at 0x203000, and a graph of the descriptor at 0x204000. -/
def slotMem (w : Nat) (g : Byte) : Memory :=
  memPut (memPut (memPut (memPut (qMem 1 0 1) 0x200000 (slotOf w g)) 0x202000 (valBytes 0x1000 8 ++ valBytes 0x205000 8 ++ valBytes 1 2))
    0x204000 (valBytes 1 2 ++ [0, 1] ++ valBytes 64 4 ++ valBytes 0x205000 8 ++ valBytes 0x206000 8)) 0x204040 (valBytes 0x202000 8)
def slotDev (w : Nat) (g : Byte) : Device := { qDev 1 0 1 (coreAt 1) with mem := slotMem w g }

theorem slotDev_canonical (w : Nat) (g : Byte) : (onDev (slotDev w g)).Canonical := by
  have hm : (slotMem w g).wf = true := wf_memPut _ _ (wf_memPut _ _ (wf_memPut _ _ (wf_memPut _ _ (wf_memPut _ _ pageMem_wf))))
  have hd := (canonical_devOf (coreAt 1) ⟨rfl, rfl, rfl⟩ _ hm).1
  have hq : (slotDev w g).Canonical := ⟨hd.1, hd.2.1, hd.2.2.1, hd.2.2.2⟩
  exact ⟨hq, hq, fun x hx => by cases (show none = some x from hx)⟩

theorem test_hyp_SlotsTaken_none : (devOf (coreAt 1)).usable ((devOf (coreAt 1)).queue 0) = false ∧ ((qDev 1 0 0 (coreAt 1)).queue 0).count = 0 := by
  decide +kernel

theorem test_hyp_SlotsTaken_slot : ∀ g ∈ [1, 2], let d := slotDev 0x202000 g
    let e := d.queue 0
    d.usable e = true ∧ e.count ≠ 0 ∧ d.qread e (e.ring + 32 * (e.head % e.size)) 32 = some (slotOf 0x202000 g) ∧
      ((slotOf 0x202000 g).getD 23 0 = e.gen (BitVec.ofNat 32 e.head) ↔ g = 1) ∧ d.duty.getLsbD 0 = false := by decide +kernel

theorem test_hyp_SlotsTaken_launch : (∀ w ∈ [0x202000, 0x203000], w % 64 = 0 ∧ fieldAt (slotOf w 1) 8 8 = 0 ∧ zeroAt (slotOf w 1) 16 7 = true) ∧
    (let d := slotDev 0x202000 1
     (∃ l, (d.setHead 0 1).readLaunch 0 0 (d.queue 0) 0x202000 none = .ok l) ∧
      ∀ i, i < 32 → d.qplace (d.queue 0) .vecStore (0x201000 + i) = some (0x201000 + i)) ∧
    (slotDev 0x203000 1).readLaunch 0 0 ((slotDev 0x203000 1).queue 0) 0x203000 none = .error 3 ∧
    (0x204001 % 64 = 1 ∧ zeroAt (slotOf 0x204001 1) 16 7 = true ∧
      ∃ r, (slotDev 0x204001 1).readGraph 0 0 ((slotDev 0x204001 1).queue 0) 0x204000 0 = .ok r) := by
  refine ⟨by decide, ⟨ok_of ?_, ?_⟩, err_of ?_, by decide, by decide, ok_of ?_⟩
  all_goals decide +kernel

/-- The job of `devJobs` changed. -/
def jobDev (f : Launch → Launch) (c : Core) : Device := { slotDev 0 0 with cores := Vector.replicate 192 c, launches := [f job] }
/-- The entry of queue 0, whose completion record for position 0 lies at 0x201000. -/
def ent1 : QEntry := (qDev 1 0 1 (coreAt 1)).queue 0

theorem test_hyp_LaunchEvents_starve : ∀ st ∈ [LaunchSt.ready, .preempted],
    let l : Launch := { job with st := st, ent := { job.ent with cls := 3 } }
    let d : Device := { jobDev (fun _ => l) (coreAt 1) with time := 3000 }
    d.launchNo 1 = some l ∧ l.ent.cls = 3 ∧ l.st = st ∧ l.starving = none ∧ l.readyAt + 3000 ≤ d.time := by decide +kernel

theorem test_hyp_LaunchEvents_saved : let l : Launch := { job with st := .preempting, images := [(0, 0x100000)] }
    let d := jobDev (fun _ => l) (coreAt 1)
    d.launchNo 1 = some l ∧ l.st = .preempting ∧ l.images ≠ [] ∧ ∀ c ∈ l.cores, (d.cores.get c).launch ≠ some l.id := by decide +kernel

theorem test_hyp_LaunchEvents_ends : (let l : Launch := { job with ent := ent1, loading := .failed }
      (jobDev (fun _ => l) (coreAt 1)).launchNo 1 = some l ∧ l.replay = none ∧ l.loading = .failed) ∧
    (let l : Launch := { job with ent := ent1, endedThreads := [0] }
     let d := jobDev (fun _ => l) { coreAt 1 with launch := some 1 }
     d.launchNo 1 = some l ∧ l.replay = none ∧ l.nthr ≤ l.endedThreads.length ∧ l.st = .resident ∧ l.id ≠ 0 ∧ l.inFlight = [] ∧
      ∀ c ∈ l.cores, (d.cores.get c).launch = some l.id → (∀ k, (d.cores.get c).thr.transfers.get k = none) ∧ (d.cores.get c).dmeta = []) ∧
    (jobDev id (coreAt 1)).duty.getLsbD 0 = false ∧ (jobDev id (coreAt 1)).duty.getLsbD 3 = false ∧
    ∀ i, i < 32 → (jobDev id (coreAt 1)).qplace ent1 .vecStore (ent1.comp + 32 * ((0 : Half).toNat % ent1.size) + i) = some (0x201000 + i) := by
  decide +kernel

/-- A launch that is ready, to be dropped when it is late or not, on a device whose cores are free. -/
def readyJob (drop : Bool) : Launch := { job with id := 0, st := .ready, cores := [], dropLate := drop, deadline := 1 }
def freeDev (drop : Bool) : Device := jobDev (fun _ => readyJob drop) { coreAt 0 with mode := .free }

theorem test_hyp_LaunchEvents_dispatch : ∀ drop ∈ [false, true], (freeDev drop).duty.getLsbD 0 = false ∧ (freeDev drop).dstate = 0 ∧
    (freeDev drop).Quiet 0 ∧ pickLaunch ((freeDev drop).freeCores 0).length ((freeDev drop).readyList 0) = some (readyJob drop) ∧
    (readyJob drop).st = .ready ∧ (readyJob drop).preloads = [] ∧ (readyJob drop).dropLate = drop ∧
    0 < deltaOf (readyJob drop).deadline (freeDev drop).time := by
  unfold Device.Quiet
  decide +kernel

def replay0 : Replay :=
  { num := 1, queue := 0, pos := 0, ent := ent1, obj := 0x204000, descs := [0x202000], overlap := false, ncopy := 1, pbsize := 64
    pbbase := 0x205000, copies := 0x206000, patch := [(0, 8, 7)], submitted := 0 }
def replayDev (j : Option Nat) : Device := { slotDev 0x204001 1 with replays := [{ replay0 with copy := j }] }

theorem some_ok_of {α β : Type} {x : Option α} {f : α → Except Nat β} (h : (match x with | some a => (f a).isOk | none => false) = true) :
    ∃ a, x = some a ∧ ∃ b, f a = .ok b := by
  cases x with
  | some a => exact ⟨a, rfl, ok_of h⟩
  | none => cases h

theorem test_hyp_LaunchEvents_replay : (let d := replayDev none
      d.replays.find? (fun r => r.num == 1) = some replay0 ∧ replay0.copy = none ∧ (∀ x ∈ d.replays, x.sameGraph replay0 = true → replay0.num ≤ x.num) ∧
      d.copySlot replay0 = some 0) ∧
    ({ replayDev none with replays := (replayDev none).replays.map fun x => if x.num = 1 then { replay0 with copy := some 0 } else x } : Device) =
      replayDev (some 0) ∧
    (replayDev (some 0)).qread ent1 0x205000 64 = some (List.replicate 64 0) ∧ replay0.descs[0]? = some 0x202000 ∧
    ∃ d2, (replayDev (some 0)).qwrite ent1 (0x206000 + 0 * 64) (patchBytes (List.replicate 64 0) replay0.patch) = some d2 ∧
      ∃ l, d2.readLaunch 0 0 ent1 0x202000 (some { base := 0x205000, size := 64, copy := 0x206000 + 0 * 64 }) = .ok l := by
  refine ⟨by decide +kernel, by simp only [replayDev, replay0, List.map_cons, List.map_nil, if_true], by decide +kernel, rfl, some_ok_of ?_⟩
  decide +kernel

/-! #### The host, its commands, bring-up -/

/-- A device with a channel in partition 0. -/
def chanDev (ch : PChan) (c : Core) : Device := { devOf c with chans := (Vector.replicate 4 {}).set 0 ch }
theorem chanDev_canonical (ch : PChan) (c : Core) (h : c.ab.wf = true ∧ c.wb.wf = true ∧ c.md.wf = true) : (onDev (chanDev ch c)).Canonical := by
  have hd := (canonical_devOf c h [] rfl).1
  have hq : (chanDev ch c).Canonical := ⟨hd.1, hd.2.1, hd.2.2.1, hd.2.2.2⟩
  exact ⟨hq, hq, fun x hx => by cases (show none = some x from hx)⟩

theorem test_hyp_HostEvents_queue : (let d := qDev 1 0 1 (coreAt 1)
      let e := d.queue 0
      d.usable e = true ∧ d.duty.getLsbD 3 = false ∧ e.count = 1 ∧ e.size = 16 ∧ e.head = 0) ∧
    (∀ n ∈ [1, 16], 1 ≤ (n + 2 ^ 32 - 0) % 2 ^ 32 ∧ (n + 2 ^ 32 - 0) % 2 ^ 32 ≤ 16) ∧ (0 + 2 ^ 32 - 0) % 2 ^ 32 < 1 ∧ 16 < (17 + 2 ^ 32 - 0) % 2 ^ 32 ∧
    (devOf (coreAt 1)).usable ((devOf (coreAt 1)).queue 0) = false := by decide +kernel

theorem test_hyp_HostEvents_channel : ({} : PChan).waiting = [] ∧
    (∀ n ∈ [16, 32, 64, 128, 256, 512, 1024, 2048, 4096], let r : Event := { ty := 5, core := 0xFFFF, tag := 0, payload := [] }
      let ch : PChan := { waiting := [r], esize := BitVec.ofNat _ n, ebase := 0x1000, ewrite := 4096 }
      ch.waiting = [r] ∧ ch.esize.toNat ∈ [16, 32, 64, 128, 256, 512, 1024, 2048, 4096] ∧ (ch.ewrite - 4096).toNat < ch.esize.toNat) := by decide

theorem test_hyp_HostEvents_window : (∀ i, i < [1, 2].length → isDevReg (devRegBase - 2 + i) = false) ∧ isDevReg devRegBase = true ∧
    (devRegBase + [1, 2].length - 1) / 0x1000 = devRegBase / 0x1000 ∧ isMem 0 = true ∧ isMem 0x70000000000 = false ∧ isDevReg 0x70000000000 = false ∧
    isDevReg 0 = false := by decide

/-- A device whose port 15 is up, after `n` retries. -/
def portDev (n : Nat) : Device := { devOf (coreAt 1) with portUp := 0x8000, retries := Vector.replicate 16 n }

theorem test_hyp_HostEvents_ports (n : Nat) : (portDev n).portUp.getLsbD 15 = true ∧ (portDev n).retries.get 15 = n ∧ (portDev n).duty.getLsbD 3 = false :=
  ⟨by show (0x8000#16).getLsbD 15 = true; decide, get_rep n 15, by show (0#6).getLsbD 3 = false; decide⟩

/-- A channel busy with a command: its number, its bytes 8 on and byte 12. -/
def busy (k : Byte) (tag : Byte) (x : Byte) (asks : List (Nat × Ask)) : PChan :=
  { cstat := 1, cmd := ((Vector.replicate _ 0).set 0 k |>.set 8 tag |>.set 12 x), asks := asks }

theorem test_hyp_HostCommands_busy : ({} : PChan).cstat ≠ 1 ∧
    ∀ k ∈ [1, 2, 3, 4, 5, 6], (busy (BitVec.ofNat 8 k) 0 0 []).cstat = 1 ∧ fieldAt (busy (BitVec.ofNat 8 k) 0 0 []).cmd.toList 0 1 = k := by decide

theorem test_hyp_HostCommands_launches : (∀ st ∈ [LaunchSt.ready, .preempted], ∀ mode ∈ [CoreMode.free, .off], let l : Launch := { readyJob false with st := st }
      let d : Device := { chanDev (busy 1 0 0 []) { coreAt 0 with mode := mode } with duty := 1, dstate := 0, launches := [l], parts := Vector.replicate 4 part0 }
      d.duty.getLsbD 0 = true ∧ d.dstate = 0 ∧ d.Quiet 0 ∧ (d.launches.find? fun l => l.pid == 0 && l.queue.val == 0 && l.pos.toNat == 0 &&
        (l.st == .ready || l.st == .preempted)) = some l ∧ (l.nthr ≤ (d.freeCores 0).length ↔ mode = .free)) ∧
    (let d : Device := { chanDev (busy 2 1 0 []) { coreAt 0 with launch := some 1 } with duty := 1, launches := [job] }
     d.duty.getLsbD 0 = true ∧ job.id ≠ 0 ∧
      (d.launches.find? fun l => l.pid == 0 && l.id.toNat == 1 && l.st == .resident) = some job ∧
      ∀ c ∈ job.cores, (d.cores.get c).launch = some job.id) := by
  unfold Device.Quiet
  decide +kernel

/-- A partition that takes its map in force, with one core newly retired under the thread it runs, and its event ring full. -/
def retiring : Device :=
  { chanDev { busy 1 0 0 [] with esize := 16, ewrite := 16 } { coreAt 0 with launch := some 1 } with
    duty := 9, dstate := 0, launches := [job], parts := Vector.replicate 4 { part0 with retired := 0 }
    mem := memStore (memStore (memStore [] 0xFE0000 1 1) 0xFE0001 15 1) 0xFE0008 1 1 }

theorem test_hyp_HostCommands_retired : retiring.duty.getLsbD 0 = true ∧ retiring.dstate = 0 ∧ (retiring.chans.get 0).cstat = 1 ∧
    fieldAt (retiring.chans.get 0).cmd.toList 0 1 = 1 ∧ (retiring.refreshRetired 0).2 = false := by decide +kernel

/-- A core that waits for the host's answer to question 1, whose channel 1 holds a transfer that waits for it. -/
def askCore (f : Option Transfer) : Core := { chanCore abToMem f [] with wait := some (.host 1) }

theorem test_hyp_HostCommands_asks : (∀ x ∈ [0, 1], ∀ vec ∈ [none, some { word := 1, elem := 3 }], let ch := busy 3 1 x [(1, .faultCore 0 2 5 vec)]
      (chanDev ch (askCore none)).findAsk 0 1 = some (.faultCore 0 2 5 vec) ∧ ((chanDev ch (askCore none)).cores.get 0).wait = some (.host 1) ∧
        fieldAt ch.cmd.toList 8 4 = 1 ∧ fieldAt ch.cmd.toList 12 1 = x.toNat) ∧
    (∀ x ∈ [0, 1], ∀ asked ∈ [none, some 1], let w : Vp := { asked := asked }
      let d := chanDev (busy 3 1 x [(1, .faultVp 0 0 2 5)]) (coreWith fun t => { t with vps := [w] })
      d.findAsk 0 1 = some (.faultVp 0 0 2 5) ∧ (d.cores.get 0).thr.vps[0]? = some w ∧ w.asked = asked) ∧
    fieldAt (busy 3 1 2 []).cmd.toList 12 1 = 2 ∧
    (∀ f ∈ [{ xfer abToMem 0 [] with waits := true }, { xfer abToMem 0 [] with waits := true, hostTag := some 2 },
        { xfer abToMem 0 [] with waits := true, hostTag := some 1 },
        { xfer abToMem 0 [] with waits := true, hostTag := some 1, tag := some 1, spilled := [(0, ⟨0x1000, [7]⟩)] }],
      (chanDev (busy 5 1 0 [(1, .remote 0 1)]) (askCore (some f))).findAsk 0 1 = some (.remote 0 1) ∧
        (f.tag.isSome = true ∨ (f.held = [] ∧ f.spilled = []))) ∧
    (∀ f, ((chanDev (busy 5 1 0 []) (askCore (some f))).cores.get 0).thr.transfers.get 1 = some f) ∧
    (chanDev (busy 4 1 0 [(1, .spill 0 1)]) (askCore none)).findAsk 0 1 = some (.spill 0 1) ∧
    (chanDev (busy 3 1 0 []) (askCore none)).findAsk 0 1 = none := by
  refine ⟨?_, ?_, by decide, ?_, fun f => rfl, by decide +kernel, by decide +kernel⟩ <;> decide +kernel

theorem test_hyp_HostCommands_verdict : (chanDev (busy 6 0 0 []) (coreAt 2)).boot.awaiting = false ∧
    ∀ v ∈ [0, 1], ∀ staged ∈ [true, false], let d : Device := { chanDev (busy 6 v 0 []) (coreAt 2) with boot := { awaiting := true, staged := staged } }
      d.boot.awaiting = true ∧ fieldAt (busy 6 v 0 []).cmd.toList 8 1 = v.toNat ∧ d.boot.staged = staged := by decide +kernel

theorem test_hyp_BootEvents : (∀ staged ∈ [true, false], let b : Boot := { phase := 1, staged := staged, breq := staged }
      b.phase = 1 ∧ b.awaiting = false ∧ b.staged = staged ∧ b.breq = staged) ∧ ({ phase := 3 } : Boot).phase = 3 ∧ ({} : Boot).phase ≠ 3 ∧
    ({ astat := 1 } : Boot).astat = 1 ∧ ({} : Boot).astat ≠ 1 ∧ (∀ v ∈ [4#5, 16#5], 4 ≤ v.toNat ∧ v.toNat ≤ 16) ∧
    ({ plimit := 1000 } : Boot).plimit.toNat ≤ (2400 : Word).toNat ∧ ¬ ({ plimit := 1000 } : Boot).plimit.toNat ≤ (600 : Word).toNat ∧
    (onCore (coreAt 0)).dev.duty.getLsbD 3 = false := by decide

theorem test_hyp_BootEvents_calm : (∀ o : CoreNo, ((devOf (coreAt 0)).cores.get o).late = [] ∧ (devOf (coreAt 0)).held.get o = none) ∧
    ∀ h ∈ (devOf (coreAt 0)).hops, h.firm = false := ⟨fun o => ⟨congrArg Core.late (get_rep (coreAt 0) o), get_rep (none : Option Held) o⟩, nofun⟩

theorem test_hyp_BootEvents_fault : let d := devJobs [{ job with cores := [0, 1] }] (coreAt 0)
    let l : Launch := { job with cores := [0, 1] }
    d.duty.getLsbD 3 = false ∧ d.launchOn 0 = some l ∧ (d.cores.get 0).ended = false ∧ d.launchNo l.arrival = some l ∧
      (1 : CoreNo) ∈ l.cores ∧ (d.cores.get 1).launch = some l.id ∧ (d.cores.get 1).ended = false := by decide +kernel

theorem test_hyp_StepKeepsMemories : State.reset.Canonical ∧ ∃ t, step State.reset = .next t :=
  ⟨canonical_devOf Core.atReset ⟨rfl, rfl, rfl⟩ [] rfl, _, rfl⟩

/-! ### Single instructions: the spec's worked values -/

/-- What a next state shows, or nothing. -/
def shown {α : Type} (o : Host.Outcome State Fault Refusal) (f : State → α) : Option α :=
  match o with
  | .next t => some (f t)
  | _ => none

/-- Fragment 4 of spec/01_tutorial.md: diagonal 1 of A times diagonal −1 of B, into slot a0. -/
def fragment4 : State :=
  onCore (coreWith fun t => { t with
    ew := .w16, vl := 3, dmode := some .elem, dl := 4, mn := 4
    v := ((Vector.replicate 32 ({} : VecReg)).set 1 { ty := .s16, data := 0x000400030002 }).set 2 { ty := .s16, data := 0x000700060005 } })

theorem test_dmac_fragment4 : shown (exec (.dmacVI .s16 0 ⟨1, false⟩ ⟨2, false⟩ 1 0xFF) fragment4)
    (fun t => (List.range 4).map fun i => t.core.slotVal 0 i) = some [10, 18, 28, 0] := by decide +kernel

theorem test_add_wraps : shown (exec (.add .z32 3 1 2) (onCore (coreX [(1, 0xFFFFFFFF), (2, 2)]))) (fun t => t.rx 3) = some 1 := by decide +kernel

theorem test_add_signs : shown (exec (.add .s32 3 1 2) (onCore (coreX [(1, 0x7FFFFFFF), (2, 1)]))) (fun t => t.rx 3) =
    some 0xFFFFFFFF80000000 := by decide +kernel

theorem test_svc_enters : shown (exec (.svc 5) (onCore { coreAt 0 with pc := 0x2000, t1 := { tvec := 0x8000 } }))
    (fun t => (t.core.pl, t.core.pc, t.core.t1.tval)) = some (1, 0x8000, 5) := by decide +kernel

theorem test_wld_forwards : (let r : VpRun := { run0 with stores := [{ addr := 0x7FFE, n := 2, v := 0xBEEF }] }
    shown (exec (.wld .z16 4 0 0x7FFE .ab) (inAib r)) (fun t => t.ctx.vp.map fun r => r.st.w.get 4)) = some (some 0xBEEF) := by decide +kernel

/-- A vector load above its link mark waits in the queue of its lane, and takes effect once the mark has risen (R238). -/
theorem test_vld_waits : (let s : State := { linked with dev := { linked.dev with mem := memStore [] 0x40FF8 0xBEEF 4 } }
    let raised (t : State) : State := t.setThr { t.thr with lw := Vector.replicate 8 {} }
    shown (s.issue (.vld .z32 .glob 0 1 1 0 0)) fun t => (t.core.late.length, elemGet (t.thr.v.get 1).data 32 0,
      t.drainLate.core.late.length, (raised t).drainLate.core.late.length,
      elemGet ((raised t).drainLate.thr.v.get 1).data 32 0)) = some (1, 0, 1, 0, 0xBEEF) := by decide +kernel

/-- A cyclic row of 200 values from slot 312 needs no slot above 511, whatever its first column (R265). -/
theorem test_dmov_row : (let s := onCore (coreWith fun t => { t with ew := .w32, vl := 0, dmode := some .elem, dl := 200, mn := 200 })
    shown (exec (.dmovV .z32 1 312 true 1) (s.setCore (s.core.setX 1 150))) fun t => (t.ctx.trapped, (t.thr.v.get 1).ty)) =
    some (false, .z32) := by decide +kernel

/-- A mark is published once the stores before it are performed (R237). -/
theorem test_wmpub_waits : shown (exec (.wmpub 0 1) (onCore (queuedStore (coreAt 2)))) (fun t => t.core.wait) = some (some .retry) := by
  decide +kernel

end Sys2Proof.Tests
end

section
/-!
PROOF. `Round` of the exact value of a pattern (R102). The value of a finite pattern has its significand at the unit the format
has at that magnitude, so `Round` cuts nothing off (`roundFp_representable`), and the pattern without its sign is that
significand added to the exponent field (`fpOf_fin`); what is left is the sign and the two infinities.
-/

namespace Sys2Proof.Machine

/-! ### Representable values -/

/-- The exponent of the least subnormal of `t`, the unit of every subnormal (Table 5.2). -/
def leastExp (t : Ty) : Int := 1 - (fBias t : Int) - fBits t

/-- `man` × 2^`exp` as R94 writes a value: the significand is a leading bit and a fraction, and only at the least exponent may
the leading bit be absent. -/
structure Representable (t : Ty) (man : Nat) (exp : Int) : Prop where
  width : man < 2 ^ (fBits t + 1)
  lead : exp = leastExp t ∨ leastExp t < exp ∧ 2 ^ fBits t ≤ man

/-- The exponent and fraction fields of a representable value: the leading bit of the significand carries into the exponent. -/
def magBits (t : Ty) (man : Nat) (exp : Int) : Nat := ((exp - leastExp t) * 2 ^ fBits t).toNat + man

/-- Under every mode and every random word, nothing cut off moves nothing away from zero (R102, R107). -/
@[simp] theorem roundsUp_exact (mode : Mode) (neg : Bool) (rnd sig : Nat) : roundsUp mode neg rnd sig 0 0 = false := by
  cases mode <;> simp [roundsUp]

/-- The unit `Round` picks for a representable value is the unit the value already has. -/
theorem roundUnit_representable {t : Ty} {man : Nat} {exp : Int} (h : Representable t man exp) (hman : man ≠ 0) :
    (if (Nat.log2 man : Int) + exp < 1 - (fBias t : Int) then 1 - (fBias t : Int) else Nat.log2 man + exp) - fBits t = exp := by
  obtain ⟨hwidth, hlead⟩ := h
  have hlog : Nat.log2 man < fBits t + 1 := (Nat.log2_lt hman).2 hwidth
  rw [leastExp] at hlead
  obtain hleast | ⟨habove, hbit⟩ := hlead
  · split <;> omega
  · have hlog' : fBits t ≤ Nat.log2 man := (Nat.le_log2 hman).2 hbit
    split <;> omega

/-- `Round` gives a representable value that does not overflow its own pattern. -/
theorem roundFp_representable {t : Ty} {man : Nat} {exp : Int} (mode : Mode) (rnd : Nat) (neg : Bool)
    (h : Representable t man exp) (hmax : magBits t man exp ≤ maxFinite t) :
    roundFp t mode rnd (.fin neg man exp) = signBit t neg + magBits t man exp := by
  cases man with
  | zero =>
    have hexp : exp = leastExp t := h.lead.resolve_right fun hn => absurd hn.2 (Nat.two_pow_pos _).not_ge
    simp [roundFp, magBits, hexp]
  | succ n =>
    have hfield : exp + fBits t + fBias t - 1 = exp - leastExp t := by rw [leastExp]; omega
    simp only [magBits] at hmax ⊢
    simp [roundFp, roundFin, roundUnit_representable h n.succ_ne_zero, hfield, hmax]

/-! ### The value of a pattern -/

/-- A floating format: a sign, an exponent and a fraction fill its width (R94). -/
structure IsFloat (t : Ty) : Prop where
  width : t.bits = eBits t + fBits t + 1
  exponent : 0 < eBits t

/-- The pattern without its sign bit. -/
def magnitude (t : Ty) (bits : Nat) : Nat := bits % 2 ^ t.bits % 2 ^ (t.bits - 1)

/-- A magnitude is below the sign bit. -/
theorem magnitude_lt (t : Ty) (bits : Nat) : magnitude t bits < 2 ^ (t.bits - 1) := Nat.mod_lt _ (Nat.two_pow_pos _)

/-- The sign and the magnitude of a pattern make the pattern again. -/
theorem signBit_add_magnitude {t : Ty} {bits : Nat} (ht : IsFloat t) (hb : bits < 2 ^ t.bits) :
    signBit t (decide (2 ^ (t.bits - 1) ≤ bits % 2 ^ t.bits)) + magnitude t bits = bits := by
  have hhalf : 2 ^ (t.bits - 1) + 2 ^ (t.bits - 1) = 2 ^ t.bits := Nat.two_pow_pred_add_two_pow_pred (by have := ht.width; omega)
  rw [magnitude, Nat.mod_eq_of_lt hb, signBit]
  by_cases hneg : 2 ^ (t.bits - 1) ≤ bits
  · simp only [hneg, decide_true, if_true]
    rw [Nat.mod_eq_sub_mod hneg, Nat.mod_eq_of_lt (by omega)]
    omega
  · simp [hneg, Nat.mod_eq_of_lt (not_le.1 hneg)]

/-- The least magnitude above the finite ones, except in `e4m3`: all ones in the exponent, zero in the fraction. -/
theorem maxFinite_add_one {t : Ty} (ht : IsFloat t) (h : t ≠ .e4m3) : maxFinite t + 1 = (2 ^ eBits t - 1) * 2 ^ fBits t := by
  have hexp : 0 < 2 ^ eBits t - 1 := Nat.sub_pos_of_lt (Nat.one_lt_two_pow ht.exponent.ne')
  rw [maxFinite, Nat.sub_add_cancel (Nat.mul_pos hexp (Nat.two_pow_pos _))]
  exact h

/-- A magnitude is finite below the all-ones exponent, and in `e4m3` where it is not the NaN (R94, R95). -/
theorem le_maxFinite {t : Ty} {m : Nat} (ht : IsFloat t) (hm : m < 2 ^ (t.bits - 1)) (hnan : ¬(t = .e4m3 ∧ m = 0x7F))
    (htop : ¬(m / 2 ^ fBits t = 2 ^ eBits t - 1 ∧ t ≠ .e4m3)) : m ≤ maxFinite t := by
  by_cases h : t = .e4m3
  · have hne : m ≠ 0x7F := fun heq => hnan ⟨h, heq⟩
    subst h
    simp only [Ty.bits, maxFinite] at hm ⊢
    omega
  · have hne : m / 2 ^ fBits t ≠ 2 ^ eBits t - 1 := fun heq => htop ⟨heq, h⟩
    have hfield : m / 2 ^ fBits t < 2 ^ eBits t := by
      rw [Nat.div_lt_iff_lt_mul (Nat.two_pow_pos _), ← pow_add]
      rwa [ht.width, Nat.add_sub_cancel] at hm
    rw [← Nat.lt_add_one_iff, maxFinite_add_one ht h, ← Nat.div_lt_iff_lt_mul (Nat.two_pow_pos _)]
    omega

/-- The value of a finite pattern is representable, with the sign and the magnitude of the pattern. -/
theorem fpOf_fin {t : Ty} {bits man : Nat} {neg : Bool} {exp : Int} (ht : IsFloat t) (h : fpOf t bits = .fin neg man exp) :
    neg = decide (2 ^ (t.bits - 1) ≤ bits % 2 ^ t.bits) ∧ Representable t man exp ∧ magBits t man exp = magnitude t bits ∧
      magnitude t bits ≤ maxFinite t := by
  have hm := magnitude_lt t bits
  simp only [fpOf, magnitude, Bool.and_eq_true, decide_eq_true_eq, bne_iff_ne] at h hm ⊢
  generalize bits % 2 ^ t.bits % 2 ^ (t.bits - 1) = m at h hm ⊢
  have hfrac : m % 2 ^ fBits t < 2 ^ fBits t := Nat.mod_lt _ (Nat.two_pow_pos _)
  have hsplit := Nat.div_add_mod' m (2 ^ fBits t)
  have hpow : 2 ^ (fBits t + 1) = 2 ^ fBits t * 2 := pow_succ ..
  split_ifs at h with hnan htop hf hexp
  · -- E = 0: zero and the subnormals
    obtain ⟨rfl, rfl, rfl⟩ := h
    refine ⟨rfl, ⟨by omega, .inl rfl⟩, ?_, le_maxFinite ht hm hnan htop⟩
    rw [hexp, Nat.zero_mul, Nat.zero_add] at hsplit
    simp [magBits, leastExp, hsplit]
  · -- the normal values
    obtain ⟨rfl, rfl, rfl⟩ := h
    obtain ⟨e, he⟩ := Nat.exists_eq_succ_of_ne_zero hexp
    have hunit : ((m / 2 ^ fBits t : Nat) : Int) - fBias t - fBits t = leastExp t + e := by rw [leastExp, he]; omega
    rw [he, Nat.succ_mul] at hsplit
    rw [hunit, magBits, add_sub_cancel_left]
    refine ⟨rfl, ⟨by omega, by omega⟩, ?_, le_maxFinite ht hm hnan htop⟩
    norm_cast
    omega

/-- The value of a pattern is an infinity only for the pattern of that infinity. -/
theorem fpOf_inf {t : Ty} {bits : Nat} {neg : Bool} (ht : IsFloat t) (h : fpOf t bits = .inf neg) :
    neg = decide (2 ^ (t.bits - 1) ≤ bits % 2 ^ t.bits) ∧ infBits t neg = signBit t neg + magnitude t bits := by
  simp only [fpOf, magnitude, Bool.and_eq_true, decide_eq_true_eq, bne_iff_ne] at h ⊢
  generalize bits % 2 ^ t.bits % 2 ^ (t.bits - 1) = m at h ⊢
  have hsplit := Nat.div_add_mod' m (2 ^ fBits t)
  split_ifs at h with hnan htop hf
  obtain ⟨rfl⟩ := h
  obtain ⟨hexp, hne⟩ := htop
  rw [hexp, hf, Nat.add_zero] at hsplit
  refine ⟨rfl, ?_⟩
  simp [infBits, maxFinite_add_one ht hne, hsplit]

/-! ### Rounding the value of a pattern -/

/-- The six formats of Table 5.2 are floating formats. -/
theorem isFloat_of_table {t : Ty} (h : t = .f16 ∨ t = .bf16 ∨ t = .f32 ∨ t = .f64 ∨ t = .e4m3 ∨ t = .e5m2) : IsFloat t := by
  rcases h with rfl | rfl | rfl | rfl | rfl | rfl <;> exact ⟨rfl, by decide⟩

/-- Settles O22: a finite pattern by `roundFp_representable`, an infinity by `fpOf_inf`. -/
theorem roundIsExact : Obligations.RoundIsExact := by
  intro t mode rnd bits hfloat hbits hnan _
  have ht := isFloat_of_table hfloat
  have hwhole := signBit_add_magnitude ht hbits
  cases hx : fpOf t bits with
  | nan => exact absurd hx hnan
  | inf neg =>
    obtain ⟨rfl, hinf⟩ := fpOf_inf ht hx
    exact hinf.trans hwhole
  | fin neg man exp =>
    obtain ⟨rfl, hrep, hmag, hmax⟩ := fpOf_fin ht hx
    rw [roundFp_representable mode rnd _ hrep (hmag ▸ hmax), hmag, hwhole]

end Sys2Proof.Machine
end

section
/-!
PROOF. The decoder on the two major opcodes of a hint (R126). Every bit of such a word but P and E is an operand of the
hint, so the word has no reserved field and no operand that could be illegal, and the decoder never refuses it.
-/

namespace Sys2Proof.Machine

/-! ### What the decoder accepts -/

/-- The truth value of a one-bit field is that bit of the word. -/
theorem bit_extractLsb' (w : Word) (k : Nat) : bit (w.extractLsb' k 1) = w.getLsbD k :=
  (BitVec.getLsbD_eq_extractLsb' w k).symm

/-- A candidate whose fields are its entry's and whose operands are legal is accepted (R125). -/
theorem accept_of_fields {i : Instr} {r : Raw} (hfields : fields i = some r) (hlegal : legal i = true) :
    accept i r = .ok i := by
  rw [accept, if_pos hfields, if_pos hlegal]

/-- A full word, one whose bit P is 0 (R115), decodes to the instruction `decodeFull` reads. -/
theorem decodeWord_of_decodeFull {w : Word} {i : Instr} (hp : w.getLsbD 63 = false) (hi : decodeFull w = .ok i) :
    decodeWord w = .ok (.full i) := by
  rw [decodeWord, bit_extractLsb', hp, hi]
  rfl

/-! ### Hints -/

/-- The hint in a word: bit 56 tells its two major opcodes apart, and bits 55 to 1 are its payload (R126). -/
noncomputable def hintOf (w : Word) : Instr := .hint (bit (w.extractLsb' 56 1)) (w.extractLsb' 1 55)

section HintWord

variable {w : Word} (hmaj : w.extractLsb' 56 7 = 0x7C#7 ∨ w.extractLsb' 56 7 = 0x7D#7)
include hmaj

/-- Both major opcodes name the hint (R124). -/
theorem candidate_hint : candidate w = some (hintOf w) := by
  rcases hmaj with heven | hodd
  · rw [candidate, heven]; rfl
  · rw [candidate, hodd]; rfl

/-- The layout of a hint word is the one the hint's own entry gives, so no field of it is reserved. -/
theorem rawOf_hint : rawOf w = fields (hintOf w) := by
  rcases hmaj with heven | hodd
  · rw [rawOf, heven]; rfl
  · rw [rawOf, hodd]; rfl

/-- No payload makes the decoder refuse a hint (R126). -/
theorem decodeFull_hint : decodeFull w = .ok (hintOf w) := by
  rw [decodeFull, candidate_hint hmaj, rawOf_hint hmaj]
  exact accept_of_fields rfl rfl

end HintWord

/-- A hint leaves the whole state as it is, and takes no trap (R126). -/
@[simp] theorem exec_hint (odd : Bool) (bits : BitVec 55) (s : State) : exec (.hint odd bits) s = .next s := rfl

/-- Settles O5: by `decodeFull_hint` the decoder accepts the word whatever its payload, and by `exec_hint` it does nothing. -/
theorem hintDoesNothing : Obligations.HintDoesNothing := by
  intro w s hp hmaj
  exact ⟨_, _, decodeWord_of_decodeFull hp (decodeFull_hint hmaj), exec_hint _ _ s, rfl⟩

end Sys2Proof.Machine
end

section
/-!
PROOF. The swizzle `Swz` (R307). It is the exclusive or with the number of the offset's row, taken modulo the units of a row and
placed at the unit field. So it changes neither the row (`swz_div_row`), which is all that number depends on, nor the byte within
the unit (`swz_mod_unit`), and a second swizzle undoes the first.
-/

namespace Sys2Proof.Machine

/-! ### The swizzle of an offset -/

/-- What `Swz` combines an offset with stays below the size of a row. -/
theorem rowKey_lt (o s : Nat) : o / 2 ^ (4 + s) % 2 ^ s * 16 < 2 ^ (4 + s) := by
  have hmod : o / 2 ^ (4 + s) % 2 ^ s < 2 ^ s := Nat.mod_lt _ (Nat.two_pow_pos s)
  rw [Nat.pow_add]
  omega

/-- `Swz` as R307 writes it, with shifts. -/
theorem swz_eq_shifts (o s : Nat) : swz o s = o ^^^ (((o >>> (4 + s)) % 2 ^ s) <<< 4) := by
  rw [swz, Nat.shiftRight_eq_div_pow, Nat.shiftLeft_eq]

/-- `Swz` stays within the aligned row of 2^(4 + S) bytes. -/
@[simp] theorem swz_div_row (o s : Nat) : swz o s / 2 ^ (4 + s) = o / 2 ^ (4 + s) := by
  rw [swz, Nat.xor_div_two_pow, Nat.div_eq_of_lt (rowKey_lt o s), Nat.xor_zero]

/-- `Swz` moves whole units of 16 bytes: the byte within the unit stays. -/
@[simp] theorem swz_mod_unit (o s : Nat) : swz o s % 16 = o % 16 := by
  have h := Nat.xor_mod_two_pow (a := o) (b := o / 2 ^ (4 + s) % 2 ^ s * 2 ^ 4) (n := 4)
  rwa [Nat.mul_mod_left, Nat.xor_zero] at h

/-- The unit `Swz` moves an offset to. -/
theorem swz_div_unit (o s : Nat) : swz o s / 16 = o / 16 ^^^ (o / 16 / 2 ^ s % 2 ^ s) := by
  have h := Nat.xor_div_two_pow (a := o) (b := o / 2 ^ (4 + s) % 2 ^ s * 2 ^ 4) (n := 4)
  rw [Nat.mul_div_cancel _ (Nat.two_pow_pos 4), Nat.pow_add, ← Nat.div_div_eq_div_mul] at h
  rwa [swz, Nat.pow_add, ← Nat.div_div_eq_div_mul]

/-- `Swz` undoes itself: both times it combines with the number of the same row. -/
@[simp] theorem swz_swz (o s : Nat) : swz (swz o s) s = o :=
  calc swz (swz o s) s
      = swz o s ^^^ (o / 2 ^ (4 + s) % 2 ^ s * 16) := by rw [swz, swz_div_row]
    _ = o := by rw [swz, Nat.xor_xor_cancel_right]

/-- At span 0 a row is one unit, and nothing moves. -/
@[simp] theorem swz_zero (o : Nat) : swz o 0 = o := by
  rw [swz, Nat.pow_zero, Nat.mod_one, Nat.zero_mul, Nat.xor_zero]

/-- Where `Swz` puts the bytes of the unit `u`: in their order, in one unit. -/
theorem swz_of_unit {k : Nat} (u s : Nat) (hk : k < 16) : swz (16 * u + k) s = 16 * (u ^^^ (u / 2 ^ s % 2 ^ s)) + k := by
  have hunit : (16 * u + k) / 16 = u := by omega
  have hdiv := swz_div_unit (16 * u + k) s
  have hmod := swz_mod_unit (16 * u + k) s
  rw [hunit] at hdiv
  omega

/-- Settles O42: `swz_div_row` and `swz_swz` for the rows and the involution, `swz_of_unit` for the units that move whole. -/
theorem swizzle : Obligations.Swizzle := by
  intro o s _
  have hrow : swz o s / (16 * 2 ^ s) = o / (16 * 2 ^ s) := by
    simpa only [Nat.pow_add] using swz_div_row o s
  refine ⟨swz_eq_shifts o s, swz_swz o s, swz_zero o, hrow, swz_mod_unit o s, fun k hk => ?_⟩
  have hstart : swz (16 * (o / 16)) s = 16 * (o / 16 ^^^ (o / 16 / 2 ^ s % 2 ^ s)) := swz_of_unit _ s (k := 0) (by decide)
  rw [swz_of_unit _ s hk, hstart]

end Sys2Proof.Machine
end

section
/-!
PROOF. The entry of a trap (R371). It is one write of the saved registers of the level it enters, whatever that level is, and then
`PSTAT` and the pc; so what it does to the saved registers is said once for both levels (`trapRegs_setTrapRegs`), and what it
leaves of the core is what that write leaves (`setTrapRegs_frame`). The fields of `TCAUSE` stand apart in its word (Table 19.2).
-/

namespace Sys2Proof.Machine

/-! ### Aligned addresses -/

/-- An address in 8-byte units is what `TEPC` and `TVEC` hold as it is (Table 19.3). -/
theorem align8_of_aligned {a : Word} (h : a.toNat % 8 = 0) : align8 a = a := by
  have hmask : ~~~ 7#64 = BitVec.allOnes 64 <<< 3 := by decide
  have hunits : a >>> 3 <<< 3 = a := by
    apply BitVec.eq_of_toNat_eq
    rw [BitVec.toNat_shiftLeft, BitVec.toNat_ushiftRight, Nat.shiftRight_eq_div_pow, Nat.shiftLeft_eq]
    omega
  calc align8 a
      = a >>> 3 <<< 3 &&& BitVec.allOnes 64 <<< 3 := by rw [align8, hmask, hunits]
    _ = a := by rw [← BitVec.shiftLeft_and_distrib, BitVec.and_allOnes, hunits]

/-! ### The saved registers of a level -/

@[simp] theorem trapRegs_setTrapRegs (c : Core) (l : BitVec 2) (t : TrapRegs) : (c.setTrapRegs l t).trapRegs l = t := by
  unfold Core.setTrapRegs Core.trapRegs
  split <;> rfl

/-- Writing the saved registers of one level leaves the rest of the core. -/
theorem setTrapRegs_frame (c : Core) (l : BitVec 2) (t : TrapRegs) :
    c.setTrapRegs l t = { c with t1 := (c.setTrapRegs l t).t1, t2 := (c.setTrapRegs l t).t2 } := by
  unfold Core.setTrapRegs
  split <;> rfl

theorem setTrapRegs_t1 (c : Core) {l : BitVec 2} (t : TrapRegs) (h : l ≠ 1) : (c.setTrapRegs l t).t1 = c.t1 := by
  rw [Core.setTrapRegs, if_neg h]

theorem setTrapRegs_t2 (c : Core) {l : BitVec 2} (t : TrapRegs) (h : l = 1) : (c.setTrapRegs l t).t2 = c.t2 := by
  rw [Core.setTrapRegs, if_pos h]

/-! ### The fields of `TCAUSE` -/

section TCause

variable (code : BitVec 8) (int vp : Bool) (vpn : BitVec 10) (ppl : BitVec 2) (pie : Bool)

/-- A bit of `TCAUSE` is a bit of its fields side by side, whose widths add up to a word. -/
theorem getLsbD_tcauseWord (k : Nat) : (tcauseWord code int vp vpn ppl pie).getLsbD k =
    (0#41 ++ BitVec.ofBool pie ++ ppl ++ vpn ++ BitVec.ofBool vp ++ BitVec.ofBool int ++ code).getLsbD k := rfl

/-- The same for a run of bits. -/
theorem extractLsb'_tcauseWord (k n : Nat) : (tcauseWord code int vp vpn ppl pie).extractLsb' k n =
    (0#41 ++ BitVec.ofBool pie ++ ppl ++ vpn ++ BitVec.ofBool vp ++ BitVec.ofBool int ++ code).extractLsb' k n := rfl

theorem tcauseWord_code : (tcauseWord code int vp vpn ppl pie).extractLsb' 0 8 = code := by
  rw [extractLsb'_tcauseWord, BitVec.extractLsb'_append_eq_right]

theorem tcauseWord_int : (tcauseWord code int vp vpn ppl pie).getLsbD 8 = int := by
  simp only [getLsbD_tcauseWord, BitVec.getLsbD_append]
  simp

theorem tcauseWord_vp : (tcauseWord code int vp vpn ppl pie).getLsbD 9 = vp := by
  simp only [getLsbD_tcauseWord, BitVec.getLsbD_append]
  simp

theorem tcauseWord_vpn : (tcauseWord code int vp vpn ppl pie).extractLsb' 10 10 = vpn := by
  simp (disch := decide) only [extractLsb'_tcauseWord, BitVec.extractLsb'_append_eq_of_le,
    BitVec.extractLsb'_append_eq_of_add_le, Nat.reduceSub, BitVec.extractLsb'_eq_self]

theorem tcauseWord_ppl : (tcauseWord code int vp vpn ppl pie).extractLsb' 20 2 = ppl := by
  simp (disch := decide) only [extractLsb'_tcauseWord, BitVec.extractLsb'_append_eq_of_le,
    BitVec.extractLsb'_append_eq_of_add_le, Nat.reduceSub, BitVec.extractLsb'_eq_self]

theorem tcauseWord_pie : (tcauseWord code int vp vpn ppl pie).getLsbD 22 = pie := by
  simp only [getLsbD_tcauseWord, BitVec.getLsbD_append]
  simp

end TCause

/-! ### Entering a trap -/

section Entry

variable (c : Core) (code : BitVec 8) (int vp : Bool) (vpn : BitVec 10) (tval tepc : Word)

/-- What a trap leaves in the saved registers of the level it enters (R371): all but `TVEC`. -/
@[simp] theorem enterTrap_trapRegs : (c.enterTrap code int vp vpn tval tepc).trapRegs (trapLevel c.pl) =
    { c.trapRegs (trapLevel c.pl) with
        tepc := align8 tepc, tval := tval, tcause := tcauseWord code int vp vpn c.pl c.ie } :=
  trapRegs_setTrapRegs c _ _

/-- Taking a trap writes the pc, `PSTAT` and saved registers, and leaves the rest of the core. -/
theorem enterTrap_frame : let t := c.enterTrap code int vp vpn tval tepc
    t = { c with pc := t.pc, pl := t.pl, ie := t.ie, t1 := t.t1, t2 := t.t2 } :=
  congrArg (fun o : Core => { o with
      pc := align8 (c.trapRegs (trapLevel c.pl)).tvec, pl := trapLevel c.pl, ie := false }) (setTrapRegs_frame c _ _)

/-- A trap into level 2 leaves the saved registers of level 1. -/
theorem enterTrap_t1 (h : trapLevel c.pl = 2) : (c.enterTrap code int vp vpn tval tepc).t1 = c.t1 :=
  setTrapRegs_t1 c _ (by rw [h]; decide)

/-- A trap into level 1 leaves the saved registers of level 2. -/
theorem enterTrap_t2 (h : trapLevel c.pl = 1) : (c.enterTrap code int vp vpn tval tepc).t2 = c.t2 :=
  setTrapRegs_t2 c _ h

end Entry

/-- Settles O12: `enterTrap_trapRegs` says what is saved and `tcauseWord_code` to `tcauseWord_pie` read it; the frame is
`enterTrap_frame`, with `enterTrap_t1` and `enterTrap_t2` for the saved registers of the other level. -/
theorem trapEntry : Obligations.TrapEntry := by
  intro c code int vp vpn tval tepc htepc _ htvec t r
  have hr : r = { c.trapRegs (trapLevel c.pl) with tepc, tval, tcause := tcauseWord code int vp vpn c.pl c.ie } := by
    rw [← align8_of_aligned htepc]
    exact enterTrap_trapRegs ..
  have hpc : t.pc = (c.trapRegs (trapLevel c.pl)).tvec := align8_of_aligned htvec
  rw [hr]
  exact ⟨rfl, rfl, rfl, rfl, rfl, tcauseWord_code .., tcauseWord_int .., tcauseWord_vp .., tcauseWord_vpn .., tcauseWord_ppl ..,
    tcauseWord_pie .., rfl, hpc, enterTrap_frame ..,
    enterTrap_t2 c code int vp vpn tval tepc, enterTrap_t1 c code int vp vpn tval tepc⟩

end Sys2Proof.Machine
end
